-- ==== Sys2Proof/Word.lean ====
section
/-! DEFINITION. Word.lean: the words of the machine and their plainest arithmetic (spec/00_scope.md R4 to R8). -/

namespace Sys2Proof

/-- One byte. -/
abbrev Byte := BitVec 8
/-- One scalar queue entry, one system register, one handle (R175). -/
abbrev Entry := BitVec 64
/-- One vector queue entry, 4,096 bits (R175). -/
abbrev Vec := BitVec 4096
/-- One mask register, 1,024 bits (R175). -/
abbrev Mask := BitVec 1024
/-- A native code offset. -/
abbrev Offset := BitVec 32

/-- `bits(w, lo + n - 1, lo)` of the spec's pseudocode: `n` bits of `w` from bit `lo` up. -/
def bits (w lo n : Nat) : Nat := w / 2 ^ lo % 2 ^ n

/-- One bit as a truth value. -/
def bit (w lo : Nat) : Bool := w / 2 ^ lo % 2 == 1

/-- Two's-complement value of the low `n` bits (`sext`). -/
def sextN (n w : Nat) : Int :=
  if w % 2 ^ n < 2 ^ (n - 1) then (w % 2 ^ n : Nat) else (w % 2 ^ n : Nat) - (2 ^ n : Nat)

/-- The low `n` bits of an integer, as a natural number (reduction modulo `2^n`). -/
def wrapN (n : Nat) (v : Int) : Nat := (v % (2 ^ n : Nat)).toNat

end Sys2Proof
end

