-- ==== Sys2Proof/Config.lean ====
section
/-! DEFINITION. Config.lean: the values that the spec leaves open. Each is a constant without a body, so nothing can be proved
of its value (log 5, log 6). -/

namespace Sys2Proof.Config

/-- The n-th open value of a run: a value that the spec gives the machine without stating which (DESIGN CHOICE, log 5). -/
opaque freeWord : Nat → Entry

/-- The byte "format expected" of LAYOUT/0x03 (Table 20-1) where an instruction accepts several formats, by the format
found: the spec does not say which of them is named (DESIGN CHOICE, log 5). -/
opaque formatExpected : Nat → Byte

/-- The SM2 signature of a quote under the identity key of the part whose fuse row holds it (PRESUMED, log 6). -/
opaque sm2 : List Byte → List Byte

end Sys2Proof.Config
end

