-- ==== Sys2Proof/Syntax.lean ====
section
/-! DEFINITION. Syntax.lean: the operand forms and the one inductive of instructions, a constructor for every row of
spec/opcode_table.json: the slot operations of a bundle (spec/06 to spec/11), the near-bank microinstructions
(spec/12, Table 12-5) and the events and commands of the machine (spec/01 to spec/21). -/

namespace Sys2Proof

/-- Element formats, Table 03-3. -/
inductive Fmt
  | z8 | z16 | z32 | z64 | s8 | s16 | s32 | s64 | f16 | bf16 | f32 | f64 | e4m3 | e5m2 | q4
deriving DecidableEq, Repr

/-- Rounding codes, Table 05-4; code 0b110 is reserved. -/
inductive Rm
  | rne | rtz | rdn | rup | rna | sto | dyn
deriving DecidableEq, Repr

/-- Compare conditions, Tables 07-3 and 07-7 (`un` is a float condition only). -/
inductive Cond
  | eq | ne | lt | le | gt | ge | un
deriving DecidableEq, Repr

/-- Conditions of `brc`, Table 07-10. -/
inductive BCond
  | z | nz | ltz | gez | gtz | lez
deriving DecidableEq, Repr

/-- The modifier of a lane-wise operation: SAT for integer types, a rounding code for float types (Table 08-2). -/
inductive VMod
  | int (sat : Bool)
  | flt (m : Rm)
deriving DecidableEq, Repr

/-- q4 block types, Table 05-2. -/
inductive BT
  | ui | e2m1 | p2 | hy
deriving DecidableEq, Repr

/-- Reduction of `vred`, R245. -/
inductive RedOp
  | add | max | min
deriving DecidableEq, Repr

/-- Reduction of a copy or scatter, Table 10-3. -/
inductive Red
  | copy | add | max | min
deriving DecidableEq, Repr

/-- Ordering codes, Table 04-4. -/
inductive Ord4
  | rlx | acq | rel | acqrel
deriving DecidableEq, Repr

/-- Operations of `atom`, R299. -/
inductive AtomOp
  | add | min | max | and | or | xor | swap
deriving DecidableEq, Repr

/-- Placement of a fork, R307. -/
inductive Place
  | own | spire | dome | tower
deriving DecidableEq, Repr

/-- The version `obj.ver` reads, Table 11-5. -/
inductive VerSel
  | cver | dver | pinned
deriving DecidableEq, Repr

/-- Row operations, R323. -/
inductive RowOp
  | copy | fill | and | or | xor | not | maj
deriving DecidableEq, Repr

/-- Row formats of a microinstruction, R341. -/
inductive NFmt
  | f32 | bfLo | bfHi | hfLo | hfHi
deriving DecidableEq, Repr

/-- A scalar source: queue number and peek bit (R176). -/
structure SrcS where
  q : Fin 32
  peek : Bool
deriving DecidableEq, Repr

/-- A vector source: queue number and peek bit (R176). -/
structure SrcV where
  q : Fin 16
  peek : Bool
deriving DecidableEq, Repr

/-- Scalar form R: destination and two sources (Table 06-2). -/
structure Reg3 where
  d : Fin 32
  a : SrcS
  b : SrcS
deriving DecidableEq, Repr

/-- Scalar form R with one source; also form I. -/
structure Reg2 where
  d : Fin 32
  a : SrcS
deriving DecidableEq, Repr

/-- Frame VA: governing mask, destination and two vector sources (Table 08-1). -/
structure Vec3 where
  k : Fin 8
  d : Fin 16
  a : SrcV
  b : SrcV
deriving DecidableEq, Repr

/-- Frame VA with one source. -/
structure Vec2 where
  k : Fin 8
  d : Fin 16
  a : SrcV
deriving DecidableEq, Repr

/-- Fields of `vld` and `vst`, Table 08-5. -/
structure VMem where
  d : Fin 16
  s : SrcS
  swz : Fin 8
  k : Fin 8
  g : Fin 4
  imm : Fin 64
deriving DecidableEq, Repr

/-- Fields of `vldx` and `vstx`, frame VG of Table 08-1. -/
structure VIdx where
  d : Fin 16
  s : SrcS
  b : SrcV
  k : Fin 8
deriving DecidableEq, Repr

/-- Two scalar sources of an X-class operation. -/
structure Src2 where
  a : SrcS
  b : SrcS
deriving DecidableEq, Repr

/-- A flit as it is received or sent: the header of Table 13-1, the transfer header of Table 13-3, the payload
bytes, the lane it uses and whether its tag passes (R350, R351, R364). -/
structure FlitHdr where
  hsrc : Nat
  hdst : Nat
  esrc : Nat
  edst : Nat
  kind : Nat
  rly : Bool
  kp : Bool
  rsv : Nat
  crd : Nat
  pseq : Nat
  ctr : Nat
  tns : Nat
  len : Nat
deriving DecidableEq, Repr

/-- Transfer header, Table 13-3. -/
structure XferHdr where
  obj : Entry
  ver : Nat
  fmt : Nat
  opc : Nat
  segi : Nat
  segn : Nat
  rtag : Nat
  off : Nat
  sseq : Nat
deriving DecidableEq, Repr

/-- One flit; `errs` counts the bit errors that its lane corrected in it (R446). -/
structure Flit where
  h : FlitHdr
  x : XferHdr
  data : List Byte
  lane : Fin 512
  tagOk : Bool
  errs : Nat
deriving DecidableEq, Repr

/-- A control message (Table 14-1) as the port receives it; `tagOk` is the outcome of its SM4-GCM check (R368). A request of a keep core comes with its
number and its space (R84). -/
structure CpMsg where
  portB : Bool
  sess : Nat
  seq : Nat
  cpv : Nat
  rsv : Bool
  tagOk : Bool
  kc : Option (Fin 16 × Nat)
deriving DecidableEq, Repr

/-- A master of the semaphore block (R372). -/
inductive Master
  | portA | portB | kc (n : Fin 16)
deriving DecidableEq, Repr

/-- What the boot ROM finds at each step of bring-up (Table 14-4): whether the step's check passes, and the data the
step loads. These are inputs: fuses, firmware image and training are outside the device's registers. -/
structure Bringup where
  fusesOk : Bool
  rootOk : Bool
  sigOk : Bool
  segBad : Option Nat
  fsvn : Nat
  manifestHash : BitVec 256
  dmap : Option (List (BitVec 256))
  idHash : BitVec 256
  grants : List (Nat × Nat)
  hbmBad : Option Nat
  lpddrBad : Option Nat
  flightBad : Option Nat
  lanesFailed : List (Fin 512)
  sliceOk : Bool
  slice : List (Nat × List Entry)
  otb : Entry
  stages : List (BitVec 256)
  master : Fin 256
  aligned : Bool
deriving DecidableEq, Repr

/-- What wakes after power gating: a tile store bank, or a way of an L2 slice of a dome of tower t (R35, R464). -/
inductive WakeAt
  | ts (sp : Fin 128) (b : Fin 64)
  | l2 (t dome slice : Fin 4) (way : Fin 16)
deriving DecidableEq, Repr

/-- Where an ECC error is met (place codes of R440): `k` numbers the lines of a cache, that used last first; an L2 slice is of the spire's dome. -/
inductive EccAt
  | ts (sp : Fin 128) (off : Nat)
  | acc (sp : Fin 128) (word : Nat)
  | lat (sp : Fin 128) (word : Nat)
  | queue (sp : Fin 128) (c : Fin 8) (vec : Bool) (q k : Nat)
  | cleanLine (sp : Fin 128)
  | line (sp : Fin 128) (icache : Bool) (k : Nat)
  | l2 (sp : Fin 128) (slice : Fin 4) (k : Nat) (off : Fin 1024)
  | dram (addr : Nat)
deriving DecidableEq, Repr

/-- A RoCEv2 memory access (R369): port, object, byte offset. -/
structure RoceReq where
  portB : Bool
  sid : Nat
  h : Entry
  off : Nat
deriving DecidableEq, Repr

/-- THE INSTRUCTIONS: one constructor for each row of spec/opcode_table.json (DESIGN CHOICE, log 90). -/
inductive Instr
  -- C class (spec/07)
  | nop
  | add (r : Reg3) (sat : Bool) (t : Fmt)
  | sub (r : Reg3) (sat : Bool) (t : Fmt)
  | addi (r : Reg2) (imm : Fin 16384)
  | mul (r : Reg3) (sat : Bool) (t : Fmt)
  | mulh (r : Reg3) (t : Fmt)
  | div (r : Reg3) (t : Fmt)
  | rem (r : Reg3) (t : Fmt)
  | and (r : Reg3) (t : Fmt)
  | or (r : Reg3) (t : Fmt)
  | xor (r : Reg3) (t : Fmt)
  | andn (r : Reg3) (t : Fmt)
  | shl (r : Reg3) (sat : Bool) (t : Fmt)
  | shr (r : Reg3) (t : Fmt)
  | rol (r : Reg3) (t : Fmt)
  | clz (r : Reg2) (t : Fmt)
  | ctz (r : Reg2) (t : Fmt)
  | popc (r : Reg2) (t : Fmt)
  | min (r : Reg3) (t : Fmt)
  | max (r : Reg3) (t : Fmt)
  | sel (r : Reg3) (c : SrcS)
  | cmpCc (r : Reg3) (cc : Cond) (t : Fmt)
  | sext (r : Reg2) (t : Fmt)
  | zext (r : Reg2) (t : Fmt)
  | li (d : Fin 32) (imm : Fin 1048576)
  | lih (r : Reg2) (imm : Fin 16384)
  | mov (r : Reg2)
  | mad (r : Reg3) (sat : Bool) (t : Fmt)
  | idxPack (r : Reg3)
  | qdrop (a : Fin 32) (vec : Bool) (n : Fin 4)
  | qdepth (d a : Fin 32) (vec : Bool)
  | qclr (a : Fin 32) (vec : Bool)
  | fadd (r : Reg3) (m : Rm) (t : Fmt)
  | fsub (r : Reg3) (m : Rm) (t : Fmt)
  | fmul (r : Reg3) (m : Rm) (t : Fmt)
  | fma (r : Reg3) (m : Rm) (t : Fmt)
  | fdiv (r : Reg3) (m : Rm) (t : Fmt)
  | fsqrt (r : Reg2) (m : Rm) (t : Fmt)
  | fmin (r : Reg3) (t : Fmt)
  | fmax (r : Reg3) (t : Fmt)
  | fcmp (r : Reg3) (cc : Cond) (t : Fmt)
  | fcvt (r : Reg2) (src : Fmt) (sat : Bool) (m : Rm) (dst : Fmt)
  | fcls (r : Reg2) (t : Fmt)
  | br (imm : Fin 1048576)
  | brc (cc : BCond) (a : SrcS) (imm : Fin 16384)
  | jmp (a : SrcS)
  | call (imm : Fin 1048576)
  | ret
  | loop (a : Fin 32) (n : Fin 64)
  | yield
  | tend
  | trap (imm : Fin 1048576)
  | sysrd (d : Fin 32) (n : Fin 1024)
  | syswr (a : SrcS) (n : Fin 1024)
  | chk (s : Src2) (l : Fin 4)
  | brk (imm : Fin 1048576)
  -- V class (spec/08)
  | vadd (r : Vec3) (m : VMod) (t : Fmt)
  | vsub (r : Vec3) (m : VMod) (t : Fmt)
  | vmul (r : Vec3) (m : VMod) (t : Fmt)
  | vfma (r : Vec3) (m : Rm) (t : Fmt)
  | vfms (r : Vec3) (m : Rm) (t : Fmt)
  | vnfma (r : Vec3) (m : Rm) (t : Fmt)
  | vmin (r : Vec3) (t : Fmt)
  | vmax (r : Vec3) (t : Fmt)
  | vabs (r : Vec2) (sat : Bool) (t : Fmt)
  | vneg (r : Vec2) (sat : Bool) (t : Fmt)
  | vcmpCc (k md : Fin 8) (a b : SrcV) (cc : Cond) (t : Fmt)
  | vsel (r : Vec3) (t : Fmt)
  | vand (r : Vec3) (t : Fmt)
  | vor (r : Vec3) (t : Fmt)
  | vxor (r : Vec3) (t : Fmt)
  | vnot (r : Vec2) (t : Fmt)
  | vshl (r : Vec3) (sat : Bool) (t : Fmt)
  | vshr (r : Vec3) (t : Fmt)
  | vsra (r : Vec3) (t : Fmt)
  | vcvt (p : Fin 4) (d : Fin 16) (a : SrcV) (src : Fmt) (sat : Bool) (m : Rm) (dst : Fmt)
  | vpack (p : Fin 8) (d : Fin 16) (a : SrcV) (bt : BT) (scales : Bool) (m : Rm) (src : Fmt)
  | vunpack (p : Fin 8) (d : Fin 16) (a b : SrcV) (m : Rm) (dst : Fmt)
  | vbcast (d : Fin 16) (s : SrcS) (t : Fmt)
  | vext (d : Fin 32) (a : SrcV) (s : SrcS) (t : Fmt)
  | vins (d : Fin 16) (a : SrcV) (s : SrcS) (c : Fin 8) (t : Fmt)
  | vperm (r : Vec3) (t : Fmt)
  | vrot (d : Fin 16) (a : SrcV) (i : Fin 64) (t : Fmt)
  | vslide (d : Fin 16) (a b : SrcV) (i : Fin 64) (t : Fmt)
  | vred (r : Vec2) (sat : Bool) (op : RedOp) (t : Fmt)
  | vargmax (r : Vec2) (t : Fmt)
  | vscanAdd (r : Vec2) (t : Fmt)
  | vexp2 (r : Vec2) (t : Fmt)
  | vlog2 (r : Vec2) (t : Fmt)
  | vrcp (r : Vec2) (t : Fmt)
  | vrsqrt (r : Vec2) (t : Fmt)
  | vtanh (r : Vec2) (t : Fmt)
  | vld (m : VMem)
  | vst (m : VMem)
  | vldx (m : VIdx) (t : Fmt)
  | vstx (m : VIdx) (t : Fmt)
  | mand (d a b : Fin 8)
  | mor (d a b : Fin 8)
  | mxor (d a b : Fin 8)
  | mnot (d a : Fin 8)
  | mpop (d : Fin 32) (a : Fin 8) (t : Fmt)
  | mfirst (d : Fin 32) (a : Fin 8) (t : Fmt)
  -- M class (spec/09)
  | mmaTs (d : Fin 32) (a : SrcS) (ta : Bool) (l : Fin 4) (zs ft : Bool) (pair k : Fin 16)
  | mmaV (d : Fin 32) (a : SrcV) (rp : Fin 64) (l : Fin 4) (zs ft : Bool) (pair : Fin 16)
  | mmaH (d : Fin 32) (s : Src2) (l : Fin 4) (zs : Bool) (k : Fin 16)
  | latLd (l : Fin 4) (a : SrcS) (tr : Bool) (t : Fmt)
  | latLdh (l : Fin 4) (s : Src2)
  | latClr (l : Fin 4)
  | aclr (d : Fin 32)
  | aload (d : Fin 32) (a : SrcS) (t : Fmt)
  | amovV (v : Fin 16) (a : Fin 32) (row : Fin 128)
  | adrain (d : Fin 32) (a : SrcS) (is : Bool) (bt : BT) (sat ft : Bool) (m : Rm) (t : Fmt)
  | adrainh (d : Fin 32) (s : Src2) (sat : Bool) (c : SrcS)
  | astat (d a : Fin 32)
  | astatClr (d k : Fin 32)
  | fmtLd (a : SrcS) (first n : Fin 16)
  | fmtRd (d : Fin 32) (e : Fin 16)
  | mbar
  -- X class (spec/10 and spec/11)
  | tld (s : Src2) (st : Fin 16)
  | tst (s : Src2) (st : Fin 16)
  | tstW (s : Src2) (st : Fin 16)
  | tmc (s : Src2) (st : Fin 16) (obj : Bool)
  | tcopy (s : Src2) (st : Fin 16) (red : Red)
  | tgath (s : Src2) (st : Fin 16)
  | tscat (s : Src2) (st : Fin 16) (red : Red)
  | tfill (s : Src2) (st : Fin 16) (obj : Bool)
  | ldTs (d : Fin 32) (a : SrcS) (imm : Fin 256) (t : Fmt)
  | stTs (s : Src2) (imm : Fin 256) (t : Fmt)
  | ldo (d : Fin 32) (s : Src2) (o : Ord4)
  | barInit (a : SrcS) (n : Fin 16)
  | barExp (s : Src2) (imm : Fin 256)
  | barArr (s : Src2) (mask : Fin 256)
  | waitb (a : SrcS) (ph : Bool)
  | ringWait (s : Src2)
  | cntAdd (s : Src2) (o : Ord4) (e : Fin 16)
  | cntRd (d : Fin 32) (a : SrcS) (o : Ord4) (e : Fin 16)
  | waitc (s : Src2) (e : Fin 16)
  | atom (d : Fin 32) (a : SrcS) (b : Fin 32) (op : AtomOp) (o : Ord4) (e : Fin 16)
  | atomCas (d : Fin 32) (s : Src2) (o : Ord4) (e : Fin 16)
  | fork (s : Src2) (pk : Place)
  | launch (s : Src2)
  | futNew (a : SrcS) (e : Fin 16)
  | futRes (s : Src2) (poison : Bool) (e : Fin 16)
  | futWait (s : Src2)
  | futRd (d : Fin 32) (a : SrcS) (o : Ord4) (e : Fin 16)
  | qOpen (s : Src2)
  | qRet
  | waitq (a : SrcS)
  | objOpenw (d : Fin 32) (a : SrcS)
  | objPub (d : Fin 32) (a : SrcS)
  | objAbandon (a : SrcS)
  | objPin (d : Fin 32) (s : Src2)
  | objUnpin (a : SrcS)
  | objSub (s : Src2) (del : Bool)
  | objVer (d : Fin 32) (a : SrcS) (sel : VerSel)
  | objDesc (d : Fin 32) (a : SrcS) (k : Fin 16)
  | objPref (s : Src2) (mig : Bool) (n : Fin 64)
  | waitv (s : Src2)
  | coll (s : Src2)
  | relLd (d : Fin 32) (s : Src2)
  | slotRd (d : Fin 32)
  | drOp (s : Src2) (fast : Bool) (op : RowOp)
  | nbLoad (a : SrcS)
  | nbRun (a : SrcS)
  | nbAcc (a : SrcS)
  -- near-bank microinstructions (Table 12-5)
  | endRun
  | ldr (bd : Fin 16) (f : NFmt) (imm : Fin 4294967296)
  | sadd (bd : Fin 16) (f : NFmt) (m : Rm) (imm : Fin 4294967296)
  | mulr (bd : Fin 16) (f : NFmt) (m : Rm) (imm : Fin 4294967296)
  | minr (bd : Fin 16) (f : NFmt) (imm : Fin 4294967296)
  | maxr (bd : Fin 16) (f : NFmt) (imm : Fin 4294967296)
  | aadd (bd bs : Fin 16) (m : Rm)
  | ascl (bd bs : Fin 16) (m : Rm)
  | clr (bd : Fin 16)
  | wb (bs : Fin 16) (f : NFmt) (m : Rm) (imm : Fin 4294967296)
  | sclp (px : Fin 8)
  | sclm (px : Fin 8) (m : Rm)
  | radv (imm : Fin 4294967296)
  | nbuLoop (px : Fin 8) (imm : Fin 64)
  -- events of the near-bank units and of a spire
  | nbuSuspend (n : Fin 512)
  | nbuResume (n : Fin 512)
  | bundleIssue
  | resultLanding (sp : Fin 128)
  | deferredResultLanding (sp : Fin 128)
  | tsWriteLanding (sp : Fin 128)
  | waitSatisfied (sp : Fin 128)
  | yieldReturn (sp : Fin 128)
  | stallCleared (sp : Fin 128)
  | matrixOpStart (sp : Fin 128)
  | matrixOpComplete (sp : Fin 128)
  | busyBitClear (sp : Fin 128)
  | mmaHFetchArrival (sp : Fin 128)
  | sectorCommit (op : Nat)
  | barrierArrival (sp : Fin 128)
  | multicastDelivery (op : Nat) (sp : Fin 128)
  | deferredTrap (sp : Fin 128) (c : Fin 8)
  | l2Miss (t : Fin 4)
  | publishComplete (h : Entry)
  -- events of launches, tasks, closures, rows, lanes and collectives that the machine itself brings about
  | nbuRequestStart (n : Fin 512)
  | launchDependenceMet (t : Fin 4) (i : Nat)
  | launchActivate (t : Fin 4)
  | launchCopy (t : Fin 4)
  | gangPlace (t : Fin 4) (slot : Fin 64) (at_ : List (Fin 128 × Fin 8))
  | preempt (sp : Fin 128) (c : Fin 8)
  | saveComplete (sp : Fin 128) (c : Fin 8)
  | restore (t : Fin 4) (slot : Fin 64) (img : Nat) (sp : Fin 128) (c : Fin 8)
  | launchRetire (t : Fin 4) (slot : Fin 64)
  | dequePop (sp : Fin 128) (c : Fin 8)
  | stealAttempt (sp : Fin 128) (c : Fin 8)
  | stealRestart (sp : Fin 128)
  | holdingListInsert (t : Fin 4)
  | borrow (sp : Fin 128) (c : Fin 8)
  | borrowAnswer (sp : Fin 128) (c : Fin 8)
  | accFlushTimer (sp : Fin 128) (k : Fin 8)
  | accFlushIdle (sp : Fin 128) (k : Fin 8)
  | bankWakeComplete (u : WakeAt)
  | bankWakeTimeout (u : WakeAt)
  | rowOpRow (op : Nat)
  | rowStep (op : Nat)
  | fallbackRow (op : Nat)
  | rowOpDone (op : Nat)
  | ordinaryAccess (pc : Fin 512) (bank : Fin 16)
  | collStep (c : Nat)
  | resendTimer (i : Nat)
  | keyEpochInstall (q : Fin 256)
  | oldKeyErase (q : Fin 256)
  | peerReachable (q : Fin 256)
  | laneWindowClose (n : Fin 512)
  | retrainStart (n : Fin 512)
  | trainingPatternReceived (n : Fin 512)
  | laneHandBack (n : Fin 512)
  | retrainTimeout (n : Fin 512)
  | flitSend (peer : Fin 256)
  | lostCarrier (n : Fin 512)
  -- HRU commands (Table 03-8); the operands stand for the ring entry and what it points to
  | otew (t : Fin 4) (onum : Nat) (words : List Entry) (rights : List (Nat × Nat))
  | pmu (t : Fin 4) (h : Entry) (ver page : Nat) (e : Entry)
  | tinv (t : Fin 4) (h : Entry) (page : Option Nat) (dom : Bool)
  | purge (t : Fin 4) (sid : Option Nat) (h : Entry)
  | fpool (t : Fin 4) (frames : List Nat)
  | cpool (t : Fin 4) (count : Nat)
  -- launches and weight
  | cpQueueLaunch (m : CpMsg) (rec : List Entry)
  | releaseStepPush
  | weightReturn
  -- registers, gating, refresh, translations
  | gateTsBank (sp : Fin 128) (b : Fin 64)
  | gateL2Way (t dome slice : Fin 4) (way : Fin 16)
  | tdmodeWrite (v : Entry)
  | pkidWrite (v : Entry)
  | registerWrite (a : Nat) (v : Entry) (kc : Fin 16) (who : Nat)
  | refresh (pc : Fin 512) (bank : Fin 16)
  | translationReady (t : Fin 4) (i : Nat) (noff nlen tsvn entry : Nat)
  -- the optical domain
  | slotStart
  | idle (f : Flit)
  | rdreq (f : Flit)
  | rdrsp (f : Flit)
  | write (f : Flit)
  | redw (f : Flit)
  | ack (f : Flit)
  | live (f : Flit)
  | collFlit (f : Flit)
  | rel (f : Flit)
  | hruFlit (f : Flit)
  | time (f : Flit) (offset : Int)
  | key (f : Flit)
  | flitDiscard (f : Flit)
  | laneRegWrite (n : Fin 512) (w : Fin 4) (v : Entry)
  | timeFlitTimeout
  | alignmentRegained
  -- host ports
  | sessionOpen (portB : Bool) (sess sid : Nat) (enrolled : Bool)
  | cpRegisterRead (m : CpMsg) (a : Nat)
  | cpRegisterWrite (m : CpMsg) (a : Nat) (v : Entry)
  | cpSemAcquire (m : CpMsg) (k : Fin 64) (rivals : List Master)
  | cpSemRelease (m : CpMsg) (k : Fin 64)
  | cpAttestation (m : CpMsg) (nonce : List Byte) (idKeyOk : Bool)
  | cpTrapQueueRead (m : CpMsg) (t : Fin 4)
  | cpMessageDiscard (m : CpMsg)
  | semAcquire (kc : Fin 16) (k : Fin 64) (rivals : List Master)
  | semRelease (kc : Fin 16) (k : Fin 64)
  | roceSend (portB : Bool) (qp len : Nat)
  | rdmaWrite (r : RoceReq) (data : List Byte)
  | rdmaRead (r : RoceReq) (ver len : Nat)
  | writeWithImmediate (r : RoceReq) (data : List Byte) (qp imm : Nat)
  | nvmeCompletion (h : Entry) (off : Nat) (data : List Byte) (tk : Fin 4) (th : Entry) (tix : Nat)
  | frameDiscard (portB : Bool)
  | portFail (portB : Bool)
  | portLinkUp (portB : Bool)
  | portLinkDown (portB : Bool)
  -- bring-up, trust, power, errors
  | reset (b : Bringup)
  | bringupAlignTimeout
  | svnRaise (target : Nat) (signed : Bool) (blown : Nat)
  | powerThrottle (t : Fin 4) (k : Fin 57) (thermal : Bool) (temp : Nat)
  | powerExcessEnd (t dom : Fin 4) (k : Fin 57)
  | thermalStop (t : Fin 4) (temp : Nat)
  | operatingPointChange (t dom : Fin 4) (point : Nat)
  | eccCorrected (t : Fin 4) (dram : Bool)
  | uncorrectableError (w : EccAt)
  -- CTL and LSC commands, `who` is the space of the keep core that writes (R411)
  | resume (who : Nat) (sp : Fin 128) (c : Fin 8)
  | save (who : Nat) (sp : Fin 128) (c : Fin 8)
  | terminate (who : Nat) (sp : Fin 128) (c : Fin 8)
  | halt (who : Nat) (sp : Fin 128) (c : Fin 8)
  | step (who : Nat) (sp : Fin 128) (c : Fin 8) (n : Fin 256)
  | release (who : Nat) (sp : Fin 128) (c : Fin 8)
  | preon (who : Nat) (t : Fin 4) (slot : Fin 64)
  | termimg (who : Nat) (t : Fin 4) (slot : Fin 64) (img : Nat)
  | retry (who : Nat) (t : Fin 4) (slot : Fin 64) (img : Nat)
  | tqHeadWrite (t : Fin 4) (v : Entry)
  | tqConfigWrite (t : Fin 4) (v : Entry)
deriving DecidableEq, Repr

end Sys2Proof
end

