-- ==== Sys2Proof/WellFormed.lean ====
section
/-! DEFINITION. WellFormed.lean: which terms of `Instr` the spec's encodings allow: the types, conditions and
modifiers each entry of spec/07 to spec/12 accepts. The decoder refuses what fails here with ILLEGAL/0x02. -/

namespace Sys2Proof

/-- z8 to s64 (R141). -/
def Fmt.isInt : Fmt → Bool
  | .z8 | .z16 | .z32 | .z64 | .s8 | .s16 | .s32 | .s64 => true
  | _ => false

/-- The float types of lane-wise arithmetic: f16, bf16, f32 (Table 08-2). -/
def Fmt.isVFlt : Fmt → Bool
  | .f16 | .bf16 | .f32 => true
  | _ => false

/-- The scalar float types, R217. -/
def Fmt.isSFlt : Fmt → Bool
  | .f32 | .f64 => true
  | _ => false

/-- The vector types, R231. -/
def Fmt.isVec (t : Fmt) : Bool := t != .f64 && t != .q4

/-- Element width in bits, Table 03-3; 4 for q4. -/
def Fmt.width : Fmt → Nat
  | .z8 | .s8 | .e4m3 | .e5m2 => 8
  | .z16 | .s16 | .f16 | .bf16 => 16
  | .z32 | .s32 | .f32 => 32
  | .z64 | .s64 | .f64 => 64
  | .q4 => 4

/-- The eight operand formats of a latch, R267. -/
def Fmt.isLatch : Fmt → Bool
  | .bf16 | .f16 | .e4m3 | .e5m2 | .s8 | .z8 | .q4 | .f32 => true
  | _ => false

/-- Kmax of Table 09-3 by operand width. -/
def kmaxOf (w : Nat) : Nat := if w = 4 then 512 else if w = 8 then 256 else if w = 16 then 128 else 64

/-- A and B formats and s32 accumulation of a pair code, Table 09-3. -/
def pairOf (p : Fin 16) : Fmt × Fmt × Bool :=
  match p.val with
  | 0 => (.bf16, .bf16, false) | 1 => (.f16, .f16, false)
  | 2 => (.e4m3, .e4m3, false) | 3 => (.e4m3, .e5m2, false)
  | 4 => (.e5m2, .e4m3, false) | 5 => (.e5m2, .e5m2, false)
  | 6 => (.s8, .s8, false) | 7 => (.s8, .z8, false)
  | 8 => (.z8, .s8, false) | 9 => (.z8, .z8, false)
  | 10 => (.s8, .s8, true) | 11 => (.s8, .z8, true)
  | 12 => (.z8, .s8, true) | 13 => (.z8, .z8, true)
  | 14 => (.q4, .q4, false) | _ => (.f32, .f32, false)

/-- Type and modifier of `vadd`, `vsub`, `vmul` agree (Table 08-2). -/
def VMod.fits (m : VMod) (t : Fmt) : Bool :=
  match m with
  | .int _ => t.isInt
  | .flt _ => t.isVFlt

/-- Rounding codes of a microinstruction: 0b000 to 0b100 (R341). -/
def Rm.isStatic : Rm → Bool
  | .sto | .dyn => false
  | _ => true

/-- Conversion ratio of `vcvt`, R241. -/
def cvtRatio (s d : Fmt) : Nat := Nat.max s.width d.width / Nat.min s.width d.width

/-- Parts of `vpack` and `vunpack`: 1,024 div the lane count of the float side (R242, R243). -/
def packParts (t : Fmt) : Nat := 1024 / (4096 / t.width)

/-- A queue management operand names a queue (R215). -/
def qNamed (a : Fin 32) (vec : Bool) : Bool := if vec then decide (a.val < 16) else decide (a.val ≠ 0)

/-- A pure read carries `.rlx` or `.acq` only, a pure write `.rlx` or `.rel` only (Table 04-4). -/
def Ord4.isRead : Ord4 → Bool
  | .rlx | .acq => true
  | _ => false
@[inherit_doc Ord4.isRead]
def Ord4.isWrite : Ord4 → Bool
  | .rlx | .rel => true
  | _ => false

/-- The spec's encodings allow the term (DEDUCED, log 12). -/
def Instr.wellFormed : Instr → Bool
  | .add _ _ t | .sub _ _ t | .mul _ _ t | .shl _ _ t | .mad _ _ t => t.isInt
  | .mulh _ t | .div _ t | .rem _ t | .and _ t | .or _ t | .xor _ t | .andn _ t | .shr _ t | .rol _ t => t.isInt
  | .min _ t | .max _ t | .clz _ t | .ctz _ t | .popc _ t => t.isInt
  | .cmpCc _ cc t => t.isInt && cc != .un
  | .sext _ t => t == .s8 || t == .s16 || t == .s32
  | .zext _ t => t == .z8 || t == .z16 || t == .z32
  | .qdrop a v _ => qNamed a v
  | .qdepth _ a v => qNamed a v
  | .qclr a v => qNamed a v
  | .fadd _ _ t | .fsub _ _ t | .fmul _ _ t | .fma _ _ t | .fdiv _ _ t | .fsqrt _ _ t => t.isSFlt
  | .fmin _ t | .fmax _ t | .fcls _ t => t.isSFlt
  | .fcmp _ _ t => t.isSFlt
  | .fcvt _ s _ _ d => s != .q4 && d != .q4
  | .chk _ l => l != 0
  | .vadd _ m t | .vsub _ m t | .vmul _ m t => m.fits t
  | .vfma _ _ t | .vfms _ _ t | .vnfma _ _ t => t.isVFlt
  | .vmin _ t | .vmax _ t => t.isInt || t.isVFlt
  | .vabs _ s t | .vneg _ s t => t.isInt || (t.isVFlt && !s)
  | .vcmpCc _ _ _ _ cc t => (t.isInt && cc != .un) || t.isVFlt
  | .vsel _ t => t.isVec
  | .vand _ t | .vor _ t | .vxor _ t | .vnot _ t | .vshl _ _ t | .vshr _ t | .vsra _ t => t.isInt
  | .vcvt p _ _ s _ _ d => s.isVec && d.isVec && cvtRatio s d != 8 && decide (p.val < cvtRatio s d)
  | .vpack p _ _ _ _ _ s => s.isVFlt && decide (p.val < packParts s)
  | .vunpack p _ _ _ _ d => d.isVFlt && decide (p.val < packParts d)
  | .vbcast _ _ t | .vext _ _ _ t | .vins _ _ _ _ t | .vrot _ _ _ t | .vslide _ _ _ _ t => t.isVec
  | .vperm _ t => t.isVec && t.width != 8
  | .vred _ s op t => (t.isInt && (!s || op == .add)) || (t.isVFlt && !s)
  | .vargmax _ t | .vscanAdd _ t => t.isInt || t.isVFlt
  | .vexp2 _ t | .vlog2 _ t | .vrcp _ t | .vrsqrt _ t | .vtanh _ t => t.isVFlt
  | .vldx _ t | .vstx _ t => t.isVec
  | .mpop _ _ t | .mfirst _ _ t => t != .f64
  | .mmaTs _ _ ta _ _ ft p k =>
    if ft then p == 0
    else decide (32 * (k.val + 1) ≤ kmaxOf (pairOf p).1.width) && !(ta && (pairOf p).1 == .q4)
  | .mmaV _ _ _ _ _ ft p => if ft then p == 0 else (pairOf p).1 != .q4
  | .latLd _ _ tr t => t.isLatch && !(tr && t == .q4)
  | .aload _ _ t => t == .f32 || t == .s32 || t == .bf16 || t == .f16
  | .adrain _ _ is bt _ ft m t =>
    if ft then !is && bt == .ui && m == .rne && t == .z8 else t != .f64 && (bt == .ui || t == .q4)
  | .fmtLd _ f n => decide (f.val + n.val + 1 ≤ 16)
  | .tscat _ _ r => r != .copy
  | .ldTs _ _ _ t | .stTs _ _ t => t != .q4
  | .ldo _ _ o | .cntRd _ _ o _ | .futRd _ _ o _ => o.isRead
  | .cntAdd _ o _ => o.isWrite
  | .barArr _ m => m != 0
  | .sadd _ _ m _ | .mulr _ _ m _ | .wb _ _ m _ => m.isStatic
  | .aadd _ _ m | .ascl _ _ m => m.isStatic
  | .sclm _ m => m.isStatic
  | .nop | .addi _ _ | .sel _ _ | .li _ _ | .lih _ _ | .mov _ | .idxPack _ | .br _ | .brc _ _ _ | .jmp _ | .call _
  | .ret | .loop _ _ | .yield | .tend | .trap _ | .sysrd _ _ | .syswr _ _ | .brk _ | .vld _ | .vst _ | .mand _ _ _
  | .mor _ _ _ | .mxor _ _ _ | .mnot _ _ | .mmaH _ _ _ _ _ | .latLdh _ _ | .latClr _ | .aclr _ | .amovV _ _ _
  | .adrainh _ _ _ _ | .astat _ _ | .astatClr _ _ | .fmtRd _ _ | .mbar | .tld _ _ | .tst _ _ | .tstW _ _ | .tmc _ _ _
  | .tcopy _ _ _ | .tgath _ _ | .tfill _ _ _ | .barInit _ _ | .barExp _ _ | .waitb _ _ | .ringWait _ | .waitc _ _
  | .atom _ _ _ _ _ _ | .atomCas _ _ _ _ | .fork _ _ | .launch _ | .futNew _ _ | .futRes _ _ _ | .futWait _
  | .qOpen _ | .qRet | .waitq _ | .objOpenw _ _ | .objPub _ _ | .objAbandon _ | .objPin _ _ | .objUnpin _
  | .objSub _ _ | .objVer _ _ _ | .objDesc _ _ _ | .objPref _ _ _ | .waitv _ | .coll _ | .relLd _ _ | .slotRd _
  | .drOp _ _ _ | .nbLoad _ | .nbRun _ | .nbAcc _ | .endRun | .ldr _ _ _ | .minr _ _ _ | .maxr _ _ _ | .clr _
  | .sclp _ | .radv _ | .nbuLoop _ _ => true
  | .nbuSuspend _ | .nbuResume _ | .bundleIssue | .resultLanding _ | .deferredResultLanding _ | .tsWriteLanding _
  | .waitSatisfied _ | .yieldReturn _ | .stallCleared _ | .matrixOpStart _ | .matrixOpComplete _ | .busyBitClear _
  | .mmaHFetchArrival _ | .sectorCommit _ | .barrierArrival _ | .multicastDelivery _ _ | .deferredTrap _ _ | .l2Miss _
  | .publishComplete _ | .otew _ _ _ _ | .pmu _ _ _ _ _ | .tinv _ _ _ _ | .purge _ _ _ | .fpool _ _ | .cpool _ _
  | .launchDependenceMet _ _ | .launchActivate _ | .launchCopy _ | .gangPlace _ _ _ | .preempt _ _ | .saveComplete _ _
  | .restore _ _ _ _ _ | .launchRetire _ _ | .translationReady _ _ _ _ _ _ | .dequePop _ _ | .stealAttempt _ _
  | .stealRestart _ | .holdingListInsert _ | .releaseStepPush | .borrow _ _ | .borrowAnswer _ _ | .accFlushTimer _ _
  | .accFlushIdle _ _ | .weightReturn | .bankWakeComplete _ | .bankWakeTimeout _ | .gateTsBank _ _
  | .gateL2Way _ _ _ _ | .tdmodeWrite _ | .pkidWrite _ | .registerWrite _ _ _ _ | .rowOpRow _ | .rowStep _
  | .fallbackRow _ | .rowOpDone _ | .ordinaryAccess _ _ | .refresh _ _ | .slotStart | .flitSend _ | .idle _ | .rdreq _
  | .rdrsp _ | .write _ | .redw _ | .ack _ | .live _ | .collFlit _ | .rel _ | .hruFlit _ | .time _ _ | .key _
  | .flitDiscard _ | .collStep _ | .resendTimer _ | .peerReachable _ | .keyEpochInstall _ | .oldKeyErase _
  | .laneWindowClose _ | .retrainStart _ | .trainingPatternReceived _ | .laneHandBack _ | .retrainTimeout _
  | .laneRegWrite _ _ _ | .timeFlitTimeout | .alignmentRegained | .sessionOpen _ _ _ _ | .cpRegisterRead _ _
  | .cpRegisterWrite _ _ _ | .cpQueueLaunch _ _ | .cpSemAcquire _ _ _ | .cpSemRelease _ _ | .cpAttestation _ _ _
  | .cpTrapQueueRead _ _ | .cpMessageDiscard _ | .semAcquire _ _ _ | .semRelease _ _ | .roceSend _ _ _ | .rdmaWrite _ _
  | .rdmaRead _ _ _ | .writeWithImmediate _ _ _ _ | .nvmeCompletion _ _ _ _ _ _ | .frameDiscard _ | .portFail _
  | .portLinkUp _ | .reset _ | .bringupAlignTimeout | .svnRaise _ _ _ | .powerThrottle _ _ _ _ | .thermalStop _ _
  | .operatingPointChange _ _ _ | .eccCorrected _ _ | .uncorrectableError _ | .resume _ _ _ | .save _ _ _
  | .terminate _ _ _ | .halt _ _ _ | .step _ _ _ _ | .release _ _ _ | .preon _ _ _ | .termimg _ _ _ _ | .retry _ _ _ _
  | .tqHeadWrite _ _ | .tqConfigWrite _ _ | .nbuRequestStart _ | .portLinkDown _ | .lostCarrier _
  | .powerExcessEnd _ _ _ => true

/-- What a term is: an operation of one of the four slot classes (R168), a microinstruction, or an event. -/
inductive SlotKind
  | c | v | m | x | micro | event
deriving DecidableEq, Repr

end Sys2Proof
end

