-- ==== Sys2Proof/Decode.lean ====
section
/-! DEFINITION. Decode.lean: the decoder of slot words (spec/06 to spec/11) and of microinstructions (Table 12-4),
total and rejecting by name, and after it the encoder written from the same encoding tables. A word is a natural
number below 2^32 (2^64 for a microinstruction); a slot word names an operation only together with its slot (R168). -/

namespace Sys2Proof

/-- Why a word is refused: the ILLEGAL subclasses 0x01, 0x02 and 0x03 of Table 19-3, the last with the mask of the
reserved bits that are set. -/
inductive Reject
  | major
  | function
  | reserved (mask : Nat)
deriving DecidableEq, Repr

/-- What the decoder answers. -/
abbrev Dec := Except Reject Instr

-- Codes of the enumerated fields

/-- Format code, Table 03-3. -/
def Fmt.code : Fmt → Nat
  | .z8 => 0 | .z16 => 1 | .z32 => 2 | .z64 => 3 | .s8 => 4 | .s16 => 5 | .s32 => 6 | .s64 => 7
  | .f16 => 8 | .bf16 => 9 | .f32 => 10 | .f64 => 11 | .e4m3 => 12 | .e5m2 => 13 | .q4 => 14
/-- Format of a code; codes 0x0F to 0x1F are reserved. -/
def Fmt.ofCode (n : Nat) : Option Fmt :=
  match n with
  | 0 => some .z8 | 1 => some .z16 | 2 => some .z32 | 3 => some .z64 | 4 => some .s8 | 5 => some .s16
  | 6 => some .s32 | 7 => some .s64 | 8 => some .f16 | 9 => some .bf16 | 10 => some .f32 | 11 => some .f64
  | 12 => some .e4m3 | 13 => some .e5m2 | 14 => some .q4 | _ => none
/-- Rounding code, Table 05-4. -/
def Rm.code : Rm → Nat
  | .rne => 0 | .rtz => 1 | .rdn => 2 | .rup => 3 | .rna => 4 | .sto => 5 | .dyn => 7
@[inherit_doc Rm.code]
def Rm.ofCode (n : Nat) : Option Rm :=
  match n with
  | 0 => some .rne | 1 => some .rtz | 2 => some .rdn | 3 => some .rup | 4 => some .rna | 5 => some .sto
  | 7 => some .dyn | _ => none
/-- Condition code, Tables 07-3 and 07-7. -/
def Cond.code : Cond → Nat
  | .eq => 0 | .ne => 1 | .lt => 2 | .le => 3 | .gt => 4 | .ge => 5 | .un => 6
@[inherit_doc Cond.code]
def Cond.ofCode (n : Nat) : Option Cond :=
  match n with
  | 0 => some .eq | 1 => some .ne | 2 => some .lt | 3 => some .le | 4 => some .gt | 5 => some .ge
  | 6 => some .un | _ => none
/-- Condition code of `brc`, Table 07-10. -/
def BCond.code : BCond → Nat
  | .z => 0 | .nz => 1 | .ltz => 2 | .gez => 3 | .gtz => 4 | .lez => 5
@[inherit_doc BCond.code]
def BCond.ofCode (n : Nat) : Option BCond :=
  match n with
  | 0 => some .z | 1 => some .nz | 2 => some .ltz | 3 => some .gez | 4 => some .gtz | 5 => some .lez | _ => none
/-- Block type, Table 05-2. -/
def BT.code : BT → Nat
  | .ui => 0 | .e2m1 => 1 | .p2 => 2 | .hy => 3
@[inherit_doc BT.code]
def BT.ofCode (n : Nat) : BT :=
  match n with
  | 0 => .ui | 1 => .e2m1 | 2 => .p2 | _ => .hy
/-- Reduction code of `vred`, R245. -/
def RedOp.code : RedOp → Nat
  | .add => 0 | .max => 1 | .min => 2
@[inherit_doc RedOp.code]
def RedOp.ofCode (n : Nat) : Option RedOp :=
  match n with
  | 0 => some .add | 1 => some .max | 2 => some .min | _ => none
/-- RED code, Table 10-3. -/
def Red.code : Red → Nat
  | .copy => 0 | .add => 1 | .max => 2 | .min => 3
@[inherit_doc Red.code]
def Red.ofCode (n : Nat) : Red :=
  match n with
  | 0 => .copy | 1 => .add | 2 => .max | _ => .min
/-- Ordering code, Table 04-4. -/
def Ord4.code : Ord4 → Nat
  | .rlx => 0 | .acq => 1 | .rel => 2 | .acqrel => 3
@[inherit_doc Ord4.code]
def Ord4.ofCode (n : Nat) : Ord4 :=
  match n with
  | 0 => .rlx | 1 => .acq | 2 => .rel | _ => .acqrel
/-- Operation code of `atom`, R299; 0b111 is unassigned. -/
def AtomOp.code : AtomOp → Nat
  | .add => 0 | .min => 1 | .max => 2 | .and => 3 | .or => 4 | .xor => 5 | .swap => 6
@[inherit_doc AtomOp.code]
def AtomOp.ofCode (n : Nat) : Option AtomOp :=
  match n with
  | 0 => some .add | 1 => some .min | 2 => some .max | 3 => some .and | 4 => some .or | 5 => some .xor
  | 6 => some .swap | _ => none
/-- PK code, R307. -/
def Place.code : Place → Nat
  | .own => 0 | .spire => 1 | .dome => 2 | .tower => 3
@[inherit_doc Place.code]
def Place.ofCode (n : Nat) : Place :=
  match n with
  | 0 => .own | 1 => .spire | 2 => .dome | _ => .tower
/-- sel code of `obj.ver`, Table 11-5; 0b11 is unassigned. -/
def VerSel.code : VerSel → Nat
  | .cver => 0 | .dver => 1 | .pinned => 2
@[inherit_doc VerSel.code]
def VerSel.ofCode (n : Nat) : Option VerSel :=
  match n with
  | 0 => some .cver | 1 => some .dver | 2 => some .pinned | _ => none
/-- Row operation code, R323; 0b111 is unassigned. -/
def RowOp.code : RowOp → Nat
  | .copy => 0 | .fill => 1 | .and => 2 | .or => 3 | .xor => 4 | .not => 5 | .maj => 6
@[inherit_doc RowOp.code]
def RowOp.ofCode (n : Nat) : Option RowOp :=
  match n with
  | 0 => some .copy | 1 => some .fill | 2 => some .and | 3 => some .or | 4 => some .xor | 5 => some .not
  | 6 => some .maj | _ => none
/-- Row format code, R341. -/
def NFmt.code : NFmt → Nat
  | .f32 => 0 | .bfLo => 1 | .bfHi => 2 | .hfLo => 3 | .hfHi => 4
@[inherit_doc NFmt.code]
def NFmt.ofCode (n : Nat) : Option NFmt :=
  match n with
  | 0 => some .f32 | 1 => some .bfLo | 2 => some .bfHi | 3 => some .hfLo | 4 => some .hfHi | _ => none

-- Field readers

/-- A field of width `log2 n` at bit `lo`. -/
def fld (n : Nat) [NeZero n] (w lo : Nat) : Fin n := Fin.ofNat n (w / 2 ^ lo)

/-- Every listed field (low bit, width) must be zero; the refusal names the bits that are set (R171). A code that names no
operation is reported before them: ILLEGAL/0x02 before 0x03, the order of Table 19-3. -/
def zeros (w : Nat) (fs : List (Nat × Nat)) (k : Dec) : Dec :=
  let mask := (fs.map (fun f => bits w f.1 f.2 * 2 ^ f.1)).foldl (· + ·) 0
  if mask = 0 then k
  else match k with
    | .ok i => if i.wellFormed then .error (.reserved mask) else .error .function
    | .error (.reserved m) => .error (.reserved (mask + m))
    | .error r => .error r

/-- An unassigned or reserved code is ILLEGAL/0x02. -/
def need {α : Type} (o : Option α) (k : α → Dec) : Dec :=
  match o with
  | some x => k x
  | none => .error .function

/-- Scalar source a of form R: number at [19:15], peek at [9]. -/
def srcA (w : Nat) : SrcS := ⟨fld 32 w 15, bit w 9⟩
/-- Scalar source b of form R: number at [14:10], peek at [8]. -/
def srcB (w : Nat) : SrcS := ⟨fld 32 w 10, bit w 8⟩
/-- Scalar source a of form I: peek at [14]. -/
def srcI (w : Nat) : SrcS := ⟨fld 32 w 15, bit w 14⟩
/-- Vector source a: number at [18:15], peek at [9]. -/
def vsrcA (w : Nat) : SrcV := ⟨fld 16 w 15, bit w 9⟩
/-- Vector source b: number at [13:10], peek at [8]. -/
def vsrcB (w : Nat) : SrcV := ⟨fld 16 w 10, bit w 8⟩
def reg3 (w : Nat) : Reg3 := ⟨fld 32 w 20, srcA w, srcB w⟩
def reg2 (w : Nat) : Reg2 := ⟨fld 32 w 20, srcA w⟩
def src2 (w : Nat) : Src2 := ⟨srcA w, srcB w⟩
/-- The three bits [24], [19], [14] of a V-class frame as one number (R232). -/
def k3 (w : Nat) : Fin 8 := Fin.ofNat 8 (4 * bits w 24 1 + 2 * bits w 19 1 + bits w 14 1)
def vec3 (w : Nat) : Vec3 := ⟨k3 w, fld 16 w 20, vsrcA w, vsrcB w⟩
def vec2 (w : Nat) : Vec2 := ⟨k3 w, fld 16 w 20, vsrcA w⟩
/-- The type field [4:0]. -/
def typ (w : Nat) (k : Fmt → Dec) : Dec := need (Fmt.ofCode (bits w 0 5)) k
/-- The rounding field [7:5]. -/
def rmf (w : Nat) (k : Rm → Dec) : Dec := need (Rm.ofCode (bits w 5 3)) k
/-- The immediate of frame VK: i[5:3] in [24], [19], [14] and i[2:0] in [7:5]. -/
def immK (w : Nat) : Fin 64 :=
  Fin.ofNat 64 (32 * bits w 24 1 + 16 * bits w 19 1 + 8 * bits w 14 1 + bits w 5 3)

-- C class

/-- Integer form with SAT in fn[5] (Table 07-1). -/
def decSat (w : Nat) (f : Reg3 → Bool → Fmt → Instr) : Dec :=
  zeros w [(6, 2)] (typ w fun t => .ok (f (reg3 w) (bit w 5) t))
/-- Integer form with fn[7:5] zero. -/
def decInt (w : Nat) (f : Reg3 → Fmt → Instr) : Dec := zeros w [(5, 3)] (typ w fun t => .ok (f (reg3 w) t))
/-- Float form with a rounding code (R217). -/
def decFlt (w : Nat) (f : Reg3 → Rm → Fmt → Instr) : Dec :=
  rmf w fun m => typ w fun t => .ok (f (reg3 w) m t)

/-- C-class operations, Table 06-9; `w` holds bits [24:0] only, `mj` the major opcode. -/
def decC (mj w : Nat) : Dec :=
  match mj with
  | 0x01 => decSat w .add
  | 0x02 => decSat w .sub
  | 0x03 => .ok (.addi ⟨fld 32 w 20, srcI w⟩ (fld 16384 w 0))
  | 0x04 => decSat w .mul
  | 0x05 => decInt w .mulh
  | 0x06 => decInt w .div
  | 0x07 => decInt w .rem
  | 0x08 => decInt w .and
  | 0x09 => decInt w .or
  | 0x0A => decInt w .xor
  | 0x0B => decInt w .andn
  | 0x0C => decSat w .shl
  | 0x0D => decInt w .shr
  | 0x0E => decInt w .rol
  | 0x0F => zeros w [(10, 5), (8, 1)] (typ w fun t =>
      match bits w 5 3 with
      | 0 => .ok (.clz (reg2 w) t)
      | 1 => .ok (.ctz (reg2 w) t)
      | 2 => .ok (.popc (reg2 w) t)
      | _ => .error .function)
  | 0x10 => decInt w .min
  | 0x11 => decInt w .max
  | 0x12 => zeros w [(6, 2)] (.ok (.sel (reg3 w) ⟨fld 32 w 0, bit w 5⟩))
  | 0x13 => need (Cond.ofCode (bits w 5 3)) fun c => typ w fun t => .ok (.cmpCc (reg3 w) c t)
  | 0x14 => zeros w [(10, 5), (8, 1)] (typ w fun t =>
      match bits w 5 3 with
      | 0 => .ok (.sext (reg2 w) t)
      | 1 => .ok (.zext (reg2 w) t)
      | _ => .error .function)
  | 0x15 => .ok (.li (fld 32 w 20) (fld 1048576 w 0))
  | 0x16 => .ok (.lih ⟨fld 32 w 20, srcI w⟩ (fld 16384 w 0))
  | 0x17 => zeros w [(10, 5), (8, 1), (5, 3)] (if bits w 0 5 = 7 then .ok (.mov (reg2 w)) else .error .function)
  | 0x18 => decSat w .mad
  | 0x19 => zeros w [(0, 8)] (.ok (.idxPack (reg3 w)))
  | 0x1A => zeros w [(20, 5), (6, 9), (2, 3)] (.ok (.qdrop (fld 32 w 15) (bit w 5) (fld 4 w 0)))
  | 0x1B => zeros w [(6, 9), (0, 5)] (.ok (.qdepth (fld 32 w 20) (fld 32 w 15) (bit w 5)))
  | 0x1C => zeros w [(20, 5), (6, 9), (0, 5)] (.ok (.qclr (fld 32 w 15) (bit w 5)))
  | 0x20 => decFlt w .fadd
  | 0x21 => decFlt w .fsub
  | 0x22 => decFlt w .fmul
  | 0x23 => decFlt w .fma
  | 0x24 => decFlt w .fdiv
  | 0x25 => zeros w [(10, 5), (8, 1)] (rmf w fun m => typ w fun t => .ok (.fsqrt (reg2 w) m t))
  | 0x26 => decInt w .fmin
  | 0x27 => decInt w .fmax
  | 0x28 => need (Cond.ofCode (bits w 5 3)) fun c => typ w fun t => .ok (.fcmp (reg3 w) c t)
  | 0x29 => need (Fmt.ofCode (bits w 10 5)) fun s => rmf w fun m => typ w fun t =>
      .ok (.fcvt (reg2 w) s (bit w 8) m t)
  | 0x2A => zeros w [(10, 5), (8, 1), (5, 3)] (typ w fun t => .ok (.fcls (reg2 w) t))
  | 0x40 => zeros w [(20, 5)] (.ok (.br (fld 1048576 w 0)))
  | 0x41 => zeros w [(23, 2)] (need (BCond.ofCode (bits w 20 3)) fun c => .ok (.brc c (srcI w) (fld 16384 w 0)))
  | 0x42 => zeros w [(20, 5), (10, 5), (0, 9)] (.ok (.jmp (srcA w)))
  | 0x43 => zeros w [(20, 5)] (.ok (.call (fld 1048576 w 0)))
  | 0x44 => zeros w [(0, 25)] (.ok .ret)
  | 0x45 => zeros w [(20, 5), (6, 9)] (.ok (.loop (fld 32 w 15) (fld 64 w 0)))
  | 0x46 => zeros w [(0, 25)] (.ok .yield)
  | 0x47 => zeros w [(0, 25)] (.ok .tend)
  | 0x48 => zeros w [(20, 5)] (.ok (.trap (fld 1048576 w 0)))
  | 0x49 => zeros w [(10, 10)] (.ok (.sysrd (fld 32 w 20) (fld 1024 w 0)))
  | 0x4A => zeros w [(20, 5), (10, 4)] (.ok (.syswr (srcI w) (fld 1024 w 0)))
  | 0x4B => zeros w [(20, 5), (2, 6)] (.ok (.chk (src2 w) (fld 4 w 0)))
  | 0x4C => zeros w [(20, 5)] (.ok (.brk (fld 1048576 w 0)))
  | _ => .error .major

-- V class

/-- `vadd`, `vsub`, `vmul`: SAT or a rounding code by the type (Table 08-2). -/
def decVMod (w : Nat) (f : Vec3 → VMod → Fmt → Instr) : Dec :=
  typ w fun t =>
    if t.isInt then zeros w [(6, 2)] (.ok (f (vec3 w) (.int (bit w 5)) t))
    else rmf w fun m => .ok (f (vec3 w) (.flt m) t)
/-- Frame VA with a rounding code. -/
def decVRm (w : Nat) (f : Vec3 → Rm → Fmt → Instr) : Dec := rmf w fun m => typ w fun t => .ok (f (vec3 w) m t)
/-- Frame VA with mod 0b000. -/
def decV3 (w : Nat) (f : Vec3 → Fmt → Instr) : Dec := zeros w [(5, 3)] (typ w fun t => .ok (f (vec3 w) t))
/-- Frame VA with b, pb and mod zero. -/
def decV2 (w : Nat) (f : Vec2 → Fmt → Instr) : Dec :=
  zeros w [(10, 4), (8, 1), (5, 3)] (typ w fun t => .ok (f (vec2 w) t))
/-- Unary frame VA with SAT in [5]. -/
def decV2s (w : Nat) (f : Vec2 → Bool → Fmt → Instr) : Dec :=
  zeros w [(10, 4), (8, 1), (6, 2)] (typ w fun t => .ok (f (vec2 w) (bit w 5) t))

def vmem (w : Nat) : VMem := ⟨fld 16 w 20, srcI w, fld 8 w 11, fld 8 w 8, fld 4 w 6, fld 64 w 0⟩
def vidx (w : Nat) : VIdx := ⟨fld 16 w 20, srcA w, vsrcB w, fld 8 w 5⟩

/-- V-class operations, Table 06-10. -/
def decV (mj w : Nat) : Dec :=
  match mj with
  | 0x01 => decVMod w .vadd
  | 0x02 => decVMod w .vsub
  | 0x03 => decVMod w .vmul
  | 0x04 => decVRm w .vfma
  | 0x05 => decVRm w .vfms
  | 0x06 => decVRm w .vnfma
  | 0x07 => decV3 w .vmin
  | 0x08 => decV3 w .vmax
  | 0x09 => decV2s w .vabs
  | 0x0A => decV2s w .vneg
  | 0x0B => zeros w [(23, 1)] (need (Cond.ofCode (bits w 5 3)) fun c => typ w fun t =>
      .ok (.vcmpCc (k3 w) (fld 8 w 20) (vsrcA w) (vsrcB w) c t))
  | 0x0C => decV3 w .vsel
  | 0x0D => decV3 w .vand
  | 0x0E => decV3 w .vor
  | 0x0F => decV3 w .vxor
  | 0x10 => decV2 w .vnot
  | 0x11 => zeros w [(6, 2)] (typ w fun t => .ok (.vshl (vec3 w) (bit w 5) t))
  | 0x12 => decV3 w .vshr
  | 0x13 => decV3 w .vsra
  | 0x14 => need (Fmt.ofCode (bits w 10 5)) fun s => rmf w fun m => typ w fun t =>
      .ok (.vcvt (Fin.ofNat 4 (2 * bits w 24 1 + bits w 19 1)) (fld 16 w 20) (vsrcA w) s (bit w 8) m t)
  | 0x15 => zeros w [(12, 2)] (rmf w fun m => typ w fun t =>
      .ok (.vpack (k3 w) (fld 16 w 20) (vsrcA w) (BT.ofCode (bits w 10 2)) (bit w 8) m t))
  | 0x16 => rmf w fun m => typ w fun t => .ok (.vunpack (k3 w) (fld 16 w 20) (vsrcA w) (vsrcB w) m t)
  | 0x17 => zeros w [(24, 1), (10, 5), (5, 4)] (typ w fun t => .ok (.vbcast (fld 16 w 20) (srcA w) t))
  | 0x18 => zeros w [(19, 1), (5, 3)] (typ w fun t => .ok (.vext (fld 32 w 20) (vsrcA w) (srcB w) t))
  | 0x19 => zeros w [(24, 1), (19, 1)] (typ w fun t =>
      .ok (.vins (fld 16 w 20) (vsrcA w) (srcB w) (fld 8 w 5) t))
  | 0x1A => decV3 w .vperm
  | 0x1B => zeros w [(10, 4), (8, 1)] (typ w fun t => .ok (.vrot (fld 16 w 20) (vsrcA w) (immK w) t))
  | 0x1C => typ w fun t => .ok (.vslide (fld 16 w 20) (vsrcA w) (vsrcB w) (immK w) t)
  | 0x1D => zeros w [(10, 4), (8, 1)] (need (RedOp.ofCode (bits w 5 2)) fun o => typ w fun t =>
      .ok (.vred (vec2 w) (bit w 7) o t))
  | 0x1E => decV2 w .vargmax
  | 0x1F => decV2 w .vscanAdd
  | 0x20 => decV2 w .vexp2
  | 0x21 => decV2 w .vlog2
  | 0x22 => decV2 w .vrcp
  | 0x23 => decV2 w .vrsqrt
  | 0x24 => decV2 w .vtanh
  | 0x25 => zeros w [(24, 1)] (.ok (.vld (vmem w)))
  | 0x26 => zeros w [(24, 1)] (.ok (.vst (vmem w)))
  | 0x27 => zeros w [(24, 1), (14, 1)] (typ w fun t => .ok (.vldx (vidx w) t))
  | 0x28 => zeros w [(24, 1), (14, 1)] (typ w fun t => .ok (.vstx (vidx w) t))
  | 0x29 => zeros w [(23, 2), (18, 2), (13, 2), (0, 10)] (.ok (.mand (fld 8 w 20) (fld 8 w 15) (fld 8 w 10)))
  | 0x2A => zeros w [(23, 2), (18, 2), (13, 2), (0, 10)] (.ok (.mor (fld 8 w 20) (fld 8 w 15) (fld 8 w 10)))
  | 0x2B => zeros w [(23, 2), (18, 2), (13, 2), (0, 10)] (.ok (.mxor (fld 8 w 20) (fld 8 w 15) (fld 8 w 10)))
  | 0x2C => zeros w [(23, 2), (18, 2), (0, 15)] (.ok (.mnot (fld 8 w 20) (fld 8 w 15)))
  | 0x2D => zeros w [(18, 2), (5, 10)] (typ w fun t => .ok (.mpop (fld 32 w 20) (fld 8 w 15) t))
  | 0x2E => zeros w [(18, 2), (5, 10)] (typ w fun t => .ok (.mfirst (fld 32 w 20) (fld 8 w 15) t))
  | _ => .error .major

-- M class

/-- M-class operations, Table 06-11. -/
def decM (mj w : Nat) : Dec :=
  match mj with
  | 0x01 =>
    if bit w 11 then
      .ok (.mmaV (fld 32 w 20) (vsrcA w) (Fin.ofNat 64 (32 * bits w 19 1 + 16 * bits w 14 1 + bits w 0 4))
        (fld 4 w 12) (bit w 10) (bit w 8) (fld 16 w 4))
    else .ok (.mmaTs (fld 32 w 20) (srcA w) (bit w 14) (fld 4 w 12) (bit w 10) (bit w 8) (fld 16 w 4) (fld 16 w 0))
  | 0x02 => zeros w [(4, 1)] (.ok (.mmaH (fld 32 w 20) (src2 w) (fld 4 w 6) (bit w 5) (fld 16 w 0)))
  | 0x03 => zeros w [(22, 3), (10, 5), (6, 3)] (typ w fun t => .ok (.latLd (fld 4 w 20) (srcA w) (bit w 5) t))
  | 0x04 => zeros w [(22, 3), (0, 8)] (.ok (.latLdh (fld 4 w 20) (src2 w)))
  | 0x05 => zeros w [(22, 3), (0, 20)] (.ok (.latClr (fld 4 w 20)))
  | 0x06 => zeros w [(0, 20)] (.ok (.aclr (fld 32 w 20)))
  | 0x07 => zeros w [(10, 5), (5, 4)] (typ w fun t => .ok (.aload (fld 32 w 20) (srcA w) t))
  | 0x08 => zeros w [(24, 1), (7, 8)] (.ok (.amovV (fld 16 w 20) (fld 32 w 15) (fld 128 w 0)))
  | 0x09 => zeros w [(8, 1)] (rmf w fun m => typ w fun t =>
      .ok (.adrain (fld 32 w 20) (srcA w) (bit w 14) (BT.ofCode (bits w 12 2)) (bit w 11) (bit w 10) m t))
  | 0x0A => zeros w [(5, 1)] (.ok (.adrainh (fld 32 w 20) (src2 w) (bit w 7) ⟨fld 32 w 0, bit w 6⟩))
  | 0x0B => zeros w [(0, 15)] (.ok (.astat (fld 32 w 20) (fld 32 w 15)))
  | 0x0C => zeros w [(5, 15)] (.ok (.astatClr (fld 32 w 20) (fld 32 w 0)))
  | 0x0D => zeros w [(20, 5), (10, 1), (4, 5)] (.ok (.fmtLd (srcA w) (fld 16 w 11) (fld 16 w 0)))
  | 0x0E => zeros w [(15, 5), (0, 11)] (.ok (.fmtRd (fld 32 w 20) (fld 16 w 11)))
  | 0x0F => zeros w [(0, 25)] (.ok .mbar)
  | _ => .error .major

-- X class

/-- A tile copy without modifier (Table 10-2). -/
def decTc (w : Nat) (f : Src2 → Fin 16 → Instr) : Dec := zeros w [(20, 5), (0, 4)] (.ok (f (src2 w) (fld 16 w 4)))
/-- The ordering field at [7:6]. -/
def ord6 (w : Nat) : Ord4 := Ord4.ofCode (bits w 6 2)
/-- Two sources, every other bit zero. -/
def decAB (w : Nat) (f : Src2 → Instr) : Dec := zeros w [(20, 5), (0, 8)] (.ok (f (src2 w)))
/-- One source, every other bit zero. -/
def decA (w : Nat) (f : SrcS → Instr) : Dec := zeros w [(20, 5), (10, 5), (0, 9)] (.ok (f (srcA w)))
/-- Destination and one source, every other bit zero. -/
def decDA (w : Nat) (f : Fin 32 → SrcS → Instr) : Dec := zeros w [(10, 5), (0, 9)] (.ok (f (fld 32 w 20) (srcA w)))
/-- Destination and two sources, every other bit zero. -/
def decDAB (w : Nat) (f : Fin 32 → Src2 → Instr) : Dec := zeros w [(0, 8)] (.ok (f (fld 32 w 20) (src2 w)))

/-- X-class operations, Table 06-12. -/
def decX (mj w : Nat) : Dec :=
  match mj with
  | 0x01 => decTc w .tld
  | 0x02 => decTc w .tst
  | 0x03 => decTc w .tstW
  | 0x04 => zeros w [(20, 5), (1, 3)] (.ok (.tmc (src2 w) (fld 16 w 4) (bit w 0)))
  | 0x05 => zeros w [(20, 5), (2, 2)] (.ok (.tcopy (src2 w) (fld 16 w 4) (Red.ofCode (bits w 0 2))))
  | 0x06 => decTc w .tgath
  | 0x07 => zeros w [(20, 5), (2, 2)] (.ok (.tscat (src2 w) (fld 16 w 4) (Red.ofCode (bits w 0 2))))
  | 0x08 => zeros w [(20, 5), (1, 3)] (.ok (.tfill (src2 w) (fld 16 w 4) (bit w 0)))
  | 0x09 => zeros w [(8, 1)] (typ w fun t =>
      .ok (.ldTs (fld 32 w 20) (srcA w) (Fin.ofNat 256 (8 * bits w 10 5 + bits w 5 3)) t))
  | 0x0A => typ w fun t => .ok (.stTs (src2 w) (Fin.ofNat 256 (8 * bits w 20 5 + bits w 5 3)) t)
  | 0x0B => zeros w [(0, 6)] (.ok (.ldo (fld 32 w 20) (src2 w) (ord6 w)))
  | 0x0C => zeros w [(20, 5), (10, 5), (4, 5)] (.ok (.barInit (srcA w) (fld 16 w 0)))
  | 0x0D => zeros w [(20, 5)] (.ok (.barExp (src2 w) (fld 256 w 0)))
  | 0x0E => zeros w [(20, 5)] (.ok (.barArr (src2 w) (fld 256 w 0)))
  | 0x0F => zeros w [(20, 5), (10, 5), (1, 8)] (.ok (.waitb (srcA w) (bit w 0)))
  | 0x10 => decAB w .ringWait
  | 0x11 => zeros w [(20, 5), (4, 2)] (.ok (.cntAdd (src2 w) (ord6 w) (fld 16 w 0)))
  | 0x12 => zeros w [(10, 5), (8, 1), (4, 2)] (.ok (.cntRd (fld 32 w 20) (srcA w) (ord6 w) (fld 16 w 0)))
  | 0x13 => zeros w [(20, 5), (4, 4)] (.ok (.waitc (src2 w) (fld 16 w 0)))
  | 0x14 => need (AtomOp.ofCode (bits w 6 3)) fun o =>
      .ok (.atom (fld 32 w 20) (srcA w) (fld 32 w 10) o (Ord4.ofCode (bits w 4 2)) (fld 16 w 0))
  | 0x15 => zeros w [(4, 2)] (.ok (.atomCas (fld 32 w 20) (src2 w) (ord6 w) (fld 16 w 0)))
  | 0x20 => zeros w [(20, 5), (0, 6)] (.ok (.fork (src2 w) (Place.ofCode (bits w 6 2))))
  | 0x21 => decAB w .launch
  | 0x22 => zeros w [(20, 5), (10, 5), (4, 5)] (.ok (.futNew (srcA w) (fld 16 w 0)))
  | 0x23 => zeros w [(20, 5), (5, 3)] (.ok (.futRes (src2 w) (bit w 4) (fld 16 w 0)))
  | 0x24 => decAB w .futWait
  | 0x25 => zeros w [(10, 5), (8, 1), (4, 2)] (.ok (.futRd (fld 32 w 20) (srcA w) (ord6 w) (fld 16 w 0)))
  | 0x26 => decAB w .qOpen
  | 0x27 => zeros w [(0, 25)] (.ok .qRet)
  | 0x28 => decA w .waitq
  | 0x30 => decDA w .objOpenw
  | 0x31 => decDA w .objPub
  | 0x32 => decA w .objAbandon
  | 0x33 => decDAB w .objPin
  | 0x34 => decA w .objUnpin
  | 0x35 => zeros w [(20, 5), (1, 7)] (.ok (.objSub (src2 w) (bit w 0)))
  | 0x36 => zeros w [(10, 5), (2, 7)] (need (VerSel.ofCode (bits w 0 2)) fun s =>
      .ok (.objVer (fld 32 w 20) (srcA w) s))
  | 0x37 => zeros w [(10, 5), (4, 5)] (.ok (.objDesc (fld 32 w 20) (srcA w) (fld 16 w 0)))
  | 0x38 => zeros w [(20, 5), (6, 1)] (.ok (.objPref (src2 w) (bit w 7) (fld 64 w 0)))
  | 0x39 => decAB w .waitv
  | 0x40 => decAB w .coll
  | 0x41 => decDAB w .relLd
  | 0x42 => zeros w [(0, 20)] (.ok (.slotRd (fld 32 w 20)))
  | 0x48 => zeros w [(20, 5), (3, 4)] (need (RowOp.ofCode (bits w 0 3)) fun o => .ok (.drOp (src2 w) (bit w 7) o))
  | 0x50 => decA w .nbLoad
  | 0x51 => decA w .nbRun
  | 0x52 => decA w .nbAcc
  | _ => .error .major

/-- A word whose types and modifiers the entry does not accept is ILLEGAL/0x02 (R205, R231, R260). -/
def keepWf (d : Dec) : Dec :=
  match d with
  | .ok i => if i.wellFormed then .ok i else .error .function
  | .error r => .error r

/-- The operation that word `w` names in slot `slot` (R168, R170, R171). The all-zero word is a nop in every slot (DEDUCED, log 11). -/
def decodeSlot (slot w : Nat) : Dec :=
  if w = 0 then .ok .nop
  else if slot = 1 ∧ bit w 31 then
    if bits w 25 6 = 0 then .error .major else keepWf (decC (bits w 25 6) (w % 2 ^ 25))
  else if w / 2 ^ 25 = 0 then .error (.reserved w)
  else
    match slot with
    | 0 => keepWf (decC (w / 2 ^ 25) (w % 2 ^ 25))
    | 1 => keepWf (decV (w / 2 ^ 25) (w % 2 ^ 25))
    | 2 => keepWf (decM (w / 2 ^ 25) (w % 2 ^ 25))
    | _ => keepWf (decX (w / 2 ^ 25) (w % 2 ^ 25))

/-- A microinstruction (Tables 12-4 and 12-5); every field the operation does not list must be zero. -/
def decodeMicro (w : Nat) : Dec :=
  let op := bits w 59 5
  let bd : Fin 16 := fld 16 w 55
  let bs : Fin 16 := fld 16 w 51
  let px : Fin 8 := fld 8 w 48
  let imm : Fin 4294967296 := fld 4294967296 w 0
  let fm (k : NFmt → Dec) : Dec := need (NFmt.ofCode (bits w 45 3)) k
  let rm (k : Rm → Dec) : Dec := need (Rm.ofCode (bits w 42 3)) k
  keepWf (match op with
  | 0x00 => zeros w [(0, 59)] (.ok .endRun)
  | 0x01 => zeros w [(48, 7), (32, 13)] (fm fun f => .ok (.ldr bd f imm))
  | 0x02 => zeros w [(48, 7), (32, 10)] (fm fun f => rm fun m => .ok (.sadd bd f m imm))
  | 0x03 => zeros w [(48, 7), (32, 10)] (fm fun f => rm fun m => .ok (.mulr bd f m imm))
  | 0x04 => zeros w [(48, 7), (32, 13)] (fm fun f => .ok (.minr bd f imm))
  | 0x05 => zeros w [(48, 7), (32, 13)] (fm fun f => .ok (.maxr bd f imm))
  | 0x06 => zeros w [(45, 6), (0, 42)] (rm fun m => .ok (.aadd bd bs m))
  | 0x07 => zeros w [(45, 6), (0, 42)] (rm fun m => .ok (.ascl bd bs m))
  | 0x08 => zeros w [(0, 55)] (.ok (.clr bd))
  | 0x09 => zeros w [(55, 4), (48, 3), (32, 10)] (fm fun f => rm fun m => .ok (.wb bs f m imm))
  | 0x0A => zeros w [(51, 8), (0, 48)] (.ok (.sclp px))
  | 0x0B => zeros w [(51, 8), (45, 3), (0, 42)] (rm fun m => .ok (.sclm px m))
  | 0x0C => zeros w [(32, 27)] (.ok (.radv imm))
  | 0x0D => zeros w [(51, 8), (6, 42)] (.ok (.nbuLoop px (fld 64 w 0)))
  | _ => .error .major)

-- The encoder

/-- The bits of a scalar source in form R, field a. -/
def eA (s : SrcS) : Nat := s.q.val * 2 ^ 15 + s.peek.toNat * 2 ^ 9
def eB (s : SrcS) : Nat := s.q.val * 2 ^ 10 + s.peek.toNat * 2 ^ 8
def eI (s : SrcS) : Nat := s.q.val * 2 ^ 15 + s.peek.toNat * 2 ^ 14
def eVA (s : SrcV) : Nat := s.q.val * 2 ^ 15 + s.peek.toNat * 2 ^ 9
def eVB (s : SrcV) : Nat := s.q.val * 2 ^ 10 + s.peek.toNat * 2 ^ 8
def e3 (r : Reg3) : Nat := r.d.val * 2 ^ 20 + eA r.a + eB r.b
def e2 (r : Reg2) : Nat := r.d.val * 2 ^ 20 + eA r.a
def eS2 (s : Src2) : Nat := eA s.a + eB s.b
/-- The three-bit number of a V-class frame at [24], [19], [14]. -/
def eK (k : Nat) : Nat := k / 4 * 2 ^ 24 + k / 2 % 2 * 2 ^ 19 + k % 2 * 2 ^ 14
def eV3 (r : Vec3) : Nat := eK r.k.val + r.d.val * 2 ^ 20 + eVA r.a + eVB r.b
def eV2 (r : Vec2) : Nat := eK r.k.val + r.d.val * 2 ^ 20 + eVA r.a
def eMod (m : VMod) : Nat :=
  match m with
  | .int s => s.toNat * 2 ^ 5
  | .flt r => r.code * 2 ^ 5
def eVMem (m : VMem) : Nat :=
  m.d.val * 2 ^ 20 + eI m.s + m.swz.val * 2 ^ 11 + m.k.val * 2 ^ 8 + m.g.val * 2 ^ 6 + m.imm.val
def eVIdx (m : VIdx) : Nat := m.d.val * 2 ^ 20 + eA m.s + eVB m.b + m.k.val * 2 ^ 5
/-- The 6-bit immediate of frame VK. -/
def eImmK (i : Fin 64) : Nat :=
  i.val / 32 * 2 ^ 24 + i.val / 16 % 2 * 2 ^ 19 + i.val / 8 % 2 * 2 ^ 14 + i.val % 8 * 2 ^ 5
def eMM (d a b : Fin 8) : Nat := d.val * 2 ^ 20 + a.val * 2 ^ 15 + b.val * 2 ^ 10

/-- Major opcode `mj` above the lower 25 bits. -/
def mjr (mj low : Nat) : Nat := mj * 2 ^ 25 + low

/-- C-class words in their slot 0 form (Tables 07-1 to 07-11). -/
def encC (i : Instr) : Option Nat :=
  match i with
  | .nop => some (0)
  | .add r s t => some (mjr 0x01 (e3 r + s.toNat * 2 ^ 5 + t.code))
  | .sub r s t => some (mjr 0x02 (e3 r + s.toNat * 2 ^ 5 + t.code))
  | .addi r i => some (mjr 0x03 (r.d.val * 2 ^ 20 + eI r.a + i.val))
  | .mul r s t => some (mjr 0x04 (e3 r + s.toNat * 2 ^ 5 + t.code))
  | .mulh r t => some (mjr 0x05 (e3 r + t.code))
  | .div r t => some (mjr 0x06 (e3 r + t.code))
  | .rem r t => some (mjr 0x07 (e3 r + t.code))
  | .and r t => some (mjr 0x08 (e3 r + t.code))
  | .or r t => some (mjr 0x09 (e3 r + t.code))
  | .xor r t => some (mjr 0x0A (e3 r + t.code))
  | .andn r t => some (mjr 0x0B (e3 r + t.code))
  | .shl r s t => some (mjr 0x0C (e3 r + s.toNat * 2 ^ 5 + t.code))
  | .shr r t => some (mjr 0x0D (e3 r + t.code))
  | .rol r t => some (mjr 0x0E (e3 r + t.code))
  | .clz r t => some (mjr 0x0F (e2 r + t.code))
  | .ctz r t => some (mjr 0x0F (e2 r + 1 * 2 ^ 5 + t.code))
  | .popc r t => some (mjr 0x0F (e2 r + 2 * 2 ^ 5 + t.code))
  | .min r t => some (mjr 0x10 (e3 r + t.code))
  | .max r t => some (mjr 0x11 (e3 r + t.code))
  | .sel r c => some (mjr 0x12 (e3 r + c.peek.toNat * 2 ^ 5 + c.q.val))
  | .cmpCc r c t => some (mjr 0x13 (e3 r + c.code * 2 ^ 5 + t.code))
  | .sext r t => some (mjr 0x14 (e2 r + t.code))
  | .zext r t => some (mjr 0x14 (e2 r + 1 * 2 ^ 5 + t.code))
  | .li d i => some (mjr 0x15 (d.val * 2 ^ 20 + i.val))
  | .lih r i => some (mjr 0x16 (r.d.val * 2 ^ 20 + eI r.a + i.val))
  | .mov r => some (mjr 0x17 (e2 r + 7))
  | .mad r s t => some (mjr 0x18 (e3 r + s.toNat * 2 ^ 5 + t.code))
  | .idxPack r => some (mjr 0x19 (e3 r))
  | .qdrop a v n => some (mjr 0x1A (a.val * 2 ^ 15 + v.toNat * 2 ^ 5 + n.val))
  | .qdepth d a v => some (mjr 0x1B (d.val * 2 ^ 20 + a.val * 2 ^ 15 + v.toNat * 2 ^ 5))
  | .qclr a v => some (mjr 0x1C (a.val * 2 ^ 15 + v.toNat * 2 ^ 5))
  | .fadd r m t => some (mjr 0x20 (e3 r + m.code * 2 ^ 5 + t.code))
  | .fsub r m t => some (mjr 0x21 (e3 r + m.code * 2 ^ 5 + t.code))
  | .fmul r m t => some (mjr 0x22 (e3 r + m.code * 2 ^ 5 + t.code))
  | .fma r m t => some (mjr 0x23 (e3 r + m.code * 2 ^ 5 + t.code))
  | .fdiv r m t => some (mjr 0x24 (e3 r + m.code * 2 ^ 5 + t.code))
  | .fsqrt r m t => some (mjr 0x25 (e2 r + m.code * 2 ^ 5 + t.code))
  | .fmin r t => some (mjr 0x26 (e3 r + t.code))
  | .fmax r t => some (mjr 0x27 (e3 r + t.code))
  | .fcmp r c t => some (mjr 0x28 (e3 r + c.code * 2 ^ 5 + t.code))
  | .fcvt r s sat m t => some (mjr 0x29 (e2 r + s.code * 2 ^ 10 + sat.toNat * 2 ^ 8 + m.code * 2 ^ 5 + t.code))
  | .fcls r t => some (mjr 0x2A (e2 r + t.code))
  | .br i => some (mjr 0x40 i.val)
  | .brc c a i => some (mjr 0x41 (c.code * 2 ^ 20 + eI a + i.val))
  | .jmp a => some (mjr 0x42 (eA a))
  | .call i => some (mjr 0x43 i.val)
  | .ret => some (mjr 0x44 0)
  | .loop a n => some (mjr 0x45 (a.val * 2 ^ 15 + n.val))
  | .yield => some (mjr 0x46 0)
  | .tend => some (mjr 0x47 0)
  | .trap i => some (mjr 0x48 i.val)
  | .sysrd d n => some (mjr 0x49 (d.val * 2 ^ 20 + n.val))
  | .syswr a n => some (mjr 0x4A (eI a + n.val))
  | .chk s l => some (mjr 0x4B (eS2 s + l.val))
  | .brk i => some (mjr 0x4C i.val)
  | _ => none

/-- V-class words (Table 08-1). -/
def encV (i : Instr) : Option Nat :=
  match i with
  | .vadd r m t => some (mjr 0x01 (eV3 r + eMod m + t.code))
  | .vsub r m t => some (mjr 0x02 (eV3 r + eMod m + t.code))
  | .vmul r m t => some (mjr 0x03 (eV3 r + eMod m + t.code))
  | .vfma r m t => some (mjr 0x04 (eV3 r + m.code * 2 ^ 5 + t.code))
  | .vfms r m t => some (mjr 0x05 (eV3 r + m.code * 2 ^ 5 + t.code))
  | .vnfma r m t => some (mjr 0x06 (eV3 r + m.code * 2 ^ 5 + t.code))
  | .vmin r t => some (mjr 0x07 (eV3 r + t.code))
  | .vmax r t => some (mjr 0x08 (eV3 r + t.code))
  | .vabs r s t => some (mjr 0x09 (eV2 r + s.toNat * 2 ^ 5 + t.code))
  | .vneg r s t => some (mjr 0x0A (eV2 r + s.toNat * 2 ^ 5 + t.code))
  | .vcmpCc k d a b c t => some (mjr 0x0B (eK k.val + d.val * 2 ^ 20 + eVA a + eVB b + c.code * 2 ^ 5 + t.code))
  | .vsel r t => some (mjr 0x0C (eV3 r + t.code))
  | .vand r t => some (mjr 0x0D (eV3 r + t.code))
  | .vor r t => some (mjr 0x0E (eV3 r + t.code))
  | .vxor r t => some (mjr 0x0F (eV3 r + t.code))
  | .vnot r t => some (mjr 0x10 (eV2 r + t.code))
  | .vshl r s t => some (mjr 0x11 (eV3 r + s.toNat * 2 ^ 5 + t.code))
  | .vshr r t => some (mjr 0x12 (eV3 r + t.code))
  | .vsra r t => some (mjr 0x13 (eV3 r + t.code))
  | .vcvt p d a s sat m t => some (mjr 0x14 (p.val / 2 * 2 ^ 24 + d.val * 2 ^ 20 + p.val % 2 * 2 ^ 19 + eVA a +
      s.code * 2 ^ 10 + sat.toNat * 2 ^ 8 + m.code * 2 ^ 5 + t.code))
  | .vpack p d a bt o m s => some (mjr 0x15 (eK p.val + d.val * 2 ^ 20 + eVA a + bt.code * 2 ^ 10 + o.toNat * 2
      ^ 8 + m.code * 2 ^ 5 + s.code))
  | .vunpack p d a b m t => some (mjr 0x16 (eK p.val + d.val * 2 ^ 20 + eVA a + eVB b + m.code * 2 ^ 5 + t.code))
  | .vbcast d s t => some (mjr 0x17 (d.val * 2 ^ 20 + eA s + t.code))
  | .vext d a s t => some (mjr 0x18 (d.val * 2 ^ 20 + eVA a + eB s + t.code))
  | .vins d a s c t => some (mjr 0x19 (d.val * 2 ^ 20 + eVA a + eB s + c.val * 2 ^ 5 + t.code))
  | .vperm r t => some (mjr 0x1A (eV3 r + t.code))
  | .vrot d a i t => some (mjr 0x1B (d.val * 2 ^ 20 + eVA a + eImmK i + t.code))
  | .vslide d a b i t => some (mjr 0x1C (d.val * 2 ^ 20 + eVA a + eVB b + eImmK i + t.code))
  | .vred r s o t => some (mjr 0x1D (eV2 r + s.toNat * 2 ^ 7 + o.code * 2 ^ 5 + t.code))
  | .vargmax r t => some (mjr 0x1E (eV2 r + t.code))
  | .vscanAdd r t => some (mjr 0x1F (eV2 r + t.code))
  | .vexp2 r t => some (mjr 0x20 (eV2 r + t.code))
  | .vlog2 r t => some (mjr 0x21 (eV2 r + t.code))
  | .vrcp r t => some (mjr 0x22 (eV2 r + t.code))
  | .vrsqrt r t => some (mjr 0x23 (eV2 r + t.code))
  | .vtanh r t => some (mjr 0x24 (eV2 r + t.code))
  | .vld m => some (mjr 0x25 (eVMem m))
  | .vst m => some (mjr 0x26 (eVMem m))
  | .vldx m t => some (mjr 0x27 (eVIdx m + t.code))
  | .vstx m t => some (mjr 0x28 (eVIdx m + t.code))
  | .mand d a b => some (mjr 0x29 (eMM d a b))
  | .mor d a b => some (mjr 0x2A (eMM d a b))
  | .mxor d a b => some (mjr 0x2B (eMM d a b))
  | .mnot d a => some (mjr 0x2C (d.val * 2 ^ 20 + a.val * 2 ^ 15))
  | .mpop d a t => some (mjr 0x2D (d.val * 2 ^ 20 + a.val * 2 ^ 15 + t.code))
  | .mfirst d a t => some (mjr 0x2E (d.val * 2 ^ 20 + a.val * 2 ^ 15 + t.code))
  | _ => none

/-- M-class words (spec/09). -/
def encM (i : Instr) : Option Nat :=
  match i with
  | .mmaTs d a ta l zs ft p k => some (mjr 0x01 (d.val * 2 ^ 20 + eA a + ta.toNat * 2 ^ 14 + l.val * 2 ^ 12 +
      zs.toNat * 2 ^ 10 + ft.toNat * 2 ^ 8 + p.val * 2 ^ 4 + k.val))
  | .mmaV d a rp l zs ft p => some (mjr 0x01 (d.val * 2 ^ 20 + eVA a + rp.val / 32 * 2 ^ 19 + rp.val / 16 % 2 *
      2 ^ 14 + l.val * 2 ^ 12 + 2 ^ 11 + zs.toNat * 2 ^ 10 + ft.toNat * 2 ^ 8 + p.val * 2 ^ 4 + rp.val % 16))
  | .mmaH d s l zs k => some (mjr 0x02 (d.val * 2 ^ 20 + eS2 s + l.val * 2 ^ 6 + zs.toNat * 2 ^ 5 + k.val))
  | .latLd l a tr t => some (mjr 0x03 (l.val * 2 ^ 20 + eA a + tr.toNat * 2 ^ 5 + t.code))
  | .latLdh l s => some (mjr 0x04 (l.val * 2 ^ 20 + eS2 s))
  | .latClr l => some (mjr 0x05 (l.val * 2 ^ 20))
  | .aclr d => some (mjr 0x06 (d.val * 2 ^ 20))
  | .aload d a t => some (mjr 0x07 (d.val * 2 ^ 20 + eA a + t.code))
  | .amovV v a r => some (mjr 0x08 (v.val * 2 ^ 20 + a.val * 2 ^ 15 + r.val))
  | .adrain d a is bt sat ft m t => some (mjr 0x09 (d.val * 2 ^ 20 + eA a + is.toNat * 2 ^ 14 + bt.code * 2 ^
      12 + sat.toNat * 2 ^ 11 + ft.toNat * 2 ^ 10 + m.code * 2 ^ 5 + t.code))
  | .adrainh d s sat c => some (mjr 0x0A (d.val * 2 ^ 20 + eS2 s + sat.toNat * 2 ^ 7 + c.peek.toNat * 2 ^ 6 + c.q.val))
  | .astat d a => some (mjr 0x0B (d.val * 2 ^ 20 + a.val * 2 ^ 15))
  | .astatClr d k => some (mjr 0x0C (d.val * 2 ^ 20 + k.val))
  | .fmtLd a f n => some (mjr 0x0D (eA a + f.val * 2 ^ 11 + n.val))
  | .fmtRd d e => some (mjr 0x0E (d.val * 2 ^ 20 + e.val * 2 ^ 11))
  | .mbar => some (mjr 0x0F 0)
  | _ => none

/-- X-class words (spec/10, spec/11). -/
def encX (i : Instr) : Option Nat :=
  match i with
  | .tld s st => some (mjr 0x01 (eS2 s + st.val * 2 ^ 4))
  | .tst s st => some (mjr 0x02 (eS2 s + st.val * 2 ^ 4))
  | .tstW s st => some (mjr 0x03 (eS2 s + st.val * 2 ^ 4))
  | .tmc s st o => some (mjr 0x04 (eS2 s + st.val * 2 ^ 4 + o.toNat))
  | .tcopy s st r => some (mjr 0x05 (eS2 s + st.val * 2 ^ 4 + r.code))
  | .tgath s st => some (mjr 0x06 (eS2 s + st.val * 2 ^ 4))
  | .tscat s st r => some (mjr 0x07 (eS2 s + st.val * 2 ^ 4 + r.code))
  | .tfill s st o => some (mjr 0x08 (eS2 s + st.val * 2 ^ 4 + o.toNat))
  | .ldTs d a i t => some (mjr 0x09 (d.val * 2 ^ 20 + eA a + i.val / 8 * 2 ^ 10 + i.val % 8 * 2 ^ 5 + t.code))
  | .stTs s i t => some (mjr 0x0A (i.val / 8 * 2 ^ 20 + eS2 s + i.val % 8 * 2 ^ 5 + t.code))
  | .ldo d s o => some (mjr 0x0B (d.val * 2 ^ 20 + eS2 s + o.code * 2 ^ 6))
  | .barInit a n => some (mjr 0x0C (eA a + n.val))
  | .barExp s i => some (mjr 0x0D (eS2 s + i.val))
  | .barArr s m => some (mjr 0x0E (eS2 s + m.val))
  | .waitb a p => some (mjr 0x0F (eA a + p.toNat))
  | .ringWait s => some (mjr 0x10 (eS2 s))
  | .cntAdd s o e => some (mjr 0x11 (eS2 s + o.code * 2 ^ 6 + e.val))
  | .cntRd d a o e => some (mjr 0x12 (d.val * 2 ^ 20 + eA a + o.code * 2 ^ 6 + e.val))
  | .waitc s e => some (mjr 0x13 (eS2 s + e.val))
  | .atom d a b op o e => some (mjr 0x14 (d.val * 2 ^ 20 + eA a + b.val * 2 ^ 10 + op.code * 2 ^ 6 + o.code * 2
      ^ 4 + e.val))
  | .atomCas d s o e => some (mjr 0x15 (d.val * 2 ^ 20 + eS2 s + o.code * 2 ^ 6 + e.val))
  | .fork s k => some (mjr 0x20 (eS2 s + k.code * 2 ^ 6))
  | .launch s => some (mjr 0x21 (eS2 s))
  | .futNew a e => some (mjr 0x22 (eA a + e.val))
  | .futRes s p e => some (mjr 0x23 (eS2 s + p.toNat * 2 ^ 4 + e.val))
  | .futWait s => some (mjr 0x24 (eS2 s))
  | .futRd d a o e => some (mjr 0x25 (d.val * 2 ^ 20 + eA a + o.code * 2 ^ 6 + e.val))
  | .qOpen s => some (mjr 0x26 (eS2 s))
  | .qRet => some (mjr 0x27 0)
  | .waitq a => some (mjr 0x28 (eA a))
  | .objOpenw d a => some (mjr 0x30 (d.val * 2 ^ 20 + eA a))
  | .objPub d a => some (mjr 0x31 (d.val * 2 ^ 20 + eA a))
  | .objAbandon a => some (mjr 0x32 (eA a))
  | .objPin d s => some (mjr 0x33 (d.val * 2 ^ 20 + eS2 s))
  | .objUnpin a => some (mjr 0x34 (eA a))
  | .objSub s d => some (mjr 0x35 (eS2 s + d.toNat))
  | .objVer d a v => some (mjr 0x36 (d.val * 2 ^ 20 + eA a + v.code))
  | .objDesc d a k => some (mjr 0x37 (d.val * 2 ^ 20 + eA a + k.val))
  | .objPref s m n => some (mjr 0x38 (eS2 s + m.toNat * 2 ^ 7 + n.val))
  | .waitv s => some (mjr 0x39 (eS2 s))
  | .coll s => some (mjr 0x40 (eS2 s))
  | .relLd d s => some (mjr 0x41 (d.val * 2 ^ 20 + eS2 s))
  | .slotRd d => some (mjr 0x42 (d.val * 2 ^ 20))
  | .drOp s f o => some (mjr 0x48 (eS2 s + f.toNat * 2 ^ 7 + o.code))
  | .nbLoad a => some (mjr 0x50 (eA a))
  | .nbRun a => some (mjr 0x51 (eA a))
  | .nbAcc a => some (mjr 0x52 (eA a))
  | _ => none

/-- Microinstructions, 64 bits (Table 12-4). -/
def encMicro (i : Instr) : Option Nat :=
  match i with
  | .endRun => some (0)
  | .ldr bd f i => some (0x01 * 2 ^ 59 + bd.val * 2 ^ 55 + f.code * 2 ^ 45 + i.val)
  | .sadd bd f m i => some (0x02 * 2 ^ 59 + bd.val * 2 ^ 55 + f.code * 2 ^ 45 + m.code * 2 ^ 42 + i.val)
  | .mulr bd f m i => some (0x03 * 2 ^ 59 + bd.val * 2 ^ 55 + f.code * 2 ^ 45 + m.code * 2 ^ 42 + i.val)
  | .minr bd f i => some (0x04 * 2 ^ 59 + bd.val * 2 ^ 55 + f.code * 2 ^ 45 + i.val)
  | .maxr bd f i => some (0x05 * 2 ^ 59 + bd.val * 2 ^ 55 + f.code * 2 ^ 45 + i.val)
  | .aadd bd bs m => some (0x06 * 2 ^ 59 + bd.val * 2 ^ 55 + bs.val * 2 ^ 51 + m.code * 2 ^ 42)
  | .ascl bd bs m => some (0x07 * 2 ^ 59 + bd.val * 2 ^ 55 + bs.val * 2 ^ 51 + m.code * 2 ^ 42)
  | .clr bd => some (0x08 * 2 ^ 59 + bd.val * 2 ^ 55)
  | .wb bs f m i => some (0x09 * 2 ^ 59 + bs.val * 2 ^ 51 + f.code * 2 ^ 45 + m.code * 2 ^ 42 + i.val)
  | .sclp px => some (0x0A * 2 ^ 59 + px.val * 2 ^ 48)
  | .sclm px m => some (0x0B * 2 ^ 59 + px.val * 2 ^ 48 + m.code * 2 ^ 42)
  | .radv i => some (0x0C * 2 ^ 59 + i.val)
  | .nbuLoop px i => some (0x0D * 2 ^ 59 + px.val * 2 ^ 48 + i.val)
  | _ => none

/-- Class and word of an instruction: a C-class word is given in its slot 0 form; `encodeSlot` gives the slot 1 form.
A microinstruction's word has 64 bits; an event has none. -/
def encode (i : Instr) : SlotKind × Nat :=
  match encC i, encV i, encM i, encX i, encMicro i with
  | some w, _, _, _, _ => (.c, w)
  | _, some w, _, _, _ => (.v, w)
  | _, _, some w, _, _ => (.m, w)
  | _, _, _, some w, _ => (.x, w)
  | _, _, _, _, some w => (.micro, w)
  | _, _, _, _, _ => (.event, 0)

/-- The slot in which a word of class `k` stands by default. -/
def SlotKind.slot : SlotKind → Nat
  | .c => 0 | .v => 1 | .m => 2 | _ => 3

/-- The word of an instruction in slot `slot`: a scalar form in slot 1 carries the class bit (R170). -/
def encodeSlot (slot : Nat) (i : Instr) : Nat :=
  if slot = 1 ∧ (encode i).1 = .c ∧ (encode i).2 ≠ 0 then 2 ^ 31 + (encode i).2 else (encode i).2

/-- The instruction may stand in slot `slot`: its class's own slot, or slot 1 for a C major below 0x40. -/
def standsIn (slot : Nat) (i : Instr) : Bool :=
  let k := (encode i).1
  let w := (encode i).2
  if w = 0 ∧ k = .c then decide (slot < 4)
  else match k with
    | .c => slot == 0 || (slot == 1 && decide (w / 2 ^ 25 < 0x40))
    | .v => slot == 1
    | .m => slot == 2
    | .x => slot == 3
    | _ => false

/-- The first of the four slots in which the word names an operation (a 32-bit word names one only with its slot). -/
def decodeAny (w : Nat) : Option (Nat × Instr) :=
  match decodeSlot 0 w, decodeSlot 1 w, decodeSlot 2 w, decodeSlot 3 w with
  | .ok i, _, _, _ => some (0, i)
  | _, .ok i, _, _ => some (1, i)
  | _, _, .ok i, _ => some (2, i)
  | _, _, _, .ok i => some (3, i)
  | _, _, _, _ => none

/-- The one operation of a 128-bit bundle that holds no other: its first slot word that is not zero. -/
def bundleWord (w : Nat) : Nat × Nat :=
  if bits w 0 32 ≠ 0 ∧ bits w 25 7 ≠ 0x7F then (0, bits w 0 32)
  else if bits w 32 32 ≠ 0 then (1, bits w 32 32)
  else if bits w 64 32 ≠ 0 then (2, bits w 64 32)
  else (3, bits w 96 32)

/-- The instruction of an instruction word of `nbits` bits: 32 a slot word, 64 a microinstruction, 128 a bundle. -/
def decodeTableWord (nbits w : Nat) : Option Instr :=
  if nbits = 64 then (decodeMicro w).toOption
  else if nbits = 128 then (decodeSlot (bundleWord w).1 (bundleWord w).2).toOption
  else (decodeAny (bits w 0 32)).map (·.2)

end Sys2Proof
end

