-- ==== Sys2Proof/Machine/Num.lean ====
section
/-! DEFINITION. Machine/Num.lean: numbers (spec/05): exact values of the element formats, rounding with its status bits,
stochastic rounding, conversion, the q4 block, and the exact operations on which arithmetic is built. Values are exact
rationals; nothing is rounded except by `roundTo`. -/

namespace Sys2Proof.Machine

/-- A real value or a special one. `fin s n d` is (-1)^s * n / d with d > 0; a zero keeps its sign. -/
inductive FV
  | nan
  | inf (s : Bool)
  | fin (s : Bool) (n d : Nat)
deriving DecidableEq, Repr

-- Status bits, Table 05-9
def stOV : Nat := 1
def stSAT : Nat := 2
def stINV : Nat := 4
def stINX : Nat := 8
def stNANP : Nat := 16

/-- Union of status bits. -/
def stOr (a b : Nat) : Nat := a ||| b

/-- Fraction bits, Table 05-1. -/
def fracBits : Fmt → Nat
  | .f64 => 52 | .f32 => 23 | .f16 => 10 | .bf16 => 7 | .e5m2 => 2 | _ => 3
/-- Exponent bits, Table 05-1. -/
def expBits : Fmt → Nat
  | .f64 => 11 | .f32 => 8 | .f16 => 5 | .bf16 => 8 | .e5m2 => 5 | _ => 4
/-- Exponent bias, Table 05-1. -/
def bias (f : Fmt) : Nat := 2 ^ (expBits f - 1) - 1
/-- The format is a float format. -/
def isFlt (f : Fmt) : Bool := !f.isInt && f != .q4
/-- A signed integer type. -/
def isSigned : Fmt → Bool
  | .s8 | .s16 | .s32 | .s64 => true
  | _ => false
/-- Canonical NaN, Table 05-1. -/
def nanCode : Fmt → Nat
  | .f64 => 0x7FF8000000000000 | .f32 => 0x7FC00000 | .f16 => 0x7E00 | .bf16 => 0x7FC0 | .e5m2 => 0x7E
  | .e4m3 => 0x7F | _ => 0
/-- Magnitude code of infinity, or of the largest finite value for e4m3 (which has no infinity). -/
def infCode (f : Fmt) : Nat :=
  if f = .e4m3 then 0x7E else (2 ^ expBits f - 1) * 2 ^ fracBits f
/-- Magnitude code of the largest finite value. -/
def maxCode (f : Fmt) : Nat := if f = .e4m3 then 0x7E else infCode f - 1
/-- The sign bit of a code. -/
def signBit (f : Fmt) : Nat := 2 ^ (f.width - 1)
/-- A magnitude code with a sign. -/
def withSign (f : Fmt) (s : Bool) (mag : Nat) : Nat := if s then signBit f + mag else mag

/-- Least value of an integer type. -/
def minOf (t : Fmt) : Int := if isSigned t then -(2 ^ (t.width - 1) : Nat) else 0
/-- Greatest value of an integer type. -/
def maxOf (t : Fmt) : Int := if isSigned t then (2 ^ (t.width - 1) : Nat) - 1 else (2 ^ t.width : Nat) - 1
/-- `sat(v, lo, hi)`. -/
def satI (v lo hi : Int) : Int := if v < lo then lo else if hi < v then hi else v

/-- `opnd(x, t)` for an integer type (R203). -/
def opndI (t : Fmt) (x : Nat) : Int := if isSigned t then sextN t.width x else (x % 2 ^ t.width : Nat)
/-- `put(v, t)` for an integer type: n bits, then extended to 64 (R203). -/
def putI (t : Fmt) (v : Int) : Entry :=
  BitVec.ofNat 64 (if isSigned t then wrapN 64 (sextN t.width (wrapN t.width v)) else wrapN t.width v)

/-- An integer as an exact value. -/
def ofInt (v : Int) : FV := .fin (decide (v < 0)) v.natAbs 1

/-- The exact value `m * 2^e`. -/
def scaled (s : Bool) (m : Nat) (e : Int) : FV :=
  if 0 ≤ e then .fin s (m * 2 ^ e.toNat) 1 else .fin s m (2 ^ (-e).toNat)

/-- The exact value of a float code (R142, Table 05-1). -/
def decodeFlt (f : Fmt) (w : Nat) : FV :=
  let s := bit w (f.width - 1)
  let mag := w % signBit f
  let e := mag / 2 ^ fracBits f
  let m := mag % 2 ^ fracBits f
  if f = .e4m3 ∧ mag = 0x7F then .nan
  else if f ≠ .e4m3 ∧ e = 2 ^ expBits f - 1 then (if m = 0 then .inf s else .nan)
  else if e = 0 then scaled s m (1 - (bias f : Int) - (fracBits f : Int))
  else scaled s (2 ^ fracBits f + m) ((e : Int) - (bias f : Int) - (fracBits f : Int))

/-- The value a code of any format but q4 stands for. -/
def decodeVal (f : Fmt) (w : Nat) : FV := if f.isInt then ofInt (opndI f w) else decodeFlt f w

/-- floor(log2(n / d)) for n, d > 0. -/
def flog2 (n d : Nat) : Int :=
  let e : Int := (Nat.log2 n : Int) - (Nat.log2 d : Int)
  let small := if 0 ≤ e then n < d * 2 ^ e.toNat else n * 2 ^ (-e).toNat < d
  if small then e - 1 else e

/-- floor((n / d) / 2^e) and whether the quotient is exact, with the remainder as a fraction (num, den). -/
def quot (n d : Nat) (e : Int) : Nat × Nat × Nat :=
  let a := if 0 ≤ e then n else n * 2 ^ (-e).toNat
  let b := if 0 ≤ e then d * 2 ^ e.toNat else d
  (a / b, a % b, b)

/-- The 64-bit mixing function of R151. -/
def mix64 (x : Nat) : Nat :=
  let a := x ^^^ (x / 2 ^ 31)
  let b := (a * 0x9E6C63D0676A9A99) % 2 ^ 64
  let c := b ^^^ (b / 2 ^ 29)
  let d := (c * 0xD6E8FEB86659FD93) % 2 ^ 64
  d ^^^ (d / 2 ^ 32)

/-- How an operation rounds: a static mode, and SEED and pos of R151 for stochastic rounding. -/
structure Rnd where
  m : Rm
  seed : Nat
  pos : Nat
deriving DecidableEq, Repr

/-- Round to nearest even; no stream. -/
def Rnd.rne : Rnd := ⟨.rne, 0, 0⟩

/-- The draw g of R151. -/
def Rnd.draw (r : Rnd) : Nat := mix64 (r.seed ^^^ mix64 (r.pos % 2 ^ 64)) % 2 ^ 24

/-- Whether the magnitude lo + rem/den (in units of the last place) goes to lo + 1 (R148, R151). -/
def roundUp (r : Rnd) (s : Bool) (lo rem den : Nat) : Bool :=
  if rem = 0 then false
  else match r.m with
    | .rtz => false
    | .rdn => s
    | .rup => !s
    | .rna => decide (den ≤ 2 * rem)
    | .sto => decide (r.draw < rem * 2 ^ 24 / den)
    | _ => decide (den < 2 * rem) || (decide (2 * rem = den) && lo % 2 == 1)

/-- A rounded result: its code, its status bits. -/
structure Coded where
  code : Nat
  st : Nat
deriving DecidableEq, Repr

/-- `round(x, f, m)` of a finite value to a float format, with the overflow rule of R149 and `.sat` (R148, R149),
and the status bits of Table 05-9. -/
def roundFin (f : Fmt) (r : Rnd) (sat s : Bool) (n d : Nat) : Coded :=
  if n = 0 then ⟨withSign f s 0, 0⟩
  else
    let emin : Int := 1 - (bias f : Int)
    let e := max (flog2 n d) emin
    let ue := e - (fracBits f : Int)
    let q := quot n d ue
    let k := if roundUp r s q.1 q.2.1 q.2.2 then q.1 + 1 else q.1
    let inx := if q.2.1 = 0 then 0 else stINX
    -- code of k * 2^ue with the exponent range unbounded above
    let code := k + (ue + (fracBits f : Int) - emin).toNat * 2 ^ fracBits f
    if code ≤ maxCode f then ⟨withSign f s code, inx⟩
    else if sat || f == .e4m3 then ⟨withSign f s (maxCode f), stOV + stSAT + stINX⟩
    else
      let toMax := match r.m with
        | .rtz => true
        | .rdn => !s
        | .rup => s
        | _ => false
      ⟨withSign f s (if toMax then maxCode f else infCode f), stOV + stINX⟩

/-- A value written as a float result: NaN is canonical and sets NANP; an infinity is exact (R143, R149). -/
def roundTo (f : Fmt) (r : Rnd) (sat : Bool) (v : FV) : Coded :=
  match v with
  | .nan => ⟨nanCode f, stNANP⟩
  | .inf s => ⟨withSign f s (infCode f), 0⟩
  | .fin s n d => roundFin f r sat s n d

/-- `round` of a finite value to an integer under a mode, and whether it is inexact (R149). -/
def roundInt (r : Rnd) (s : Bool) (n d : Nat) : Int × Bool :=
  let k := if roundUp r s (n / d) (n % d) d then n / d + 1 else n / d
  (if s then -(k : Int) else k, n % d != 0)

/-- A conversion: code, status bits, and the exception kind of Table 05-11 (0 for none). -/
structure Conv where
  code : Nat
  st : Nat
  kind : Nat
deriving DecidableEq, Repr

/-- `convert(x, f, m, sat)` of R163. Code is n bits wide. -/
def convert (v : FV) (f : Fmt) (r : Rnd) (sat : Bool) : Conv :=
  if f.isInt then
    match v with
    | .nan => ⟨0, stINX, 1⟩
    | .inf s => ⟨wrapN f.width (if s then minOf f else maxOf f), stSAT + stINX, 3⟩
    | .fin s n d =>
      let i := roundInt r s n d
      let c := satI i.1 (minOf f) (maxOf f)
      if c = i.1 then ⟨wrapN f.width c, if i.2 then stINX else 0, 0⟩
      else ⟨wrapN f.width c, stSAT + stINX, 3⟩
  else
    match v with
    | .nan => ⟨nanCode f, stNANP, 0⟩
    | .inf s =>
      if f = .e4m3 then ⟨withSign f s (maxCode f), stOV + stSAT + stINX, 4⟩
      else if sat then ⟨withSign f s (maxCode f), stOV + stSAT + stINX, 0⟩
      else ⟨withSign f s (infCode f), 0, 0⟩
    | .fin s n d =>
      let c := roundFin f r sat s n d
      ⟨c.code, c.st, if f = .e4m3 ∧ c.st / stSAT % 2 = 1 then 4 else 0⟩

-- Exact operations (R143, R154, R218)

/-- An operation's exact value, and whether it created a NaN (INV). -/
abbrev FVI := FV × Bool

def FV.neg (v : FV) : FV :=
  match v with
  | .nan => .nan
  | .inf s => .inf (!s)
  | .fin s n d => .fin (!s) n d

/-- x + y; a zero sum of opposite signs is -0 only under rdn (IEEE 754) (DEDUCED, log 14). -/
def FV.add (m : Rm) (x y : FV) : FVI :=
  match x, y with
  | .nan, _ => (.nan, false)
  | _, .nan => (.nan, false)
  | .inf a, .inf b => if a = b then (.inf a, false) else (.nan, true)
  | .inf a, .fin _ _ _ => (.inf a, false)
  | .fin _ _ _, .inf b => (.inf b, false)
  | .fin a n d, .fin b p q =>
    let l := n * q
    let r := p * d
    if a = b then (.fin a (l + r) (d * q), false)
    else if l = r then (.fin (m == .rdn) 0 1, false)
    else if r < l then (.fin a (l - r) (d * q), false)
    else (.fin b (r - l) (d * q), false)

def FV.isZero (v : FV) : Bool :=
  match v with
  | .fin _ n _ => n == 0
  | _ => false

def FV.sgn (v : FV) : Bool :=
  match v with
  | .nan => false
  | .inf s => s
  | .fin s _ _ => s

/-- x × y: 0 × ∞ creates a NaN (R154). -/
def FV.mul (x y : FV) : FVI :=
  match x, y with
  | .nan, _ => (.nan, false)
  | _, .nan => (.nan, false)
  | .fin a n d, .fin b p q => (.fin (a != b) (n * p) (d * q), false)
  | x, y => if x.isZero || y.isZero then (.nan, true) else (.inf (x.sgn != y.sgn), false)

/-- x ÷ y (R218). -/
def FV.div (x y : FV) : FVI :=
  match x, y with
  | .nan, _ => (.nan, false)
  | _, .nan => (.nan, false)
  | .inf _, .inf _ => (.nan, true)
  | .inf a, .fin b _ _ => (.inf (a != b), false)
  | .fin a _ _, .inf b => (.fin (a != b) 0 1, false)
  | .fin a n d, .fin b p q =>
    if p = 0 then (if n = 0 then (.nan, true) else (.inf (a != b), false))
    else (.fin (a != b) (n * q) (d * p), false)

/-- x × y + z, formed exactly (R218) (DEDUCED, log 14). 0 × ∞ is invalid whatever z is, a NaN too (R143, R154) (DESIGN CHOICE, log 104). -/
def FV.fma (m : Rm) (x y z : FV) : FVI :=
  let p := x.mul y
  let s := p.1.add m z
  (s.1, p.2 || s.2)

/-- Integer square root, bit by bit from 2^k down. -/
def isqrtGo (x : Nat) : Nat → Nat → Nat
  | 0, r => if (r + 1) * (r + 1) ≤ x then r + 1 else r
  | k + 1, r => isqrtGo x k (if (r + 2 ^ (k + 1)) * (r + 2 ^ (k + 1)) ≤ x then r + 2 ^ (k + 1) else r)
def isqrt (x : Nat) : Nat := isqrtGo x (Nat.log2 x / 2 + 1) 0

/-- √(n/d) to at least 160 significant bits; an irrational root is replaced by a value strictly between its two
neighbours at that precision, which rounds as the root does. -/
def sqrtFrac (n d : Nat) : Nat × Nat :=
  let k := 160 + Nat.log2 d
  let r := isqrt (n * 2 ^ (2 * k) / d)
  if r * r * d = n * 2 ^ (2 * k) then (r, 2 ^ k) else (2 * r + 1, 2 ^ (k + 1))

/-- √x (R218). -/
def FV.sqrt (x : FV) : FVI :=
  match x with
  | .nan => (.nan, false)
  | .inf s => if s then (.nan, true) else (.inf false, false)
  | .fin s n d =>
    if n = 0 then (.fin s 0 1, false)
    else if s then (.nan, true)
    else (.fin false (sqrtFrac n d).1 (sqrtFrac n d).2, false)

/-- Numeric comparison: some order for non-NaN values, -0 equal to +0. -/
def FV.cmp (x y : FV) : Option Ordering :=
  let key (v : FV) : Int × Nat := match v with
    | .nan => (0, 1)
    | .inf s => (if s then -1 else 1, 0)
    | .fin s n d => (if s then -(n : Int) else n, d)
  match x, y with
  | .nan, _ => none
  | _, .nan => none
  | x, y =>
    let a := key x
    let b := key y
    if a.2 = 0 ∧ b.2 = 0 then some (compare a.1 b.1)
    else if a.2 = 0 then some (compare a.1 0)
    else if b.2 = 0 then some (compare 0 b.1)
    else some (compare (a.1 * b.2) (b.1 * a.2))

/-- The total order of `fmin`, `fmax`, `vargmax`: as `cmp`, with -0 below +0. -/
def FV.lt (x y : FV) : Bool :=
  match x.cmp y with
  | some .lt => true
  | some .eq => x.sgn && !y.sgn
  | _ => false

/-- A condition on a comparison (Tables 07-3 and 07-7; `none` is unordered). -/
def condHolds (c : Cond) (o : Option Ordering) : Bool :=
  match o, c with
  | none, .ne => true
  | none, .un => true
  | none, _ => false
  | some o, .eq => o == .eq
  | some o, .ne => o != .eq
  | some o, .lt => o == .lt
  | some o, .le => o != .gt
  | some o, .gt => o == .gt
  | some o, .ge => o != .lt
  | some _, .un => false

/-- Result of a float operation: the status bits include INV for a created NaN. -/
def finish (f : Fmt) (r : Rnd) (v : FVI) : Coded :=
  let c := roundTo f r false v.1
  ⟨c.code, if v.2 then stOr c.st stINV else c.st⟩

/-- `fmin`, `vmin` on codes of one float format: canonical NaN for a NaN input, no rounding (R218, R237). -/
def fminCode (f : Fmt) (takeMax : Bool) (a b : Nat) : Nat :=
  match decodeFlt f a, decodeFlt f b with
  | .nan, _ => nanCode f
  | _, .nan => nanCode f
  | x, y => if (if takeMax then x.lt y else y.lt x) then b % 2 ^ f.width else a % 2 ^ f.width

/-- Class mask of `fcls`, Table 07-8. -/
def classMask (f : Fmt) (w : Nat) : Nat :=
  let s := bit w (f.width - 1)
  let e := w % signBit f / 2 ^ fracBits f
  match decodeFlt f w with
  | .nan => 256
  | .inf _ => if s then 1 else 128
  | .fin _ n _ =>
    if n = 0 then (if s then 8 else 16)
    else if e = 0 then (if s then 4 else 32)
    else (if s then 2 else 64)

-- q4 (R144, R145, R164)

/-- decode(BT, c) times 2, so that it is an integer (Table 05-3). -/
def q4x2 (b : BT) (c : Nat) : Int :=
  let mag : Nat := match b with
    | .ui => 0
    | .e2m1 => [0, 1, 2, 3, 4, 6, 8, 12].getD (c % 8) 0
    | .p2 => [0, 2, 4, 8, 16, 32, 64, 128].getD (c % 8) 0
    | .hy => [0, 2, 4, 6, 8, 12, 16, 32].getD (c % 8) 0
  match b with
  | .ui => 2 * sextN 4 c
  | _ => if c / 8 % 2 = 1 then -(mag : Int) else mag

/-- vmax of Table 05-3. -/
def q4vmax : BT → Nat
  | .ui => 7 | .e2m1 => 6 | .p2 => 64 | .hy => 16

/-- The exact value of a q4 code under a scale byte (R144 to R146); a zero decodes to +0. -/
def decodeQ4 (scale c : Nat) : FV :=
  let v := q4x2 (BT.ofCode (scale / 64 % 4)) (c % 16)
  if v = 0 then .fin false 0 1 else scaled (decide (v < 0)) v.natAbs ((scale % 64 : Nat) - 33)

/-- Magnitude times 2 of index i: for ui the integer itself, for the signed types Table 05-3. -/
def q4mag (b : BT) (i : Nat) : Nat := if b = .ui then 2 * i else (q4x2 b i).natAbs

/-- The largest index i of the type whose magnitude is at most n/d. -/
def q4floor (b : BT) (n d : Nat) : Nat :=
  (List.range 9).foldl (fun best i => if (i < 8 ∨ b = .ui) ∧ q4mag b i * d ≤ 2 * n then i else best) 0

/-- `q4_round` of R164: the code and whether it is inexact and clamped. -/
def q4round (b : BT) (r : Rnd) (s : Bool) (n d : Nat) : Nat × Bool × Bool :=
  let top := if b = .ui then (if s then 8 else 7) else 7
  let i := min (q4floor b n d) top
  let lo := q4mag b i
  let hi := q4mag b (i + 1)
  let exact := decide (lo * d = 2 * n)
  let j :=
    if exact || i == top then i
    else
      let den := (hi - lo) * d
      let rem := 2 * n - lo * d
      let up := match r.m with
        | .rne => decide (den < 2 * rem) || (decide (2 * rem = den) && i % 2 == 1)
        | _ => roundUp r s i rem den
      if up then i + 1 else i
  let clamp := i == top && !exact
  let code := if j = 0 then 0 else if b = .ui then (if s then 16 - j else j) else (if s then 8 + j else j)
  (code, !exact, clamp)

/-- A drained q4 block: codes, scale byte, status bits, and the exception events as (element, kind). -/
structure Q4Block where
  codes : List Nat
  scale : Nat
  st : Nat
  events : List (Nat × Nat)
deriving DecidableEq, Repr

/-- |x| is at most vmax * 2^k (k may be negative). -/
def leVmax (b : BT) (n d : Nat) (k : Int) : Bool :=
  if 0 ≤ k then decide (n ≤ q4vmax b * 2 ^ k.toNat * d) else decide (n * 2 ^ (-k).toNat ≤ q4vmax b * d)

/-- sat(32 + least k with vmax * 2^k >= n/d, 0, 63). -/
def q4exp (b : BT) (n d : Nat) : Nat :=
  ((List.range 64).find? (fun e : Nat => leVmax b n d ((e : Int) - 32))).getD 63

/-- The maximum magnitude of the values that are not NaN. -/
def maxMag (xs : List FV) : Nat × Nat :=
  xs.foldl (fun a v => match v with
    | .fin _ n d => if a.1 * d < n * a.2 then (n, d) else a
    | _ => a) (0, 1)

/-- `drain_q4_block` of R164; `r j` is the rounding of element j. Its kind-2 event stands before the others with the place of the block's first element, as R242 has it
for `vpack` (DESIGN CHOICE, log 105). -/
def drainQ4 (b : BT) (r : List Rnd) (xs : List FV) : Q4Block :=
  let anyInf := xs.any (fun v => match v with | .inf _ => true | _ => false)
  let a := maxMag xs
  let e : Nat := if anyInf then 63 else if a.1 = 0 then 0 else q4exp b a.1 a.2
  let one : FV × Rnd → Nat × Nat := fun p => match p.1 with
    | .nan => (0, stINX)
    | .inf s => ((if b = BT.ui then (if s then 8 else 7) else (if s then 15 else 7)), stOV + stSAT + stINX)
    | .fin s n d =>
      let sc : Int := (e : Int) - 32
      let q := if 0 ≤ sc then q4round b p.2 s n (d * 2 ^ sc.toNat) else q4round b p.2 s (n * 2 ^ (-sc).toNat) d
      (q.1, (if q.2.1 then stINX else 0) + (if q.2.2 then stSAT else 0))
  let cs := (xs.zip r).map one
  let nans := ((List.range xs.length).zip xs).filterMap (fun p => if p.2 = .nan then some (p.1, 1) else none)
  ⟨cs.map (·.1), b.code * 64 + e, (cs.map (·.2)).foldl stOr 0, (if anyInf then [(0, 2)] else []) ++ nans⟩

-- Matrix accumulation (R155 to R160)

/-- Exact sum of terms, truncated toward zero to 2^(e-80) with the sticky quarter (`block_sum`, R155): value, INV, INX. -/
def blockSum (ts : List FV) : FV × Bool × Bool :=
  if ts.any (· == .nan) then (.nan, false, false)
  else if ts.any (· == .inf false) && ts.any (· == .inf true) then (.nan, true, false)
  else if ts.any (· == .inf false) then (.inf false, false, false)
  else if ts.any (· == .inf true) then (.inf true, false, false)
  else
    let nz := ts.filter (fun v => !v.isZero)
    match nz with
    | [] => (.fin false 0 1, false, false)
    | v :: rest =>
      let lg (v : FV) : Int := match v with
        | .fin _ n d => flog2 n d
        | _ => 0
      let e := rest.foldl (fun a v => max a (lg v)) (lg v)
      let part (v : FV) : Int × Bool := match v with
        | .fin s n d =>
          let q := quot n d (e - 80)
          (if s then -(q.1 : Int) else q.1, q.2.1 != 0)
        | _ => (0, false)
      let ps := nz.map part
      let s : Int := (ps.map (·.1)).foldl (· + ·) 0
      let sticky := ps.any (·.2)
      let s4 : Int := 4 * s + (if sticky then s.sign else 0)
      (if s4 = 0 then .fin false 0 1 else scaled (decide (s4 < 0)) s4.natAbs (e - 82), false, sticky)

/-- v * 2^k. -/
def scaleBy (v : FV) (k : Int) : FV :=
  match v with
  | .fin s n d => if 0 ≤ k then .fin s (n * 2 ^ k.toNat) d else .fin s n (d * 2 ^ (-k).toNat)
  | v => v

/-- round(x, f32, rne) as a value, with its status. -/
def r32 (v : FVI) : FV × Nat :=
  let c := finish .f32 .rne v
  (decodeFlt .f32 c.code, c.st)

/-- c := round(c + b, f32, rne) with the status of the steps. -/
def acc32 (c : FV × Nat) (b : FV × Nat) : FV × Nat :=
  let r := r32 (c.1.add .rne b.1)
  (r.1, stOr (stOr c.2 b.2) r.2)

/-- Lists of up to 32 k-groups of terms (R155). -/
def blocks32 (ks : List (List FV)) : List (List FV) :=
  match ks with
  | [] => []
  | k :: r => go r 31 [k]
where go (ks : List (List FV)) (n : Nat) (acc : List (List FV)) : List (List FV) :=
  match ks, n with
  | [], _ => [acc.reverse.flatten]
  | k :: r, 0 => acc.reverse.flatten :: go r 31 [k]
  | k :: r, n + 1 => go r n (k :: acc)

/-- Adjacent pairs summed and rounded, one level (NVR 6, R160). -/
def pairLevel (l : List (FV × Nat)) : List (FV × Nat) :=
  match l with
  | a :: b :: r => acc32 a b :: pairLevel r
  | l => l

/-- `j` levels of `pairLevel`. -/
def pairTree : Nat → List (FV × Nat) → List (FV × Nat)
  | 0, l => l
  | j + 1, l => pairTree j (pairLevel l)

/-- The number of levels for n entries: least j with n <= 2^j. -/
def levels (n : Nat) : Nat := if n ≤ 1 then 0 else Nat.log2 (n - 1) + 1

/-- `accumulate` of R261 for f32 accumulation. `terms` lists, for each k ascending, the exact terms of that k with the
INV of each product; a term dropped by `.zs` is absent (`keep` false) for NVR 7 and 5 and +0 for NVR 6, and a block without a term adds +0 (R157, R160). Where a
block holds a NaN and infinities of both signs, the additions that NVR 5 and 6 make one by one set INV as R154 has it for each, and the block sum of NVR 7
does not (DESIGN CHOICE, log 100). -/
def accumF32 (nvr : Nat) (sexp : Int) (c : FV) (terms : List (List (FVI × Bool))) : FV × Nat :=
  let inv := if terms.any (fun k => k.any (fun t => t.2 && t.1.2)) then stINV else 0
  let kept := terms.map (fun k => (k.filter (·.2)).map (fun t => t.1.1))
  let r :=
    if nvr = 7 then
      (blocks32 kept).foldl (fun a ts =>
        let b := blockSum ts
        let q := r32 (scaleBy b.1 sexp, b.2.1)
        acc32 a (q.1, stOr q.2 (if b.2.2 then stINX else 0))) (c, 0)
    else if nvr = 6 then
      (blocks32 (terms.map (fun k => k.map (fun t => if t.2 then t.1.1 else .fin false 0 1)))).foldl (fun a ts =>
        let l := ts.map (fun t => (scaleBy t sexp, 0))
        let j := levels l.length
        let t := pairTree j (l ++ List.replicate (2 ^ j - l.length) (.fin false 0 1, 0))
        acc32 a (t.headD (.fin false 0 1, 0))) (c, 0)
    else
      (blocks32 kept).foldl (fun a ts =>
        (if ts.isEmpty then [.fin false 0 1] else ts).foldl (fun a t => acc32 a (r32 (scaleBy t sexp, false))) a) (c, 0)
  (r.1, stOr r.2 inv)

/-- Accumulation in s32 (R158, R159): block by block, clamped; a clamp sets SAT, and INX is never set. -/
def accumS32 (sexp : Int) (c : Int) (ks : List Int) : Int × Nat :=
  (go ks c 0)
where go (ks : List Int) (c : Int) (st : Nat) : Int × Nat :=
  match ks with
  | [] => (c, st)
  | b :: r =>
    let b' : Int := if 0 ≤ sexp then b * 2 ^ sexp.toNat else b / (2 ^ (-sexp).toNat : Nat)
    let v := c + b'
    let w := satI v (minOf .s32) (maxOf .s32)
    go r w (if w = v then st else stOr st stSAT)

end Sys2Proof.Machine
end

