-- ==== Sys2Proof/Machine/Tab.lean ====
section
/-! DEFINITION. Machine/Tab.lean: sparse tables. A table is a list of numbered entries; a number that is not listed
reads as a default that the reader of the table names. Writing a number replaces its entry. -/

namespace Sys2Proof.Machine

/-- A sparse table. -/
abbrev Tab (α : Type) := List (Nat × α)

/-- Entry `k`, or `d` where none is listed. -/
def Tab.get {α : Type} (t : Tab α) (k : Nat) (d : α) : α :=
  match t with
  | [] => d
  | (j, x) :: r => if j = k then x else Tab.get r k d

/-- Entry `k` set to `x`. -/
def Tab.set {α : Type} (t : Tab α) (k : Nat) (x : α) : Tab α :=
  match t with
  | [] => [(k, x)]
  | (j, y) :: r => if j = k then (k, x) :: r else (j, y) :: Tab.set r k x

/-- Entry `k` removed, so that it reads as the default again. -/
def Tab.del {α : Type} (t : Tab α) (k : Nat) : Tab α := t.filter (fun p => p.1 != k)

/-- Entry `k` is listed. -/
def Tab.has {α : Type} (t : Tab α) (k : Nat) : Bool := t.any (fun p => p.1 == k)

/-- Element `k` of a list of words; 0 beyond its end. -/
def wordAt (l : List Entry) (k : Nat) : Nat := (l.getD k 0).toNat

end Sys2Proof.Machine
end

