-- ==== Sys2Proof/Machine/State.lean ====
section
/-! DEFINITION. Machine/State.lean: the state of one package: its spires and their contexts, towers, DRAM and near-bank
units, optical domain, host ports and configuration. INVENTORY.md, heading State, names the rule of spec/ behind every
field. Everything is plain data. -/

namespace Sys2Proof.Machine

/-- Why the machine stops. -/
inductive Fault
  /-- An instruction fetch met a page map entry whose frame number no HBM stack holds (R90 numbers frames 0 to
  2^23 - 1). Raised by `step` through the fetch; PMU refuses such an entry, so no run reaches it. Safe. -/
  | noSuchFrame (frame : Nat)
deriving DecidableEq, Repr

/-- Why an instruction has no meaning. -/
inductive Refusal
  /-- The instruction is not modelled yet; raised by the arms of `exec` only. Safe. -/
  | notModelled (mnemonic : String)
deriving DecidableEq, Repr

-- Contexts

/-- Context states, Table 02-5. -/
inductive CState
  | free | ready | wait | stall | halt | frozen | saving
deriving DecidableEq, Repr

/-- Where a register result goes (R177). -/
inductive Dest
  | s (q : Nat)
  | v (q : Nat)
  | m (k : Nat)
deriving DecidableEq, Repr

/-- A register result: a value, or tile-store bytes still to be sampled in sc t + 1 (R118). A sample lists the physical
byte offset of each result byte, none for a byte that is 0; `se` gives the sign extension of a scalar (R203). -/
inductive RVal
  | s (x : Entry)
  | v (x : Vec)
  | m (x : Mask)
  | sampS (bytes : List (Option Nat)) (se : Bool)
  | sampV (bytes : List (Option Nat))
deriving DecidableEq, Repr

/-- A fixed-latency result in flight (R177): destination, value, remaining delay, issue order (number of its bundle, and slot),
bundle offset, and the status bits that are ORed into FST when it lands (R207, R235). -/
structure Flight where
  dest : Dest
  val : RVal
  delay : Nat
  num : Nat
  slot : Nat
  off : Nat
  fst : Nat
deriving DecidableEq, Repr

/-- A deferred result (R178): the value once available, the sc it must still wait, its bundle's number, the request it belongs to. -/
structure Deferred where
  dest : Dest
  val : Option RVal
  least : Nat
  num : Nat
  slot : Nat
  off : Nat
  tag : Nat
deriving DecidableEq, Repr

/-- What a delayed tile-store event does (R118, R295 to R297): bytes at physical offsets with the page tags they set,
a barrier expectation, or an arrival of this context in its own spire. -/
inductive TsAct
  | bytes (b : List (Nat × Byte)) (tags : List (Nat × Nat))
  | expect (off n : Nat)
  | arrive (off n : Nat)
deriving DecidableEq, Repr

/-- A tile-store event in flight: the sc it must still wait, its slot, the number of its bundle, its task and that task's allocation base. -/
structure TsWrite where
  act : TsAct
  delay : Nat
  slot : Nat
  num : Nat
  tid : Nat
  tsb : Nat
deriving DecidableEq, Repr

/-- A condition of WAIT (R57, R298, R300, R314, R315). -/
inductive WaitC
  | barrier (off : Nat) (ph : Bool) (boff : Nat)
  | ring (off u boff : Nat)
  | counter (h : Entry) (ix tgt : Nat)
  | version (h : Entry) (v : Nat)
  | closure (h : Entry)
  | publish (h : Entry)
  | yield (others : List Nat)
  | remote (tag : Nat)
deriving DecidableEq, Repr

/-- Causes of STALL (R186): a queue that a deferred result will fill, busy tiles and latches as (is a latch, absolute
number), the engine's queue, a copy queue, `n` results that have no room in flight, the launch queue, a borrow, a fork
insertion, an `mbar`, the miss table, a tile store bank that wakes, an acquire that has not been performed (R131), an
instruction line on its way (Table 06-7), an object table entry asked of another package (R97, R271). -/
inductive StallC
  | deferredQueue (vec : Bool) (q : Nat)
  | busy (l : List (Bool × Nat))
  | engineFull
  | copyFull (eng : Bool)
  | flights (n : Nat)
  | launchFull
  | borrow
  | insertion
  | mbar
  | missTable
  | wake (bank : Nat)
  | acquire
  | line
  | entry (h : Entry)
deriving DecidableEq, Repr

/-- An entry of the return stack (R221, R61): a return offset, or the inline frame of a fork. -/
inductive RFrame
  | call (ret : Nat)
  | fork (tc : List Nat) (wgt : Nat) (cls : Entry) (cver ret : Nat)
deriving DecidableEq, Repr

/-- System registers of a context, Tables 05-5 and 06-6. -/
structure SysRegs where
  nvr : Nat
  lwc : Bool
  xlh : Entry
  wgt : Nat
  cls : Entry
  ocls : Entry
  owgt : Nat
  opv : Bool
  sid : Nat
  pri : Nat
  ftp : Nat
  seed : Nat
  sctr : Nat
  rmd : Nat
  fst : Nat
  nxe : Nat
  tsw : Nat
  rol : Nat
  cvr : Nat
deriving DecidableEq, Repr

/-- The task's resources and code: allocation bases and sizes (R110, R113), launch slot, code object and selected
translation (R200), coverage level, the captured LCK bit (R431), task number of the model, placement order (R72). -/
structure TaskRes where
  tsb : Nat
  tsp : Nat
  accB : Nat
  accN : Nat
  latB : Nat
  latN : Nat
  ltwr : Nat
  lslot : Nat
  codeh : Entry
  noff : Nat
  nlen : Nat
  tsvn : Nat
  cov : Nat
  lck : Bool
  tid : Nat
  order : Nat
deriving DecidableEq, Repr

/-- A loop under way (R188): offset of the loop bundle's successor, body length, bundles issued in this pass, inline
depth at which it started. -/
structure LoopB where
  start : Nat
  len : Nat
  issued : Nat
  depth : Nat
deriving DecidableEq, Repr

/-- A pin (R105): handle, version, the return-stack depth at which it was made. -/
structure Pin where
  h : Entry
  v : Nat
  depth : Nat
deriving DecidableEq, Repr

/-- A weight split waiting for its borrow (R67): the share asked for, whether the home has answered, whether it refused. -/
structure Split where
  req : Nat
  answered : Bool
  refused : Bool
deriving DecidableEq, Repr

/-- A trap record, Table 19-1; `detail` lists (offset, bytes, value). `tid` is the model's number of the task, by which
PEND counts (R411, R419). -/
structure TrapRec where
  tcls : Nat
  tsub : Nat
  slot : Nat
  deff : Bool
  sec : Bool
  frz : Bool
  ctx : Nat
  eff : Bool
  spn : Nat
  pkn : Nat
  spne : Bool
  boff : Nat
  roff : Nat
  codeh : Entry
  cver : Nat
  snap : Nat
  ltwr : Nat
  lslot : Nat
  obj : Entry
  ver : Nat
  seq : Nat
  cyc : Nat
  tc1 : Nat
  tc0 : Nat
  detail : List (Nat × Nat × Nat)
  tid : Nat
deriving DecidableEq, Repr

/-- What a trap says of its cause: class, subclass, slot, object, version, detail. -/
structure Cause where
  cls : Nat
  sub : Nat
  slot : Nat
  obj : Entry
  ver : Nat
  detail : List (Nat × Nat × Nat)
deriving DecidableEq, Repr

/-- A deferred fault found for a context and not yet taken (R403): its cause, bundle offset and task. -/
structure Pending where
  cause : Cause
  boff : Nat
  tid : Nat
deriving DecidableEq, Repr

/-- One hardware context (R52, R175). `qbad` lists the poisoned queue entries (R441): vector file or scalar, queue, place from the
head; `fst0` is FST before the results of this sc landed (R227); `lastNum` is the number of the bundle it issued
last (R56); `acqs` lists the acquires that have not been performed (R131). -/
structure Ctx where
  st : CState
  sys : SysRegs
  res : TaskRes
  sq : Tab (List Entry)
  vq : Tab (List Vec)
  qbad : List (Bool × Nat × Nat)
  masks : Tab Mask
  lc : Nat
  lb : Nat
  loop : Option LoopB
  pc : Nat
  rstk : List RFrame
  tc : List Nat
  ftab : Tab Entry
  pins : List Pin
  drafts : List (Entry × Nat)
  inflight : List Flight
  deferred : List Deferred
  tsw : List TsWrite
  syswr : List (Nat × Entry)
  wait : Option WaitC
  stall : Option StallC
  split : Option Split
  dtrap : List Pending
  nstep : Nat
  stepping : Option Nat
  halting : Bool
  pflt : Bool
  prev : CState
  fst0 : Nat
  lastNum : Nat
  acqs : List Nat
deriving DecidableEq, Repr

-- Caches

/-- One line of a cache (R96): space, handle, version and number of the 1,024 bytes in the version, the way it stands in, the
sectors that hold the version's bytes, the bytes, those written to a draft and not yet written back (R98), the poisoned words among
them (R441), and what pins it: operations of the engine (R264), or launches (R109). -/
structure CLine where
  sid : Nat
  h : Entry
  ver : Nat
  ix : Nat
  way : Nat
  valid : List Nat
  data : Tab Byte
  dirty : List Nat
  bad : List Nat
  pins : List Nat
deriving DecidableEq, Repr

-- The matrix engine

/-- An M-class operation in the engine (R187, R254): the instruction and everything captured at its issue: context and
task, bundle offset, issue sc, absolute tile `d` and latch `l`, offset or queue operand `a` (of a fetch: the format code of its data), index word `b`, handle `h` with its
captured version, format entry, NVR, TSW, rounding, SEED, SCTR, NXE, XLH, the barrier, the vector operand, the allocation
tile coordinate, where the native code begins (`noff`, Table 05-10), and the elements that its fetch has brought (R264). `left` counts the sc of occupancy left once it has begun; `arrived` says that its objects are checked and their data is here; `num` is its
number of issue. -/
structure MOp where
  ins : Instr
  c : Nat
  tid : Nat
  sid : Nat
  off : Nat
  sc : Nat
  d : Nat
  l : Nat
  a : Nat
  b : Entry
  h : Entry
  ver : Nat
  fe : Entry
  nvr : Nat
  swz : Nat
  rm : Rm
  seed : Nat
  sctr : Nat
  nxe : Nat
  xlh : Entry
  bar : Option Nat
  vec : Vec
  tsb : Nat
  tsp : Nat
  lck : Bool
  tc0 : Nat
  tc1 : Nat
  left : Option Nat
  arrived : Bool
  num : Nat
  noff : Nat
  data : Option (List (Nat × Bool))
deriving DecidableEq, Repr

/-- A write of the engine to the tile store, which lands at the end of this sc (R112, R118, R257): allocation base, mode, relative offset,
(offset, byte) pairs, and the offsets whose words it poisons (R441). -/
structure EngineWrite where
  tsb : Nat
  swz : Nat
  off : Nat
  bytes : List (Nat × Byte)
  bad : List Nat
deriving DecidableEq, Repr

/-- A set busy bit (R187): tile or latch, the operation's context and task, and the sc left once the occupancy has ended. -/
structure Busy where
  latch : Bool
  n : Nat
  c : Nat
  tid : Nat
  left : Option Nat
deriving DecidableEq, Repr

/-- The stores of a spire (R15, R110, R113, R266): tile store bytes, layout tags and touched flags of its 256 pages,
accumulator words and status, latch bytes and scale planes, and the poisoned words of each (R441). -/
structure SpireMem where
  ts : Tab Byte
  tag : Tab Nat
  touched : Tab Bool
  acc : Tab (BitVec 32)
  accSt : Tab Nat
  lat : Tab Byte
  latSc : Tab Byte
  poison : List (Nat × Nat)
  phaseOps : Tab (List Nat)
deriving DecidableEq, Repr

/-- A task descriptor, Table 02-6; `pdet` keeps the poison detail that a POIS start reports (Table 20-1), `rol` the role of a
launched task (R45). -/
structure Desc where
  cver : Nat
  entry : Nat
  clsh : Entry
  sreach : Nat
  pois : Bool
  ltwr : Nat
  lslot : Nat
  wgt : Nat
  tc : List Nat
  args : List Entry
  pdet : Nat
  rol : Nat
deriving DecidableEq, Repr

/-- A return accumulator (R69): closure, sum, and sc since it became non-zero; the list is kept most recent first. -/
structure RAcc where
  h : Entry
  sum : Nat
  since : Nat
deriving DecidableEq, Repr

/-- A request at an HRU (R19, R86): the instruction, its context, and the operand words sampled at issue. -/
structure Req where
  ins : Instr
  sp : Nat
  c : Nat
  tid : Nat
  sid : Nat
  off : Nat
  slot : Nat
  scope : Nat
  a : Entry
  b : Entry
  eidx : Nat
  words : List Entry
  tag : Nat
deriving DecidableEq, Repr

/-- An arrival on its way to a barrier (R123): the receiver's spire, task, allocation base, offset, bytes, operation, and whether the
multicast network brings it (R118). -/
structure Arr where
  sp : Nat
  tid : Nat
  tsb : Nat
  off : Nat
  n : Nat
  op : Nat
  mc : Bool
deriving DecidableEq, Repr

/-- One spire. `gated`, `waking` and `failed` are tile store banks (R34, R35, R464); `waking` pairs a bank with the
sc it has taken; `linger` lists what retired tasks still have allocated (R277); `out` holds the requests on their way
to the tower; `ctlRes` is RES of each context's control register (R411); `drain` holds the engine's tile-store writes of this sc, `barDone` the
barriers that an arrival or an expectation has met in this sc (R123); `l1` and `icache` are the lines of its L1 and instruction cache, the
one used last first (R96); `pause` the sc that its thief has spent on the present steal attempt (R60). -/
structure Spire where
  ctxs : Tab Ctx
  last : Nat
  cyc : Nat
  mem : SpireMem
  engine : List MOp
  busy : List Busy
  deque : List Desc
  racc : List RAcc
  loopOwner : Option Nat
  linger : List TaskRes
  gated : List Nat
  waking : List (Nat × Nat)
  failed : List Nat
  held : List TrapRec
  chkn : Nat
  stopped : Bool
  victim : Nat
  restart : Option Nat
  out : List Req
  arrivals : List Arr
  ctlRes : Tab Nat
  drain : List EngineWrite
  barDone : List Nat
  l1 : List CLine
  icache : List CLine
  pause : Nat
deriving DecidableEq, Repr

-- Objects

/-- A subscription (R316): the record's words and the subscriber's package and spire with the absolute barrier offset. -/
structure Sub where
  th : Entry
  tk : Nat
  bytes : Nat
  tix : Nat
  pk : Nat
  sp : Nat
deriving DecidableEq, Repr

/-- One object of the package's table slice: the 16 words of its OTE (Table 03-2), the page map of each version it
holds (Table 03-7), pin counts of retained versions, the rights list that RLST names, subscriptions; `closing` numbers the
closing instant of a publish (R103), `publisher` the request that publishes, `joined` the other packages whose contexts have joined the draft and
`await` those of them whose writes the publish still awaits, `prims` the primary backing objects whose versions follow (R93), `taken` the
tower from whose pool each frame of the draft came (R102, R104). -/
structure Obj where
  w : List Entry
  maps : Tab (Tab Entry)
  retained : Tab Nat
  rights : List (Nat × Nat)
  subs : List Sub
  closing : Option Nat
  publisher : Option Req
  joined : List Nat
  await : List Nat
  prims : List Entry
  taken : List (Nat × Nat)
deriving DecidableEq, Repr

-- Requests and asynchronous operations

/-- One element of a tile, or the scale byte of block c of row r. -/
structure Cell where
  r : Nat
  c : Nat
  scale : Bool
deriving DecidableEq, Repr

/-- An asynchronous operation under way: a tile copy (R276), with its descriptor, operands and the commits
made; `plan` holds the cells of each commit and `list` the index list, both as they stood when it began (R119, R290); `vals` the source values
that a multicast has read for a commit (R288); `done` numbers the commits made; `recv` lists the receivers of a multicast as (spire, task, allocation base, commits made), `buf` the source bytes
that other packages have sent (handle, offset, byte). -/
structure AOp where
  id : Nat
  r : Req
  tsb : Nat
  tsp : Nat
  lck : Bool
  srcVer : Nat
  dstVer : Nat
  done : List Nat
  bytes : Nat
  failing : List Nat
  recv : List (Nat × Nat × Nat × Nat)
  buf : List (Entry × Nat × Byte)
  halted : Bool
  list : List Nat
  plan : List (List Cell)
  vals : List (Nat × List (Cell × Nat × Bool))
deriving DecidableEq, Repr

/-- A continuation held in a home HRU's pool (R127, R311). -/
structure Cont where
  ix : Nat
  d : Desc
  join : Nat
  sp : Nat
  nexts : List (Entry × Nat)
deriving DecidableEq, Repr

/-- A draft homed on another package that its home has closed (R103): the number of the closing instant here, the home's request, whether
it has been answered. -/
structure Closing where
  num : Nat
  r : Req
  answered : Bool
deriving DecidableEq, Repr

/-- The copy of a shared page that another package holds into a frame of the draft (R102): its number, object, draft version, page, tower, frame,
and the bytes that have come. -/
structure Pull where
  id : Nat
  h : Entry
  ver : Nat
  page : Nat
  t : Nat
  frame : Nat
  buf : List (Nat × Byte)
deriving DecidableEq, Repr

-- Launches

/-- A launch that an arbiter has accepted: its record (Table 02-1) and what was fixed at queue time; `trans`, `bor` and `fmt` while
a translation, a borrow or its format table is awaited, `ft` the entries of that table (R39), `due` the order in which its last dependence came to hold
(R47), `who` the task that queued it (spire, context, task, bundle offset), `home` the tower that queued it, `rech` the record object, `id` the model's
number. -/
structure Launch where
  id : Nat
  rech : Entry
  words : List Entry
  sid : Nat
  wgt : Nat
  depC : Entry
  depIx : Nat
  depTgt : Nat
  noff : Nat
  nlen : Nat
  tsvn : Nat
  entry : Nat
  trans : Bool
  lwci : Bool
  bor : Bool
  pkgWide : Bool
  home : Nat
  dbg : Bool
  fmt : Bool
  ft : List Entry
  due : Option Nat
  who : Option (Nat × Nat × Nat × Nat)
deriving DecidableEq, Repr

/-- A saved task (R417): the context, and its stores relative to its allocation; `stopped` when the arbiter has stopped
restoring it (R420), `tried` the spires that it did not match (R421). The header stands in the save area itself (DESIGN CHOICE, log 29). -/
structure SaveImg where
  valid : Bool
  stopped : Bool
  tried : List Nat
  ctx : Ctx
  mem : SpireMem
deriving DecidableEq, Repr

/-- An active launch slot (R48, R50, R422): deficit, number of its next descriptor, tasks created and not retired, whether all are
created, PREOFF of its control register, saved tasks by save slot, the spires of the instance chosen for its descriptors
(R43), release tables bound to it. -/
structure Slot where
  l : Launch
  deficit : Nat
  nextGang : Nat
  live : Nat
  placedAll : Bool
  preoff : Bool
  imgs : Tab SaveImg
  holder : List Nat
  tables : Nat
deriving DecidableEq, Repr

/-- A push that waits for room in its deque (R64). -/
structure HeldPush where
  sp : Nat
  d : Desc
deriving DecidableEq, Repr

/-- The launch arbiter of a tower; `lscRes` holds RES of each launch slot's control register (R422). -/
structure Arbiter where
  queues : Tab (List Launch)
  pend : List Launch
  slots : Tab (Option Slot)
  holding : List HeldPush
  upstream : List HeldPush
  copies : List Launch
  lscRes : Tab Nat
deriving DecidableEq, Repr

/-- The HRU of a tower: registers of Tables 03-9 and 20-2, command status, pools, the packages whose acknowledgement the TINV
under way awaits (Table 03-8), queued and held requests, cached page translations. -/
structure Hru where
  otb : Nat
  otlog : Nat
  cmdb : Nat
  head : Nat
  tail : Nat
  lckb : Nat
  lcke : Bool
  status : Tab Nat
  pool : List Nat
  cpool : List Nat
  cnext : Nat
  conts : List Cont
  acks : List Nat
  q : List Req
  miss : List (Entry × Nat × Nat × Req)
  tlb : List (Entry × Nat × Nat × Entry)
  held : List TrapRec
deriving DecidableEq, Repr

/-- The trap queue of a tower, Tables 19-4, 20-3 and 21-5; `irqs` counts the interrupts that it has made of the keep core named by TQIK (R409,
R458, R462). -/
structure TrapQ where
  tqb : Nat
  tqlog : Nat
  tail : Nat
  head : Nat
  tqik : Nat
  seq : Nat
  ring : Tab TrapRec
  cecd : Nat
  cecs : Nat
  kmax : Nat
  tmax : Nat
  pev : Nat
  irqs : Nat
deriving DecidableEq, Repr

/-- One tower: arbiter, HRU, trap queue, relay buffer (arrival slot and flit), gated L2 ways of its domes as
(dome, slice, way), those that are waking with the sc taken (R35), the lines of each L2 slice (4 * dome + slice), the one used last first (R18, R96),
swallow count and operating point of each dome (R33). -/
structure Tower where
  arb : Arbiter
  hru : Hru
  tq : TrapQ
  relay : List (Nat × Flit)
  l2gated : List (Nat × Nat × Nat)
  l2waking : List (Nat × Nat × Nat × Nat)
  l2 : Tab (List CLine)
  swallow : Tab Nat
  point : Tab Nat
deriving DecidableEq, Repr

-- Near-bank units and row operations

/-- The state of an NBU run or request (R326, R327); `arr` numbers its arrival at the unit (R343). -/
structure NReq where
  r : Req
  h : Entry
  ver : Nat
  draft : Bool
  row : Nat
  image : List Entry
  tsb : Nat
  arr : Nat
deriving DecidableEq, Repr

/-- One NBU, Table 12-3, with its request queue and what it performs. -/
structure Nbu where
  a : Tab (BitVec 32)
  ms : Tab Entry
  mpc : Nat
  rc : Nat
  lct : Nat
  scl : BitVec 32
  p : List Entry
  cur : Option NReq
  queue : List NReq
  suspended : Bool
deriving DecidableEq, Repr

/-- A row operation under way (R324, R329): row number, step of the row, path class, reserved rows k0 to k2 and d0, source
bytes that other packages have sent. -/
structure RowRun where
  id : Nat
  r : Req
  tsb : Nat
  srcVers : List Nat
  dstVer : Nat
  row : Nat
  step : Nat
  cls : Option Nat
  k0 : List Byte
  k1 : List Byte
  k2 : List Byte
  d0 : List Byte
  na : Nat
  nb : Nat
  nf : Nat
  np : Bool
  fin : Bool
  buf : List (Entry × Nat × Byte)
deriving DecidableEq, Repr

/-- Data of a collective that another member has sent (R362), held until its step is reached: member set, number of the
match, sender, segment, step (7: the sender has abandoned it), the member whose contribution it is (256: combined), how many parts the
exchange has, offset in the segment, the sender's digest, the members known to have REN = 1. -/
structure CollPart where
  memb : Nat
  ix : Nat
  peer : Nat
  seg : Nat
  step : Nat
  origin : Nat
  total : Nat
  off : Nat
  digest : Nat
  known : Nat
  data : List Byte
deriving DecidableEq, Repr

/-- One segment of a collective (R362): steps done, the earliest time of the next step, peers that this step's data has gone to, the
partial by contributing member, members known to have REN = 1, the start of the slot in which its last flit was sent (none before step 1
begins). -/
structure CollSeg where
  seg : Nat
  step : Nat
  after : Nat
  sent : List Nat
  part : List (Nat × List Byte)
  known : Nat
  last : Option Nat
deriving DecidableEq, Repr

/-- A tracked release message (R320, R360): member set, number of the match, issuer, table, step, closure, weight. -/
structure CollRel where
  memb : Nat
  ix : Nat
  peer : Nat
  rtid : Nat
  rstep : Nat
  h : Entry
  w : Nat
deriving DecidableEq, Repr

/-- A release step that waits to be pushed: the collective's number here, table, step, closure, weight, and whether a borrow for it is under way. -/
structure RelPush where
  run : Nat
  rtid : Nat
  rstep : Nat
  h : Entry
  w : Nat
  asked : Bool
deriving DecidableEq, Repr

/-- A collective under way (R319, R362): request, allocation base, share and closure, member set and number of the match,
phase (0 reads the source, 1 exchanges, 2 commits, 3 releases, 4 ends), time of issue, captured versions, source bytes of other packages,
segments, release pushes not yet made. -/
structure CollRun where
  id : Nat
  r : Req
  tsb : Nat
  share : Nat
  cls : Entry
  memb : Nat
  ix : Nat
  phase : Nat
  issuedNs : Nat
  srcVer : Nat
  dstVer : Nat
  buf : List (Entry × Nat × Byte)
  segs : List CollSeg
  rels : Nat
deriving DecidableEq, Repr

/-- A release table (R321) and the launch slot it is bound to. -/
structure RelTab where
  ltwr : Nat
  lslot : Nat
  entries : List (Nat × Nat × Desc)
deriving DecidableEq, Repr

-- The optical domain

/-- Lane registers, Table 21-2; the counters UCW and TAGF when the window began, CTR toward each peer, since when the lane is out,
the peer whose retraining it faces (R469), whether a retraining failed, whether one is due. -/
structure Lane where
  bec : Nat
  wfc : Nat
  ucw : Nat
  tagf : Nat
  ucw0 : Nat
  tagf0 : Nat
  lst : Nat
  rtc : Nat
  lwin : Nat
  rte : Bool
  ldis : Bool
  thr : Nat
  ctr : Tab Nat
  outSince : Option Nat
  facing : Option Nat
  failed : Bool
  wantTrain : Bool
deriving DecidableEq, Repr

/-- What the package keeps about a peer (R356, R365, R451). -/
structure Peer where
  credit : Tab Nat
  owed : Tab Nat
  epoch : Nat
  oldKey : Bool
  newOn : List Nat
  epochNs : Nat
  unreachable : Bool
  heard : Option Nat
deriving DecidableEq, Repr

/-- A stream at its destination (R359): base and applied sequences; segments that have arrived of each commit as (sequence, segment,
flit); what was answered to each sequence. -/
structure Stream where
  key : Entry × Nat × Nat
  base : Nat
  applied : List Nat
  segs : List (Nat × Nat × Flit)
  results : List (Nat × Flit)
deriving DecidableEq, Repr

/-- An item outstanding at its sender (R450): the flits that carry it, its peer, the times of its last and first send, sends,
the operation it serves (asynchronous operation, request, bytes), and the segments of its answer. -/
structure Item where
  flits : List Flit
  peer : Nat
  rtag : Nat
  sseq : Nat
  sentNs : Nat
  firstNs : Nat
  sends : Nat
  op : Option Nat
  req : Option Req
  bytes : Nat
  got : List Flit
deriving DecidableEq, Repr

/-- The fabric interface and the domain time base (R349) in ns with eighths of a ns: the count does not wrap here, every word that shows it takes it modulo 2^64; the number of the slot that has started, and the
flit times of it that each peer's lanes have used; the last offset measured from the time master; the next PSEQ of each path as (peer,
intermediate, number), with intermediate 256 for the direct path. -/
structure Fabric where
  ns : Nat
  frac : Nat
  slotAt : Nat
  used : List (Nat × Nat)
  aligned : Bool
  unalignedAt : Nat
  master : Nat
  timeSeen : Nat
  lastOff : Entry
  lanes : Tab Lane
  peers : Tab Peer
  pseqTx : List (Nat × Nat × Nat)
  pseqRx : List (Nat × Nat × Nat)
  reorder : List Flit
  outq : List Flit
  sent : List Flit
  streams : List Stream
  sseq : List (Entry × Nat × Nat)
  items : List Item
  rtag : Nat
  dark : Bool
deriving DecidableEq, Repr

-- Host ports and configuration

/-- A control session (R368); `seq` is the least SEQ that it still accepts. -/
structure Session where
  portB : Bool
  sess : Nat
  sid : Nat
  seq : Nat
deriving DecidableEq, Repr

/-- A semaphore, Table 14-2. -/
structure Sem where
  held : Bool
  own : Nat
  tie : Bool
  kcn : Nat
  cnt : Nat
deriving DecidableEq, Repr

/-- A host port, Table 21-3; `downNs` is the time at which its link went down (R458). -/
structure Port where
  lnk : Bool
  pfl : Bool
  frc : Nat
  dfr : Nat
  downNs : Nat
deriving DecidableEq, Repr

/-- A reply or completion that a port sends: port, session, sequence, operation, status, words. -/
structure Reply where
  portB : Bool
  sess : Nat
  seq : Nat
  op : Nat
  sts : Nat
  words : List Nat
deriving DecidableEq, Repr

/-- What the fuses of a part hold (R27, R375 to R378; Table 06-6). -/
structure Fuses where
  spen : Nat
  grade : Nat
  stepping : Nat
  dhs : Nat
  svn : Nat
deriving DecidableEq, Repr

/-- The configuration block and the trust state (Tables 01-2 to 01-4, 14-2, 14-6, 21-3, 21-4); `kcErrors` lists the access errors reported
to keep cores, as (core, address) (R27); `launching` the control messages whose launch has waited for its closure's home or for a page, and may now go on: message,
space, and 0 to go on, 1 with the closure opened (R68), 2 refused. -/
structure Config where
  fuses : Fuses
  pkn : Nat
  pknSet : Bool
  tdmode : Nat
  bsts : Nat
  fidx : Nat
  fcause : Nat
  ldt : Nat
  pres : List Bool
  grants : List (Nat × Nat)
  meas : Tab Nat
  fsvn : Nat
  ports : Tab Port
  sems : Tab Sem
  sessions : List Session
  replies : List Reply
  received : List (Bool × Nat × Nat)
  thermal : Bool
  accessErrors : Nat
  kcErrors : List (Nat × Nat)
  launching : List (CpMsg × Nat × Nat)
deriving DecidableEq, Repr

-- The bundle under issue (the model's own)

/-- A decoded slot of the bundle under issue. -/
structure SlotOp where
  slot : Nat
  word : Nat
  ins : Instr
deriving DecidableEq, Repr

/-- The bundle under issue (R168): spire, context, bundle offset, header fields, the slot being executed with its lend
bits, whether it has read a poisoned entry, the slots left, what earlier slots decided (the next pc, a transfer target, an inline task's
entry), the spire as it stood before the bundle, to which a trap or a stall at issue returns it (R403), the bundle's number,
and whether the bundle has stalled. -/
structure Issue where
  active : Bool
  sp : Nat
  c : Nat
  off : Nat
  headed : Bool
  hword : Nat
  scope : Nat
  dup : Bool
  slot : Nat
  word : Nat
  lend : Nat
  bad : Bool
  todo : List SlotOp
  next : Nat
  sto : Nat
  sctr0 : Nat
  target : Option Nat
  pre : Option Spire
  num : Nat
  stalled : Bool
  inl : Option Nat
deriving DecidableEq, Repr

/-- THE MACHINE: one package. `mem` holds the DRAM bytes: HBM frame f at f * 0x1_0000, LPDDR frame g at
2^40 + g * 0x1_0000 (R90, R92), `objs` the object table by the addresses of its entries (R80), in canonical form. `rowBusy` lists the rows at their banks in the order of their arrival, as (pseudo-channel, bank,
operation, number of the arrival): the first of a bank holds it (R336); `access` the ordinary accesses that wait there (R337). `pulse` is the place of the coming reference pulse of the
spire clock among 64 (R33), `inserts` the tail inserts of this sc into the deques of other spires, in ascending source spire (R59). `agenda`, `cur`, `iss`, `nbuTurn`, `fresh`, `free` are the
model's own (INVENTORY.md, State). -/
structure State where
  mem : List Host.Cell
  poison : List Nat
  objs : Tab Obj
  spires : Tab Spire
  towers : Tab Tower
  nbus : Tab Nbu
  aops : List AOp
  closings : List Closing
  pulls : List Pull
  rows : List RowRun
  colls : List CollRun
  collIx : List (Nat × Nat)
  relTabs : Tab RelTab
  relDone : List Nat
  collIn : List CollPart
  collRel : List CollRel
  relq : List RelPush
  wret : List (Entry × Nat)
  borrows : List (Nat × Nat)
  fab : Fabric
  cfg : Config
  rowBusy : List (Nat × Nat × Nat × Nat)
  access : List (Nat × Nat)
  agenda : List Instr
  cur : Nat
  iss : Issue
  nbuCur : Nat
  nbuTurn : List Nat
  pulse : Nat
  inserts : List (Nat × Desc)
  fresh : Nat
  free : Nat
deriving DecidableEq, Repr

-- Reset

/-- System registers of a context that holds no task (DESIGN CHOICE, log 3). -/
def SysRegs.reset : SysRegs where
  nvr := 7
  lwc := false
  xlh := 0
  wgt := 0
  cls := 0
  ocls := 0
  owgt := 0
  opv := false
  sid := 0
  pri := 0
  ftp := 1
  seed := 0
  sctr := 0
  rmd := 0
  fst := 0
  nxe := 0
  tsw := 0
  rol := 0
  cvr := 0

/-- No resources (DESIGN CHOICE, log 3). -/
def TaskRes.reset : TaskRes where
  tsb := 0
  tsp := 0
  accB := 0
  accN := 0
  latB := 0
  latN := 0
  ltwr := 0
  lslot := 0
  codeh := 0
  noff := 0
  nlen := 0
  tsvn := 0
  cov := 0
  lck := false
  tid := 0
  order := 0

/-- A FREE context (R52; STATE resets to 0x00, R411) (DESIGN CHOICE, log 3). -/
def Ctx.reset : Ctx where
  st := .free
  sys := .reset
  res := .reset
  sq := []
  vq := []
  qbad := []
  masks := []
  lc := 0
  lb := 0
  loop := none
  pc := 0
  rstk := []
  tc := [0, 0, 0, 0, 0, 0, 0, 0]
  ftab := []
  pins := []
  drafts := []
  inflight := []
  deferred := []
  tsw := []
  syswr := []
  wait := none
  stall := none
  split := none
  dtrap := []
  nstep := 0
  stepping := none
  halting := false
  pflt := false
  prev := .free
  fst0 := 0
  lastNum := 0
  acqs := []

/-- Stores after step 1 of bring-up: zero, untouched, clear status (R374, R432). -/
def SpireMem.reset : SpireMem where
  ts := []
  tag := []
  touched := []
  acc := []
  accSt := []
  lat := []
  latSc := []
  poison := []
  phaseOps := []

/-- A spire with eight FREE contexts. -/
def Spire.reset : Spire where
  ctxs := []
  last := 7
  cyc := 0
  mem := .reset
  engine := []
  busy := []
  deque := []
  racc := []
  loopOwner := none
  linger := []
  gated := []
  waking := []
  failed := []
  held := []
  chkn := 0
  stopped := false
  victim := 0
  restart := none
  out := []
  arrivals := []
  ctlRes := []
  drain := []
  barDone := []
  l1 := []
  icache := []
  pause := 0

def Arbiter.reset : Arbiter where
  queues := []
  pend := []
  slots := []
  holding := []
  upstream := []
  copies := []
  lscRes := []

def Hru.reset : Hru where
  otb := 0
  otlog := 0
  cmdb := 0
  head := 0
  tail := 0
  lckb := 0
  lcke := false
  status := []
  pool := []
  cpool := []
  cnext := 1
  conts := []
  acks := []
  q := []
  miss := []
  tlb := []
  held := []

def TrapQ.reset : TrapQ where
  tqb := 0
  tqlog := 0
  tail := 0
  head := 0
  tqik := 0
  seq := 0
  ring := []
  cecd := 0
  cecs := 0
  kmax := 0
  tmax := 0
  pev := 0
  irqs := 0

def Tower.reset : Tower where
  arb := .reset
  hru := .reset
  tq := .reset
  relay := []
  l2gated := []
  l2waking := []
  l2 := []
  swallow := []
  point := []

/-- An NBU after bring-up: accumulators zero (R339) (DESIGN CHOICE, log 4). -/
def Nbu.reset : Nbu where
  a := []
  ms := []
  mpc := 0
  rc := 0
  lct := 0
  scl := 0
  p := [0, 0, 0, 0, 0, 0, 0, 0]
  cur := none
  queue := []
  suspended := false

/-- A lane after reset: dark, RTE 1, THR 0x0000_8638 (Table 21-2). -/
def Lane.reset : Lane where
  bec := 0
  wfc := 0
  ucw := 0
  tagf := 0
  ucw0 := 0
  tagf0 := 0
  lst := 4
  rtc := 0
  lwin := 0
  rte := true
  ldis := false
  thr := 0x8638
  ctr := []
  outSince := none
  facing := none
  failed := false
  wantTrain := false

/-- A peer at bring-up: 256 relay credits for each of its towers (R356). -/
def Peer.reset : Peer where
  credit := [(0, 256), (1, 256), (2, 256), (3, 256)]
  owed := []
  epoch := 0
  oldKey := false
  newOn := []
  epochNs := 0
  unreachable := false
  heard := none

def Fabric.reset : Fabric where
  ns := 0
  frac := 0
  slotAt := 0
  used := []
  aligned := false
  unalignedAt := 0
  master := 0
  timeSeen := 0
  lastOff := 0
  lanes := []
  peers := []
  pseqTx := []
  pseqRx := []
  reorder := []
  outq := []
  sent := []
  streams := []
  sseq := []
  items := []
  rtag := 0
  dark := true

def Sem.reset : Sem where
  held := false
  own := 0
  tie := false
  kcn := 0
  cnt := 0

def Port.reset : Port where
  lnk := false
  pfl := false
  frc := 0
  dfr := 0
  downNs := 0

/-- The fuses of the part the model describes: PAX7-128-L, all 128 spires enabled (DESIGN CHOICE, log 4). -/
def Fuses.reset : Fuses where
  spen := 2 ^ 128 - 1
  grade := 0x80
  stepping := 0
  dhs := 0
  svn := 0

def Config.reset : Config where
  fuses := .reset
  pkn := 0
  pknSet := false
  tdmode := 0
  bsts := 0
  fidx := 0
  fcause := 0
  ldt := 1000
  pres := []
  grants := []
  meas := []
  fsvn := 0
  ports := []
  sems := []
  sessions := []
  replies := []
  received := []
  thermal := false
  accessErrors := 0
  kcErrors := []
  launching := []

/-- No bundle under issue. -/
def Issue.reset : Issue where
  active := false
  sp := 0
  c := 0
  off := 0
  headed := false
  hword := 0
  scope := 0
  dup := false
  slot := 0
  word := 0
  lend := 0
  bad := false
  todo := []
  next := 0
  sto := 0
  sctr0 := 0
  target := none
  pre := none
  num := 0
  stalled := false
  inl := none

/-- The package right after reset: the values the spec states, and for the registers it states none for, the values
that INVENTORY.md and the assumption log name (logs 1 to 5) (DESIGN CHOICE, log 2). -/
def State.reset : State where
  mem := []
  poison := []
  objs := []
  spires := []
  towers := []
  nbus := []
  aops := []
  closings := []
  pulls := []
  rows := []
  colls := []
  collIx := []
  relTabs := []
  relDone := []
  collIn := []
  collRel := []
  relq := []
  wret := []
  borrows := []
  fab := .reset
  cfg := .reset
  rowBusy := []
  access := []
  agenda := []
  cur := 0
  iss := .reset
  nbuCur := 0
  nbuTurn := []
  pulse := 0
  inserts := []
  fresh := 1
  free := 0

end Sys2Proof.Machine
end

