-- ==== Sys2Proof/Machine/Ops.lean ====
section
/-! DEFINITION. Machine/Ops.lean: the named operations over memory, registers and records: canonical byte memories,
access to spires, contexts and towers, trap records and their queues (R400 to R410), TAKING AN EXCEPTION (R403) and
returning from one (R412), the reads and pushes of a bundle (R176 to R180), the end of a bundle. -/

namespace Sys2Proof.Machine

/-- What a meaning answers. -/
abbrev Out := Host.Outcome State Fault Refusal

-- Sparse cells: strictly rising keys, no entry that holds 0

/-- Cell `a`; 0 where none is listed (DESIGN CHOICE, log 2). -/
def cellGet {w : Nat} (m : List (Nat × BitVec w)) (a : Nat) : BitVec w :=
  match m with
  | [] => 0
  | (b, x) :: r => if b = a then x else cellGet r a

/-- Cell `a` set to `v`, in canonical form (DESIGN CHOICE, log 2). -/
def cellPut {w : Nat} (m : List (Nat × BitVec w)) (a : Nat) (v : BitVec w) : List (Nat × BitVec w) :=
  match m with
  | [] => if v = 0 then [] else [(a, v)]
  | (b, x) :: r =>
    if b < a then (b, x) :: cellPut r a v
    else if b = a then (if v = 0 then r else (a, v) :: r)
    else if v = 0 then (b, x) :: r else (a, v) :: (b, x) :: r

/-- Every key lies above `lo` and the keys rise. -/
def cellsFrom {w : Nat} (lo : Nat) : List (Nat × BitVec w) → Bool
  | [] => true
  | (b, x) :: r => decide (lo ≤ b) && x != 0 && cellsFrom (b + 1) r

/-- The canonical form of a sparse memory. -/
def Memory.wf {w : Nat} (m : List (Nat × BitVec w)) : Bool := cellsFrom 0 m

/-- Several cells written in order. -/
def cellsPut {w : Nat} (m : List (Nat × BitVec w)) (l : List (Nat × BitVec w)) : List (Nat × BitVec w) :=
  l.foldl (fun m p => cellPut m p.1 p.2) m

/-- Bytes from `a` up, as many as `n`, little endian (R4). -/
def readLE (m : List Host.Cell) (a : Nat) : Nat → Nat
  | 0 => 0
  | n + 1 => (cellGet m a).toNat + 256 * readLE m (a + 1) n

/-- Bytes of a number, least significant first. -/
def leBytes (v : Nat) : Nat → List Byte
  | 0 => []
  | n + 1 => BitVec.ofNat 8 v :: leBytes (v / 256) n

/-- The number that bytes spell, least significant first. -/
def ofBytes : List Byte → Nat
  | [] => 0
  | b :: r => b.toNat + 256 * ofBytes r

/-- `n` bytes of `v` written from `a` up. -/
def writeLE (m : List Host.Cell) (a v : Nat) : Nat → List Host.Cell
  | 0 => m
  | n + 1 => writeLE (cellPut m a (BitVec.ofNat 8 v)) (a + 1) (v / 256) n

-- Access to the parts of the state

def State.spire (s : State) (n : Nat) : Spire := Tab.get s.spires n .reset
def State.setSpire (s : State) (n : Nat) (x : Spire) : State := { s with spires := Tab.set s.spires n x }
def State.modSpire (s : State) (n : Nat) (f : Spire → Spire) : State := s.setSpire n (f (s.spire n))
def Spire.ctx (x : Spire) (c : Nat) : Ctx := Tab.get x.ctxs c .reset
def Spire.setCtx (x : Spire) (c : Nat) (y : Ctx) : Spire := { x with ctxs := Tab.set x.ctxs c y }
def State.ctx (s : State) (sp c : Nat) : Ctx := (s.spire sp).ctx c
def State.setCtx (s : State) (sp c : Nat) (y : Ctx) : State := s.setSpire sp ((s.spire sp).setCtx c y)
def State.modCtx (s : State) (sp c : Nat) (f : Ctx → Ctx) : State := s.setCtx sp c (f (s.ctx sp c))
def State.tower (s : State) (t : Nat) : Tower := Tab.get s.towers t .reset
def State.setTower (s : State) (t : Nat) (x : Tower) : State := { s with towers := Tab.set s.towers t x }
def State.modTower (s : State) (t : Nat) (f : Tower → Tower) : State := s.setTower t (f (s.tower t))
def State.hru (s : State) (t : Nat) : Hru := (s.tower t).hru
def State.modHru (s : State) (t : Nat) (f : Hru → Hru) : State := s.modTower t (fun x => { x with hru := f x.hru })
def State.arb (s : State) (t : Nat) : Arbiter := (s.tower t).arb
def State.modArb (s : State) (t : Nat) (f : Arbiter → Arbiter) : State := s.modTower t (fun x => { x with arb := f x.arb })
def State.nbu (s : State) (n : Nat) : Nbu := Tab.get s.nbus n .reset
def State.setNbu (s : State) (n : Nat) (x : Nbu) : State := { s with nbus := Tab.set s.nbus n x }
/-- The table slice stands in HBM at OTBASE, 128 bytes to an entry (R80); `objs` holds an entry under its address divided by 128. The four HRUs hold one
OTBASE (R114). -/
def State.otBase (s : State) : Nat := (s.hru 0).otb / 128
def State.obj (s : State) (onum : Nat) : Option Obj := (s.objs.find? (fun p => p.1 == s.otBase + onum)).map (·.2)
def State.setObj (s : State) (onum : Nat) (x : Obj) : State := { s with objs := Tab.set s.objs (s.otBase + onum) x }
/-- The current context: that of the bundle under issue. -/
def State.cx (s : State) : Ctx := s.ctx s.iss.sp s.iss.c
def State.setCx (s : State) (y : Ctx) : State := s.setCtx s.iss.sp s.iss.c y
def State.modCx (s : State) (f : Ctx → Ctx) : State := s.setCx (f s.cx)
/-- Spire n is enabled (R28). -/
def State.enabled (s : State) (n : Nat) : Bool := bit s.cfg.fuses.spen n
/-- Events that follow, after those already due. -/
def State.later (s : State) (es : List Instr) : State := { s with agenda := s.agenda ++ es }
/-- Events that come next. -/
def State.soon (s : State) (es : List Instr) : State := { s with agenda := es ++ s.agenda }
/-- Tower of a spire (R14). -/
def towerOf (sp : Nat) : Nat := sp / 32

-- Trap records and queues (R400 to R410)

/-- The queue is enabled: TQLOG holds 4 to 16 (Table 19-4). -/
def TrapQ.enabled (q : TrapQ) : Bool := decide (4 ≤ q.tqlog) && decide (q.tqlog ≤ 16)
/-- There is room: TAIL + 1 differs from HEAD (R410). -/
def TrapQ.room (q : TrapQ) : Bool := q.enabled && (q.tail + 1) % 2 ^ q.tqlog != q.head
/-- The keep core that TQIK names is interrupted where TQIK[3] enables it (Table 19-4). -/
def TrapQ.interrupt (q : TrapQ) : TrapQ := { q with irqs := q.irqs + if bit q.tqik 3 then 1 else 0 }
/-- A record enters: it takes the next SEQ, and TAIL advances, with an interrupt (R409, R410). -/
def TrapQ.enter (q : TrapQ) (r : TrapRec) : TrapQ :=
  { q.interrupt with
    ring := Tab.set q.ring q.tail { r with seq := q.seq }
    tail := (q.tail + 1) % 2 ^ q.tqlog
    seq := (q.seq + 1) % 2 ^ 32 }
/-- Held records enter in order while there is room. -/
def TrapQ.take (q : TrapQ) : List TrapRec → TrapQ × List TrapRec
  | [] => (q, [])
  | r :: l => if q.room then TrapQ.take (q.enter r) l else (q, r :: l)

/-- A record of a spire enters its tower's queue, or waits in the spire (R409, R410). -/
def State.post (s : State) (sp : Nat) (r : TrapRec) : State :=
  let y := (s.tower (towerOf sp)).tq.take ((s.spire sp).held ++ [r])
  (s.modTower (towerOf sp) (fun x => { x with tq := y.1 })).modSpire sp (fun x => { x with held := y.2 })

/-- A record of an HRU, copy engine, lane, port or engine of tower t (R409, R410). -/
def State.postHru (s : State) (t : Nat) (r : TrapRec) : State :=
  let y := (s.tower t).tq.take ((s.hru t).held ++ [r])
  s.modTower t (fun x => { x with tq := y.1, hru := { x.hru with held := y.2 } })

/-- The record of a context (Table 19-1) (DEDUCED, log 61). -/
def State.recordOf (s : State) (sp c : Nat) (x : Ctx) (k : Cause) (deff sec frz eff : Bool) (boff roff : Nat) : TrapRec where
  tcls := k.cls
  tsub := k.sub
  slot := k.slot
  deff := deff
  sec := sec
  frz := frz
  ctx := c
  eff := eff
  spn := sp
  pkn := s.cfg.pkn
  spne := false
  boff := boff
  roff := roff
  codeh := x.res.codeh
  cver := x.sys.cvr
  snap := if frz then x.inflight.length + x.deferred.length else 0
  ltwr := x.res.ltwr
  lslot := x.res.lslot
  obj := k.obj
  ver := k.ver
  seq := 0
  cyc := (s.spire sp).cyc
  tc1 := x.tc.getD 1 0
  tc0 := x.tc.getD 0 0
  detail := k.detail
  tid := x.res.tid

/-- The record of a spire event or of a tower's unit: SPNE = 1, CTX 0b111 (Table 19-1, R425). -/
def State.recordSpne (s : State) (sp : Nat) (k : Cause) (deff : Bool) : TrapRec where
  tcls := k.cls
  tsub := k.sub
  slot := k.slot
  deff := deff
  sec := false
  frz := false
  ctx := 7
  eff := false
  spn := sp
  pkn := s.cfg.pkn
  spne := true
  boff := 0
  roff := 0
  codeh := 0
  cver := 0
  snap := 0
  ltwr := 0
  lslot := 0
  obj := k.obj
  ver := k.ver
  seq := 0
  cyc := (s.spire sp).cyc
  tc1 := 0
  tc0 := 0
  detail := k.detail
  tid := 0

/-- A spire event (SPNE = 1). -/
def State.event (s : State) (sp : Nat) (k : Cause) : State := s.post sp (s.recordSpne sp k false)
/-- An event of tower t's HRU, lane, port or engine (SPNE = 1). -/
def State.eventHru (s : State) (t : Nat) (k : Cause) : State := s.postHru t (s.recordSpne (32 * t) k false)

/-- Records of a task not yet acknowledged through HEAD, held ones included (Table 19-5, R419). -/
def State.pend (s : State) (tid : Nat) : Nat :=
  let mine (r : TrapRec) : Bool := !r.spne && r.tid == tid
  let ring (t : Nat) : Nat :=
    let q := (s.tower t).tq
    let n := (q.tail + 2 ^ q.tqlog - q.head) % 2 ^ q.tqlog
    ((List.range n).filter (fun i => match q.ring.find? (fun p => p.1 == (q.head + i) % 2 ^ q.tqlog) with
      | some p => mine p.2
      | none => false)).length
  let held := (s.spires.map (fun p => (p.2.held.filter mine).length)).foldl (· + ·) 0
  let heldH := (s.towers.map (fun p => (p.2.hru.held.filter mine).length)).foldl (· + ·) 0
  ring 0 + ring 1 + ring 2 + ring 3 + held + heldH

-- Taking an exception, and the return from one

/-- The bundle under issue takes no effect: the spire as it stood before the bundle (R403). -/
def State.rewind (s : State) : State :=
  let i := s.iss
  let s' := match i.pre with
    | some x => s.setSpire i.sp x
    | none => s
  { s' with iss := { i with active := false, todo := [], pre := none } }

/-- TAKING AN EXCEPTION: context c of spire sp freezes; every register result in flight stays in its snapshot (R404);
the record names the bundle and the resume offset; the context will resume at `roff` (R403, R404) (DEDUCED, log 59). -/
def State.freeze (s : State) (sp c : Nat) (k : Cause) (deff eff : Bool) (boff roff : Nat) : State :=
  let x := s.ctx sp c
  let s1 := s.setCtx sp c { x with st := .frozen, stall := none, stepping := none, halting := false, pc := roff }
  s1.post sp (s.recordOf sp c x k deff false true eff boff roff)

/-- A trap found at issue: no slot takes effect, EFF = 0, ROFF = BOFF (R403) (DEDUCED, log 17). -/
def State.raise (s : State) (k : Cause) : State :=
  s.rewind.freeze s.iss.sp s.iss.c k false false s.iss.off s.iss.off

/-- A stall at issue: no slot takes effect; the bundle issues again when the cause has cleared (R52, R186), and another READY
context may issue in its place (R53). A halted context that steps stays in HALT, and its own sc advances (R75). -/
def State.stallWith (s : State) (k : StallC) : State :=
  let s1 := s.rewind.modCtx s.iss.sp s.iss.c (fun x =>
    if x.st = .halt then { x with halting := true } else { x with st := .stall, stall := some k })
  { s1 with iss := { s1.iss with stalled := true } }

/-- Where the task `tid` runs: its context of issue, or the context it was restored to. -/
def State.locate (s : State) (sp c tid : Nat) : Option (Nat × Nat) :=
  let here (n k : Nat) : Bool := (s.ctx n k).st != .free && (s.ctx n k).res.tid == tid
  if here sp c then some (sp, c)
  else (s.spires.flatMap (fun p => p.2.ctxs.map (fun q => (p.1, q.1)))).find? (fun p => here p.1 p.2)

/-- Every image of every launch slot changed by f (R139, R419). -/
def State.mapImages (s : State) (f : SaveImg → SaveImg) : State :=
  { s with towers := s.towers.map (fun p => (p.1, { p.2 with arb := { p.2.arb with
      slots := p.2.arb.slots.map (fun q => (q.1, q.2.map (fun l => { l with imgs := l.imgs.map (fun i => (i.1, f i.2)) }))) } })) }

/-- The image of a task, if it is saved. -/
def State.imageOf (s : State) (tid : Nat) : Option SaveImg :=
  (s.towers.flatMap (fun p => p.2.arb.slots.flatMap (fun q => match q.2 with
    | some l => l.imgs.map (·.2)
    | none => []))).find? (fun i => i.valid && i.ctx.res.tid == tid)

/-- A deferred fault found at a bundle boundary for the context that holds its task (R403, R406, R419): SEC for a context
already frozen or halted; PFLT for one being saved; else the context freezes (DEDUCED, log 60). -/
def State.faultAt (s : State) (sp c : Nat) (k : Cause) (boff : Nat) : State :=
  let x := s.ctx sp c
  match x.st with
  | .frozen => s.post sp (s.recordOf sp c x k true true false true boff x.pc)
  | .saving => (s.setCtx sp c { x with pflt := true }).post sp (s.recordOf sp c x k true false false true boff x.pc)
  | .halt => (s.setCtx sp c { x with st := .frozen, stepping := none }).post sp (s.recordOf sp c x k true true true true boff x.pc)
  | _ => s.freeze sp c k true true boff x.pc

/-- A deferred fault of an operation that context c of spire sp issued for task `tid`: taken where the task runs; for a
saved task it sets PFLT in the image; for a retired one it only leaves a record with the former context's number (R406). -/
def State.deferFault (s : State) (sp c tid : Nat) (k : Cause) (boff : Nat) : State :=
  match s.locate sp c tid with
  | some (n, j) => s.faultAt n j k boff
  | none =>
    match s.imageOf tid with
    | some i =>
      (s.mapImages (fun j => if j.valid && j.ctx.res.tid == tid then { j with ctx := { j.ctx with pflt := true } } else j)).post sp
        (s.recordOf sp c i.ctx k true false false true boff i.ctx.pc)
    | none => s.post sp { s.recordOf sp c .reset k true false false true boff 0 with tid := tid }

/-- A deferred fault waits for the bundle boundary (R403): the event `deferredTrap` takes it. -/
def State.deferTrap (s : State) (sp c tid : Nat) (k : Cause) (boff : Nat) : State :=
  (s.modCtx sp c (fun x => { x with dtrap := x.dtrap ++ [⟨k, boff, tid⟩] })).soon
    [.deferredTrap (Fin.ofNat 128 sp) (Fin.ofNat 8 c)]

/-- THE RETURN FROM AN EXCEPTION (R412 RESUME): the context becomes READY and issues from ROFF; an entry of the
snapshot with remaining delay d lands d sc after the resume cycle (R74). A wait that was pending goes on (R55) (DEDUCED, log 59). -/
def State.resumeCtx (s : State) (sp c : Nat) : State :=
  s.modCtx sp c (fun x => { x with
    st := if x.wait.isSome then .wait else .ready
    inflight := x.inflight.map (fun f => { f with delay := f.delay + 1 }) })

-- Causes

/-- A cause that concerns no object. -/
def Cause.mk' (cls sub slot : Nat) (detail : List (Nat × Nat × Nat)) : Cause := ⟨cls, sub, slot, 0, 0, detail⟩

/-- ILLEGAL/sub of the slot under issue, with its word (Table 19-3). -/
def State.illegal (s : State) (sub : Nat) : State := s.raise (.mk' 1 sub s.iss.slot [(0x40, 4, s.iss.word)])

-- Queues (R176 to R180)

def Ctx.sOf (x : Ctx) (q : Nat) : List Entry := Tab.get x.sq q []
def Ctx.vOf (x : Ctx) (q : Nat) : List Vec := Tab.get x.vq q []
/-- Poisoned places of a queue after `n` entries have left its head (R441). -/
def badAfter (l : List (Bool × Nat × Nat)) (v : Bool) (q n : Nat) : List (Bool × Nat × Nat) :=
  if l.isEmpty then []
  else l.filterMap (fun p => if p.1 == v && p.2.1 == q then (if p.2.2 < n then none else some (v, q, p.2.2 - n)) else some p)

/-- A queue set; an empty queue is not listed. -/
def Ctx.setS (x : Ctx) (q : Nat) (l : List Entry) : Ctx :=
  { x with
    sq := if l.isEmpty then Tab.del x.sq q else Tab.set x.sq q l
    qbad := badAfter x.qbad false q ((x.sOf q).length - l.length) }
def Ctx.setV (x : Ctx) (q : Nat) (l : List Vec) : Ctx :=
  { x with
    vq := if l.isEmpty then Tab.del x.vq q else Tab.set x.vq q l
    qbad := badAfter x.qbad true q ((x.vOf q).length - l.length) }
/-- Mask k; m0 reads all ones (Table 06-4). -/
def Ctx.mask (x : Ctx) (k : Nat) : Mask := if k = 0 then BitVec.allOnes 1024 else Tab.get x.masks k 0
/-- A deferred result into a register is outstanding (R178). -/
def Ctx.awaits (x : Ctx) (d : Dest) : Bool := x.deferred.any (fun e => e.dest == d)
/-- The least remaining delay of a fixed-latency push pending on a register, if any (R180). -/
def Ctx.pendingOn (x : Ctx) (d : Dest) : Option Nat := (x.inflight.find? (fun e => e.dest == d)).map (·.delay)

/-- QUEUE/0x01 on register file `v` and queue `q`, or the stall of R179 when a deferred result is outstanding. -/
def State.underflow (s : State) (v : Bool) (q : Nat) : State :=
  if s.cx.awaits (if v then .v q else .s q) then s.stallWith (.deferredQueue v q)
  else s.raise (.mk' 2 1 s.iss.slot [(0x40, 1, if v then 1 else 0), (0x41, 1, q)])

/-- The slot reads the head of a queue: a poisoned entry is consumed, the slot's results are discarded, and the context freezes at its next
boundary with CHECK/0x02, place 0x03 (R442) (DEDUCED, log 85). -/
def State.consumed (s : State) (v : Bool) (q : Nat) : State :=
  if s.cx.qbad.contains (v, q, 0) then
    { s with iss := { s.iss with bad := true } }.deferTrap s.iss.sp s.iss.c s.cx.res.tid
      (.mk' 13 2 s.iss.slot [(0x40, 1, 3), (0x48, 8, q + if v then 256 else 0)]) s.iss.off
  else s

/-- Reads scalar source `a` (R176): s0 gives 0 and pops nothing (DEDUCED, log 13). -/
def State.readS (s : State) (a : SrcS) (k : Entry → State → State) : State :=
  if a.q = 0 then k 0 s
  else match s.cx.sOf a.q with
    | [] => s.underflow false a.q
    | x :: r =>
      let s1 := s.consumed false a.q
      k x (if a.peek then s1 else s1.setCx (s1.cx.setS a.q r))

/-- Pops scalar queue `q` (a third source, R210). -/
def State.popS (s : State) (q : Fin 32) (k : Entry → State → State) : State := s.readS ⟨q, false⟩ k

/-- Reads vector source `a` (R176). -/
def State.readV (s : State) (a : SrcV) (k : Vec → State → State) : State :=
  match s.cx.vOf a.q with
  | [] => s.underflow true a.q
  | x :: r =>
    let s1 := s.consumed true a.q
    k x (if a.peek then s1 else s1.setCx (s1.cx.setV a.q r))

/-- A flight enters the list in issue order: before those of the same bundle that stand in a later slot (R177). -/
def insertFlight (f : Flight) (l : List Flight) : List Flight :=
  match l with
  | [] => [f]
  | e :: r => if e.num = f.num ∧ f.slot < e.slot then f :: e :: r else e :: insertFlight f r

/-- A fixed-latency result of the operation under issue: it lands `lat` sc after issue and ORs `fst` into FST then
(R177, R207). A result for s0 or m0 is discarded, but its status bits are set. -/
def State.push (s : State) (d : Dest) (v : RVal) (lat fst : Nat) : State :=
  if s.iss.bad ∨ ((d = .s 0 ∨ d = .m 0) ∧ fst = 0) then s
  else s.modCx (fun x => { x with
    inflight := insertFlight ⟨d, v, lat, s.iss.num, s.iss.slot, s.iss.off, fst⟩ x.inflight })

/-- A scalar result. -/
def State.pushS (s : State) (d : Fin 32) (v : Entry) (lat fst : Nat) : State := s.push (.s d) (.s v) lat fst
/-- A vector result. -/
def State.pushV (s : State) (d : Fin 16) (v : Vec) (lat fst : Nat) : State := s.push (.v d) (.v v) lat fst

/-- A deferred result of the operation under issue, to be answered under `tag` (R178). -/
def State.expect (s : State) (d : Dest) (least tag : Nat) : State :=
  if d = .s 0 ∨ s.iss.bad then s
  else s.modCx (fun x => { x with
    deferred := x.deferred ++ [⟨d, none, least, s.iss.num, s.iss.slot, s.iss.off, tag⟩] })

/-- The value of a deferred result. -/
def Ctx.answer (x : Ctx) (tag : Nat) (v : RVal) : Ctx :=
  { x with deferred := x.deferred.map (fun e => if e.tag = tag then { e with val := some v } else e) }

/-- The value of a deferred result becomes available to the task that waits for it, running or saved (R178, R139). -/
def State.answer (s : State) (sp c tid tag : Nat) (v : RVal) : State :=
  match s.locate sp c tid with
  | some (n, j) => s.modCtx n j (fun x => x.answer tag v)
  | none => s.mapImages (fun i => if i.ctx.res.tid == tid then { i with ctx := i.ctx.answer tag v } else i)

-- Rounding of the operation under issue (R148, R151, R152)

/-- The static mode that a rounding code names. -/
def Ctx.mode (x : Ctx) (m : Rm) : Rm := if m = .dyn then (Rm.ofCode x.sys.rmd).getD .rne else m

/-- SCTR of the operation: the value at the bundle's issue in a DUP bundle, else consecutive values (R152). -/
def State.sctrNow (s : State) : Nat := if s.iss.dup then s.iss.sctr0 else (s.iss.sctr0 + s.iss.sto) % 2 ^ 48

/-- The rounding of element `idx` under code `m`. -/
def State.rnd (s : State) (m : Rm) (idx : Nat) : Rnd := ⟨s.cx.mode m, s.cx.sys.seed, s.sctrNow * 2 ^ 16 + idx⟩

/-- An operation that rounds under code `m` takes one SCTR value if the mode is stochastic (R152). -/
def State.drawn (s : State) (m : Rm) : State :=
  if s.cx.mode m = .sto then { s with iss := { s.iss with sto := s.iss.sto + 1 } } else s

-- The end of a bundle

/-- Inline depth: fork entries on the return stack. -/
def Ctx.depth (x : Ctx) : Nat :=
  (x.rstk.filter (fun e => match e with
    | .fork _ _ _ _ _ => true
    | .call _ => false)).length

/-- The bundle at `off` belongs to the body of the loop under way (R188) (DESIGN CHOICE, log 24). -/
def Ctx.inBody (x : Ctx) (off : Nat) : Bool :=
  match x.loop with
  | none => false
  | some l => l.depth == x.depth && decide (l.start ≤ off) && decide (off < l.start + 16 * l.len)

/-- After a bundle of a loop body: the next pass, or the end of the loop (R181, R188). -/
def Ctx.endOfBody (x : Ctx) (off : Nat) : Ctx :=
  match x.loop with
  | none => x
  | some l =>
    if off = l.start + 16 * (l.len - 1) then
      if x.lc + 1 < x.lb then { x with lc := x.lc + 1, pc := l.start, loop := some { l with issued := 0 } }
      else { x with lc := 0, lb := 0, loop := none }
    else { x with loop := some { l with issued := l.issued + 1 } }

/-- SCTR after the bundle (R152). -/
def State.sctrAfter (s : State) : Nat :=
  if s.iss.sto = 0 then s.iss.sctr0 else if s.iss.dup then (s.iss.sctr0 + 1) % 2 ^ 48 else (s.iss.sctr0 + s.iss.sto) % 2 ^ 48

/-- The request is a release (R128, R131, R135, R297). -/
def isRelease : Instr → Bool
  | .cntAdd _ o _ => o == .rel || o == .acqrel
  | .atom _ _ _ _ o _ => o == .rel || o == .acqrel
  | .atomCas _ _ o _ => o == .rel || o == .acqrel
  | .futRes _ _ _ => true
  | .objPub _ _ => true
  | .launch _ => true
  | .coll _ => true
  | .barArr _ _ => true
  | _ => false

/-- The request appends to an exception list (R167). -/
def Req.appends (r : Req) : Bool :=
  match r.ins with
  | .fcvt _ _ _ _ _ | .vcvt _ _ _ _ _ _ _ | .vpack _ _ _ _ _ _ _ | .adrain _ _ _ _ _ _ _ _ => true
  | .adrainh _ _ _ _ => r.eidx == 1
  | _ => false

/-- The request is a synchronous live access (R132); an append to an exception list counts as one (R167). -/
def Req.syncLive (r : Req) : Bool :=
  r.appends || match r.ins with
  | .cntAdd _ _ _ | .cntRd _ _ _ _ | .atom _ _ _ _ _ _ | .atomCas _ _ _ _ | .ldo _ _ _ | .futNew _ _ | .futRes _ _ _ | .futRd _ _ _ _
  | .qOpen _ => true
  | _ => false

/-- The operation is a drain that has not begun and may append to its exception list (R167). -/
def MOp.willAppend (m : MOp) : Bool :=
  (match m.ins with
    | .adrain _ _ _ _ _ _ _ _ | .adrainh _ _ _ _ => true
    | _ => false) && m.xlh != 0 && m.left.isNone

/-- A drain of task `tid`, issued before number `n`, still has its appends to make (R167). -/
def State.drainsAppend (s : State) (tid n : Nat) : Bool :=
  s.spires.any fun p => p.2.engine.any fun m => m.tid == tid && decide (m.num < n) && m.willAppend

/-- A request enters a list in issue order: before the later ones of its task. -/
def insertReq (r : Req) : List Req → List Req
  | [] => [r]
  | q :: l => if q.tid = r.tid ∧ r.tag < q.tag then r :: q :: l else q :: insertReq r l

/-- The operation writes a draft: its destination stood in the draft set at issue (word 18 of a tile copy's words). -/
def Req.draftWrite (r : Req) : Bool :=
  (match r.ins with
    | .tst _ _ | .tscat _ _ _ | .tfill _ _ _ | .tcopy _ _ _ => true
    | .adrainh _ _ _ _ => r.eidx != 1
    | _ => false) && wordAt r.words 18 != 0

/-- What a release numbered `n` of task `tid` waits for among the requests (R132): its earlier synchronous live accesses and draft
writes; no other asynchronous operation. -/
def Req.awaited (r : Req) (tid n : Nat) : Bool := r.tid == tid && decide (r.tag < n) && (r.syncLive || r.draftWrite)

/-- Such requests stand in a spire's list `out`, at tower t's HRU, on their way to another package, or as operations under way; or a drain's
appends are still to come. -/
def State.unperformed (s : State) (t : Nat) (out : List Req) (tid n : Nat) : Bool :=
  out.any (·.awaited tid n) || s.drainsAppend tid n || (s.hru t).q.any (·.awaited tid n) || (s.hru t).miss.any (fun r => r.2.2.2.awaited tid n)
    || s.aops.any (fun a => a.r.draftWrite && a.r.awaited tid n)
    || s.fab.items.any (fun i => match i.req with
      | some r => r.awaited tid n
      | none => false)

/-- R132 holds for a release numbered `n` of context x on spire sp: its earlier tile-store writes have landed, its earlier live
accesses have been performed and its earlier draft writes combined (DEDUCED, log 46). -/
def State.releasable (s : State) (sp : Nat) (x : Ctx) (n : Nat) : Bool :=
  x.tsw.all (fun w => match w.act with
    | .bytes _ _ => decide (n ≤ w.num) || w.tid != x.res.tid
    | _ => true) && !s.unperformed (towerOf sp) (s.spire sp).out x.res.tid n

/-- Requests that may leave the spire, and those that wait: a release for R132, and what its task sent after it (R130); an append for the
appends of earlier drains (R167). -/
def splitOut (ok alone : Req → Bool) : List Req → List Nat → List Req × List Req
  | [], _ => ([], [])
  | r :: l, stop =>
    if stop.contains r.tid || !ok r then
      let p := splitOut ok alone l (r.tid :: stop)
      (p.1, r :: p.2)
    else
      let p := splitOut ok alone l stop
      if alone r then (p.1, r :: p.2) else (r :: p.1, p.2)

/-- The HRU takes new operations (R410, R426). -/
def Hru.accepts (h : Hru) : Bool := decide (h.miss.length < 1024) && decide (h.held.length < 64)

/-- Requests of a spire go to its tower's HRU, which serves one at each event `l2Miss` (R19, R96) (DESIGN CHOICE, log 45). -/
def State.sendOut (s : State) (sp : Nat) : State :=
  let t := towerOf sp
  let out := (s.spire sp).out
  if out.isEmpty || !(s.hru t).accepts then s
  else
    let ok (r : Req) : Bool := !isRelease r.ins || s.releasable sp (s.ctx sp r.c) r.tag
    let p := splitOut ok (fun r => r.appends && s.drainsAppend r.tid r.tag) out []
    if p.1.isEmpty then s
    else ((s.modSpire sp (fun x => { x with out := p.2 })).modHru t (fun h => { h with q := h.q ++ p.1 })).later
      (p.1.map (fun _ => .l2Miss (Fin.ofNat 4 t)))

/-- The loop's end of a bundle at `off`: it belonged to the body as the context stood before the bundle (R188). -/
def Issue.endsIn (i : Issue) (x : Ctx) : Bool :=
  match i.pre with
  | some y => (y.ctx i.c).inBody i.off
  | none => x.inBody i.off

/-- The return offset of the topmost fork frame set: the forker resumes where it would have gone on (R61). -/
def Ctx.setRet (x : Ctx) (ret : Nat) : Ctx :=
  match x.rstk with
  | .fork tc wgt cls cver _ :: r => { x with rstk := .fork tc wgt cls cver ret :: r }
  | _ => x

/-- The bundle has issued: the pc moves to the target or past the bundle, the loop advances, an inline task is entered, the selector
remembers the context, requests leave the spire (R53, R54, R61, R177, R220). Nothing of it can be taken back any more. -/
def State.commit (s : State) : State :=
  let i := s.iss
  let x := s.cx
  let x1 := { x with
    pc := i.target.getD i.next
    stepping := x.stepping.map (· - 1)
    nstep := if x.st = .halt then x.nstep + 1 else x.nstep
    halting := x.st == .halt
    lastNum := i.num
    sys := { x.sys with sctr := if i.sto = 0 then x.sys.sctr else s.sctrAfter } }
  let x2 := if i.endsIn x && i.target.isNone then x1.endOfBody i.off else x1
  let x3 := match i.inl with
    | none => x2
    | some e => { x2.setRet x2.pc with pc := e }
  let s1 := (s.setCx x3).modSpire i.sp (fun y => { y with
    last := i.c
    loopOwner := if y.loopOwner = some i.c ∧ x3.loop.isNone then none else y.loopOwner })
  ({ s1 with iss := { i with active := false, todo := [], pre := none } }).sendOut i.sp

/-- A context enters WAIT; one that steps stays in HALT with its wait pending (Table 02-5). -/
def Ctx.block (x : Ctx) (w : WaitC) : Ctx := { x with wait := some w, st := if x.st = .halt then .halt else .wait }

/-- A trap after the bundle: `trap`, `brk` (R225, R403): EFF = 1, ROFF the next bundle. -/
def State.trapAfter (s : State) (k : Cause) : State :=
  let s1 := s.commit
  s1.freeze s.iss.sp s.iss.c k false true s.iss.off (s1.ctx s.iss.sp s.iss.c).pc

/-- A request of the operation under issue, on its way to the HRU. -/
def State.request (s : State) (i : Instr) (a b : Entry) (eidx : Nat) (words : List Entry) (tag : Nat) : State :=
  let x := s.cx
  if s.iss.bad then s else s.modSpire s.iss.sp (fun y => { y with
    out := y.out ++ [⟨i, s.iss.sp, s.iss.c, x.res.tid, x.sys.sid, s.iss.off, s.iss.slot, s.iss.scope, a, b, eidx, words, tag⟩] })

/-- A fresh number of the model. -/
def State.newId (s : State) : State := { s with fresh := s.fresh + 1 }

end Sys2Proof.Machine
end

