-- ==== Sys2Proof/Machine/Operands.lean ====
section
/-! DEFINITION. Machine/Operands.lean: the operand forms: the queue sources of every slot operation in read order (R176)
and their read ports (R184), the register each operation writes, lend bits (R173), accumulator and latch names (R183),
tile-store offsets, swizzle modes and layout tags (R110 to R112), vector lanes (R231), index words. -/

namespace Sys2Proof.Machine

-- Sources and destinations

/-- A queue source of an operation. -/
inductive Src
  | s (a : SrcS)
  | v (a : SrcV)
deriving DecidableEq, Repr

/-- A popped scalar source (DEDUCED, log 13). -/
def popSrc (q : Fin 32) : Src := .s ⟨q, false⟩
/-- A popped vector source. -/
def popSrcV (q : Fin 16) : Src := .v ⟨q, false⟩

/-- The queue sources of an operation, in the order a, b, further ones (R176). -/
def sourcesOf : Instr → List Src
  | .add r _ _ | .sub r _ _ | .mul r _ _ | .shl r _ _ => [.s r.a, .s r.b]
  | .mulh r _ | .div r _ | .rem r _ | .and r _ | .or r _ | .xor r _ | .andn r _ | .shr r _ | .rol r _ => [.s r.a, .s r.b]
  | .min r _ | .max r _ | .cmpCc r _ _ | .idxPack r => [.s r.a, .s r.b]
  | .addi r _ | .lih r _ | .mov r => [.s r.a]
  | .clz r _ | .ctz r _ | .popc r _ | .sext r _ | .zext r _ => [.s r.a]
  | .mad r _ _ => [.s r.a, .s r.b, popSrc r.d]
  | .sel r c => [.s r.a, .s r.b, .s c]
  | .fadd r _ _ | .fsub r _ _ | .fmul r _ _ | .fdiv r _ _ => [.s r.a, .s r.b]
  | .fma r _ _ => [.s r.a, .s r.b, popSrc r.d]
  | .fmin r _ | .fmax r _ | .fcmp r _ _ => [.s r.a, .s r.b]
  | .fsqrt r _ _ | .fcls r _ | .fcvt r _ _ _ _ => [.s r.a]
  | .brc _ a _ | .jmp a | .syswr a _ => [.s a]
  | .loop a _ => [popSrc a]
  | .chk s _ => [.s s.a, .s s.b]
  | .vadd r _ _ | .vsub r _ _ | .vmul r _ _ | .vmin r _ | .vmax r _ => [.v r.a, .v r.b]
  | .vfma r _ _ | .vfms r _ _ | .vnfma r _ _ => [.v r.a, .v r.b, popSrcV r.d]
  | .vabs r _ _ | .vneg r _ _ | .vnot r _ => [.v r.a]
  | .vcmpCc _ _ a b _ _ => [.v a, .v b]
  | .vsel r _ | .vand r _ | .vor r _ | .vxor r _ | .vshl r _ _ | .vshr r _ | .vsra r _ | .vperm r _ => [.v r.a, .v r.b]
  | .vcvt _ _ a _ _ _ _ | .vpack _ _ a _ _ _ _ => [.v a]
  | .vunpack _ _ a b _ _ => [.v a, .v b]
  | .vbcast _ s _ => [.s s]
  | .vext _ a s _ => [.v a, .s s]
  | .vins _ a s c _ => [.v a, .s s, popSrc (Fin.ofNat 32 c)]
  | .vrot _ a _ _ => [.v a]
  | .vslide _ a b _ _ => [.v a, .v b]
  | .vred r _ _ _ | .vargmax r _ | .vscanAdd r _ => [.v r.a]
  | .vexp2 r _ | .vlog2 r _ | .vrcp r _ | .vrsqrt r _ | .vtanh r _ => [.v r.a]
  | .vld m => [.s m.s]
  | .vst m => [.s m.s, popSrcV m.d]
  | .vldx m _ => [.s m.s, .v m.b]
  | .vstx m _ => [.s m.s, .v m.b, popSrcV m.d]
  | .mmaTs _ a _ _ _ _ _ _ => [.s a]
  | .mmaV _ a _ _ _ _ _ => [.v a]
  | .mmaH _ s _ _ _ | .latLdh _ s => [.s s.a, .s s.b]
  | .latLd _ a _ _ | .aload _ a _ | .adrain _ a _ _ _ _ _ _ | .fmtLd a _ _ => [.s a]
  | .adrainh _ s _ c => [.s s.a, .s s.b, .s c]
  | .tld s _ | .tst s _ | .tstW s _ | .tmc s _ _ | .tcopy s _ _ | .tgath s _ | .tscat s _ _ | .tfill s _ _ => [.s s.a, .s s.b]
  | .ldTs _ a _ _ => [.s a]
  | .stTs s _ _ | .ldo _ s _ => [.s s.a, .s s.b]
  | .barInit a _ | .waitb a _ => [.s a]
  | .barExp s _ | .barArr s _ | .ringWait s => [.s s.a, .s s.b]
  | .cntAdd s _ _ | .waitc s _ => [.s s.a, .s s.b]
  | .cntRd _ a _ _ => [.s a]
  | .atom _ a b _ _ _ => [.s a, popSrc b]
  | .atomCas _ s _ _ => [.s s.a, .s s.b]
  | .fork s _ | .launch s | .futRes s _ _ | .futWait s | .qOpen s | .coll s | .relLd _ s | .drOp s _ _ => [.s s.a, .s s.b]
  | .futNew a _ | .futRd _ a _ _ | .waitq a => [.s a]
  | .objOpenw _ a | .objPub _ a | .objAbandon a | .objUnpin a | .objVer _ a _ | .objDesc _ a _ => [.s a]
  | .objPin _ s | .objSub s _ | .objPref s _ _ | .waitv s => [.s s.a, .s s.b]
  | .nbLoad a | .nbRun a | .nbAcc a => [.s a]
  | _ => []

/-- A source takes a scalar port: it names s1 to s31 (R184). -/
def Src.isScalar : Src → Bool
  | .s a => a.q != 0
  | .v _ => false
/-- A source takes a vector port. -/
def Src.isVector : Src → Bool
  | .s _ => false
  | .v _ => true

/-- Register results of an operation that are pushed to a register (R405). -/
def resultsOf : Instr → Nat
  | .add r _ _ | .sub r _ _ | .mul r _ _ | .shl r _ _ | .mad r _ _ => s r.d
  | .mulh r _ | .div r _ | .rem r _ | .and r _ | .or r _ | .xor r _ | .andn r _ | .shr r _ | .rol r _ => s r.d
  | .min r _ | .max r _ | .cmpCc r _ _ | .idxPack r | .sel r _ => s r.d
  | .addi r _ | .lih r _ | .mov r => s r.d
  | .clz r _ | .ctz r _ | .popc r _ | .sext r _ | .zext r _ => s r.d
  | .li d _ | .qdepth d _ _ | .sysrd d _ => s d
  | .fadd r _ _ | .fsub r _ _ | .fmul r _ _ | .fdiv r _ _ | .fma r _ _ => s r.d
  | .fmin r _ | .fmax r _ | .fcmp r _ _ => s r.d
  | .fsqrt r _ _ | .fcls r _ | .fcvt r _ _ _ _ => s r.d
  | .vadd _ _ _ | .vsub _ _ _ | .vmul _ _ _ | .vmin _ _ | .vmax _ _ | .vfma _ _ _ | .vfms _ _ _ | .vnfma _ _ _ => 1
  | .vabs _ _ _ | .vneg _ _ _ | .vnot _ _ | .vsel _ _ | .vand _ _ | .vor _ _ | .vxor _ _ | .vshl _ _ _ => 1
  | .vshr _ _ | .vsra _ _ | .vperm _ _ | .vcvt _ _ _ _ _ _ _ | .vpack _ _ _ _ _ _ _ | .vunpack _ _ _ _ _ _ => 1
  | .vbcast _ _ _ | .vins _ _ _ _ _ | .vrot _ _ _ _ | .vslide _ _ _ _ _ | .vred _ _ _ _ | .vargmax _ _ => 1
  | .vscanAdd _ _ | .vexp2 _ _ | .vlog2 _ _ | .vrcp _ _ | .vrsqrt _ _ | .vtanh _ _ | .vld _ | .vldx _ _ => 1
  | .vcmpCc _ md _ _ _ _ => m md
  | .mand d _ _ | .mor d _ _ | .mxor d _ _ | .mnot d _ => m d
  | .vext d _ _ _ | .mpop d _ _ | .mfirst d _ _ => s d
  | .amovV _ _ _ => 1
  | .astat d _ | .fmtRd d _ | .ldTs d _ _ _ | .ldo d _ _ | .cntRd d _ _ _ | .atom d _ _ _ _ _ | .atomCas d _ _ _ => s d
  | .futRd d _ _ _ => 2 * s d
  | .objOpenw d _ | .objPub d _ | .objPin d _ | .objVer d _ _ | .objDesc d _ _ | .relLd d _ | .slotRd d => s d
  | _ => 0
where
  s (d : Fin 32) : Nat := if d = 0 then 0 else 1
  m (d : Fin 8) : Nat := if d = 0 then 0 else 1

/-- An operation of the matrix engine: slot 2 (R168). -/
def isMClass : Instr → Bool
  | .mmaTs _ _ _ _ _ _ _ _ | .mmaV _ _ _ _ _ _ _ | .mmaH _ _ _ _ _ | .latLd _ _ _ _ | .latLdh _ _ | .latClr _ | .aclr _
  | .aload _ _ _ | .amovV _ _ _ | .adrain _ _ _ _ _ _ _ _ | .adrainh _ _ _ _ | .astat _ _ | .astatClr _ _
  | .fmtLd _ _ _ | .fmtRd _ _ | .mbar => true
  | _ => false

/-- The lend bits an operation uses, as a mask of its six (R173): immediates all six; an accumulator field d bits
[5:4], a bits [3:2]; an element index all six. -/
def lendMask : Instr → Nat
  | .addi _ _ | .li _ _ => 63
  | .mmaTs _ _ _ _ _ _ _ _ | .mmaV _ _ _ _ _ _ _ | .mmaH _ _ _ _ _ | .aclr _ | .aload _ _ _ | .adrain _ _ _ _ _ _ _ _
  | .adrainh _ _ _ _ | .astatClr _ _ => 0x30
  | .amovV _ _ _ | .astat _ _ => 0x0C
  | .cntAdd _ _ _ | .cntRd _ _ _ _ | .waitc _ _ | .atom _ _ _ _ _ _ | .atomCas _ _ _ _ => 63
  | .futNew _ _ | .futRes _ _ _ | .futRd _ _ _ _ => 63
  | _ => 0

/-- The allotments of Table 06-5: scalar ports of slots 0 to 3, then vector ports of slots 0 to 3. -/
def allotment (ports : Nat) : List Nat × List Nat :=
  match ports with
  | 0 => ([2, 1, 0, 1], [0, 2, 1, 0])
  | 1 => ([0, 2, 0, 2], [0, 2, 1, 0])
  | 2 => ([0, 2, 1, 1], [0, 2, 1, 0])
  | 3 => ([0, 1, 2, 1], [0, 2, 1, 0])
  | 4 => ([0, 1, 1, 2], [0, 2, 0, 1])
  | 5 => ([0, 3, 0, 1], [0, 3, 0, 0])
  | 6 => ([0, 1, 3, 0], [0, 1, 2, 0])
  | _ => ([0, 0, 2, 2], [0, 1, 1, 1])

/-- Scalar and vector reads of an operation (R184). -/
def portsOf (i : Instr) : Nat × Nat :=
  (((sourcesOf i).filter Src.isScalar).length, ((sourcesOf i).filter Src.isVector).length)

-- Immediates and names under lend bits (R173, R183)

/-- The signed immediate of a form with an `n`-bit field: in a headed bundle the lend bits stand above the field. -/
def State.immS (s : State) (n f : Nat) : Int :=
  if s.iss.headed then sextN (n + 6) (s.iss.lend * 2 ^ n + f) else sextN n f

/-- Element index of a live-word instruction: eidx[9:4] from LEND3 (R299). -/
def State.eidx (s : State) (e : Fin 16) : Nat := (if s.iss.headed then s.iss.lend else 0) * 16 + e

/-- Accumulator tile of field d: two high bits from lend [5:4]. -/
def State.accD (s : State) (d : Fin 32) : Nat := (if s.iss.headed then bits s.iss.lend 4 2 else 0) * 32 + d
/-- Accumulator tile of field a: two high bits from lend [3:2]. -/
def State.accA (s : State) (a : Fin 32) : Nat := (if s.iss.headed then bits s.iss.lend 2 2 else 0) * 32 + a

-- The tile store (R110 to R112)

/-- Swizzle mode: byte offset within a page to physical byte within it, Table 03-6. -/
def swizzle (m o : Nat) : Nat :=
  match m with
  | 0 => o
  | 1 => o ^^^ (bits o 7 3 * 2 ^ 4)
  | 2 => o ^^^ (bits o 8 3 * 2 ^ 5)
  | 3 => o ^^^ (bits o 9 3 * 2 ^ 6)
  | 4 => o ^^^ (bits o 10 3 * 2 ^ 7)
  | 5 => o ^^^ (bits o 10 4 * 2 ^ 4)
  | 6 => o ^^^ (bits o 11 3 * 2 ^ 8)
  | _ => o ^^^ (bits o 6 3 * 2 ^ 3)

/-- Physical byte of the tile store of relative offset `o` in an allocation with base `tsb`, under mode `m` (R111). -/
def physTs (tsb m o : Nat) : Nat := tsb + o / 0x4000 * 0x4000 + swizzle m (o % 0x4000)

/-- `n` bytes from relative offset `e` lie within an allocation of `tsp` pages (R110) (DEDUCED, log 18). -/
def inTs (tsp e n : Nat) : Bool := decide (e + n ≤ tsp * 0x4000)

/-- BOUNDS/0x01 with the offset and the allocation's size (Table 19-3). -/
def boundsTs (slot e tsp : Nat) : Cause := .mk' 4 1 slot [(0x40, 8, e), (0x48, 8, tsp * 0x4000)]

/-- LAYOUT/0x01 with the offset, the tag and the mode (Table 20-1). -/
def layoutTag (slot e tag mode : Nat) : Cause := .mk' 8 1 slot [(0x40, 8, e), (0x48, 1, tag), (0x49, 1, mode)]

/-- Layout tag of the page that holds physical byte p; 0 where none was set (R112). -/
def SpireMem.tagAt (x : SpireMem) (p : Nat) : Nat := Tab.get x.tag (p / 0x4000) 0
/-- The page has been written since its allocation (R432). -/
def SpireMem.touchedAt (x : SpireMem) (p : Nat) : Bool := Tab.get x.touched (p / 0x4000) false

/-- The first of the physical bytes whose page tag a checked read under mode `m` does not match (R432) (DEDUCED, log 48). -/
def SpireMem.badTag (x : SpireMem) (m : Nat) (ps : List Nat) : Option Nat :=
  ps.find? (fun p => x.touchedAt p && x.tagAt p != m)

/-- Bytes written at physical offsets: a whole poisoned word written clears its poison (R442); pages become touched. -/
def SpireMem.putBytes (x : SpireMem) (b : List (Nat × Byte)) (tags : List (Nat × Nat)) : SpireMem :=
  let pages := b.foldl (fun l p => if l.contains (p.1 / 0x4000) then l else (p.1 / 0x4000) :: l) []
  { x with
    ts := cellsPut x.ts b
    tag := tags.foldl (fun t p => Tab.set t p.1 p.2) x.tag
    touched := pages.foldl (fun t p => Tab.set t p true) x.touched
    poison := if x.poison.isEmpty then [] else
      x.poison.filter (fun w => !(w.1 == 1 && (List.range 8).all (fun j => b.any (fun p => p.1 == w.2 + j)))) }

/-- Byte at a physical offset. -/
def SpireMem.byteAt (x : SpireMem) (p : Nat) : Byte := cellGet x.ts p

/-- `n` bytes from relative offset `e`, mode `m`, as a number (little endian). -/
def SpireMem.readTs (x : SpireMem) (tsb m e : Nat) : Nat → Nat
  | 0 => 0
  | n + 1 => (x.byteAt (physTs tsb m e)).toNat + 256 * SpireMem.readTs x tsb m (e + 1) n

/-- The 8-byte words of a record of `n` words at relative offset `e`, under mode 0 (R281, R304). -/
def SpireMem.words (x : SpireMem) (tsb e : Nat) : Nat → List Entry
  | 0 => []
  | n + 1 => BitVec.ofNat 64 (x.readTs tsb 0 e 8) :: SpireMem.words x tsb (e + 8) n

/-- Physical bytes of relative offsets e to e + n − 1 under mode m. -/
def physRange (tsb m e n : Nat) : List Nat := (List.range n).map (fun j => physTs tsb m (e + j))

/-- The page tags that writes to these physical bytes set. -/
def tagsOf (m : Nat) (ps : List Nat) : List (Nat × Nat) :=
  (ps.foldl (fun l p => if l.contains (p / 0x4000) then l else (p / 0x4000) :: l) []).map (fun g => (g, m))

/-- Poisoned 8-byte words of the tile store (place 1) touch these bytes (R441, R442). -/
def SpireMem.poisoned (x : SpireMem) (ps : List Nat) : Bool :=
  !x.poison.isEmpty && ps.any (fun p => x.poison.any (fun w => w.1 == 1 && w.2 == p / 8 * 8))

-- Vector lanes (R231)

/-- Lane i of width w. -/
def lane (w : Nat) (v : Vec) (i : Nat) : Nat := v.toNat / 2 ^ (w * i) % 2 ^ w
/-- A vector from lanes of width w, lane 0 first. -/
def ofLanes (w : Nat) (l : List Nat) : Vec := BitVec.ofNat 4096 (go l)
where go (l : List Nat) : Nat :=
  match l with
  | [] => 0
  | x :: r => x % 2 ^ w + 2 ^ w * go r
/-- Lane count of a type. -/
def lanes (t : Fmt) : Nat := 4096 / t.width
/-- Mask bit i. -/
def mbit (m : Mask) (i : Nat) : Bool := m.getLsbD i
/-- A mask of the lanes for which f holds, below L; zero above (R175). -/
def ofMask (l : Nat) (f : Nat → Bool) : Mask :=
  BitVec.ofNat 1024 ((List.range l).foldr (fun i a => 2 * a + (if f i then 1 else 0)) 0)

-- Index words (Table 06-13)

/-- The two indices of an index word: lower dimension in [31:0]. -/
def ixLo (w : Entry) : Nat := w.toNat % 2 ^ 32
def ixHi (w : Entry) : Nat := w.toNat / 2 ^ 32

end Sys2Proof.Machine
end

