-- ==== Sys2Proof/Machine/Flags.lean ====
section
/-! DEFINITION. Machine/Flags.lean: status bits and exceptions of arithmetic: the saturation status of R207, exception
kinds, NXE and the exception list (R167, R433), the format table's entries and their check (R161, R162). -/

namespace Sys2Proof.Machine

/-- The result of an integer operation: wrapped, or clamped with SAT and INX (R207). -/
def putSat (t : Fmt) (sat : Bool) (r : Int) : Entry × Nat :=
  if sat && (decide (r < minOf t) || decide (maxOf t < r)) then (putI t (satI r (minOf t) (maxOf t)), stSAT + stINX)
  else (putI t r, 0)

/-- The same for a vector lane of w bits (R235, R237). -/
def laneSat (t : Fmt) (sat : Bool) (r : Int) : Nat × Nat :=
  if sat && (decide (r < minOf t) || decide (maxOf t < r)) then (wrapN t.width (satI r (minOf t) (maxOf t)), stSAT + stINX)
  else (wrapN t.width r, 0)

/-- Exception kind k is enabled in NXE: bit k − 1 (Table 05-5). -/
def nxeHas (nxe k : Nat) : Bool := decide (0 < k) && bit nxe (k - 1)

/-- An exception-list entry (Table 05-10), two words: bundle offset in the code object, slot, tc0; tc1, kind, element. -/
def xlEntry (off slot tc0 tc1 kind elem : Nat) : List Entry :=
  [BitVec.ofNat 64 (off / 16 % 2 ^ 28 * 2 ^ 36 + slot % 4 * 2 ^ 34 + tc0 % 2 ^ 32),
   BitVec.ofNat 64 (tc1 % 2 ^ 24 * 2 ^ 40 + kind * 2 ^ 32 + elem % 2 ^ 16 * 2 ^ 16)]

/-- NUMERIC with the entry that would have been appended (Table 20-1). -/
def numericCause (slot kind : Nat) (e : List Entry) : Cause :=
  .mk' 9 kind slot [(0x40, 8, wordAt e 0), (0x48, 8, wordAt e 1)]

/-- Conversion events of the operation under issue, as (element, kind) in ascending element index: NUMERIC for the
first whose NXE bit is set, with nothing appended; else each is appended to the exception list, which XLH = 0 discards
(R167, R235, R433). The instruction `i` names the operation in the request. -/
def State.events (s : State) (i : Instr) (evs : List (Nat × Nat)) (k : State → State) : State :=
  let x := s.cx
  let entry (e : Nat × Nat) : List Entry := xlEntry (x.res.noff + s.iss.off) s.iss.slot (x.tc.getD 0 0) (x.tc.getD 1 0) e.2 e.1
  match evs.find? (fun e => nxeHas x.sys.nxe e.2) with
  | some e => s.raise (numericCause s.iss.slot e.2 (entry e))
  | none =>
    if x.sys.xlh = 0 || evs.isEmpty then k s
    else k (s.request i x.sys.xlh 0 1 (evs.map entry).flatten s.fresh).newId

-- The format table (Table 05-7)

/-- Entry e of the format table; an entry never written holds the reset value. -/
def Ctx.fentry (x : Ctx) (e : Nat) : Entry := Tab.get x.ftab e 0x0A000909

/-- The fields of an entry. -/
structure FEnt where
  sexp : Int
  drnd : Nat
  dbt : Nat
  dfmt : Nat
  acch : Nat
  scs : Nat
  bfmt : Nat
  afmt : Nat
deriving DecidableEq, Repr

def FEnt.of (w : Nat) : FEnt where
  sexp := sextN 8 (w / 2 ^ 40)
  drnd := bits w 34 3
  dbt := bits w 32 2
  dfmt := bits w 24 5
  acch := bits w 20 2
  scs := bits w 16 2
  bfmt := bits w 8 5
  afmt := bits w 0 5

/-- The pair is one of Table 05-6. -/
def pairOk (a b : Fmt) : Bool :=
  let f8 (t : Fmt) := t == .e4m3 || t == .e5m2
  let i8 (t : Fmt) := t == .s8 || t == .z8
  (a == .bf16 && b == .bf16) || (a == .f16 && b == .f16) || (f8 a && f8 b) || (i8 a && i8 b)
    || (a == .q4 && b == .q4) || (a == .f32 && b == .f32)

/-- The entry passes R162. -/
def fentryOk (w : Nat) : Bool :=
  let f := FEnt.of w
  let reserved := bits w 48 16 + bits w 37 3 + bits w 29 3 + bits w 22 2 + bits w 18 2 + bits w 13 3 + bits w 5 3
  match Fmt.ofCode f.afmt, Fmt.ofCode f.bfmt, Fmt.ofCode f.dfmt with
  | some a, some b, some d =>
    reserved == 0 && pairOk a b && d != .f64 && f.acch != 3 && decide (f.scs ≤ 1) && f.drnd != 6
      && (f.acch != 2 || a.isInt)
  | _, _, _ => false

/-- The index of the entry that an operation with `fmt=ft` uses: lc mod FTP (R161). -/
def Ctx.ftIndex (x : Ctx) : Nat := x.lc % x.sys.ftp

/-- ILLEGAL/0x08 with the entry's index and word (Table 19-3). -/
def fentryCause (slot ix : Nat) (w : Entry) : Cause := .mk' 1 8 slot [(0x40, 8, ix), (0x48, 8, w.toNat)]

end Sys2Proof.Machine
end

