-- ==== Sys2Proof/Machine/Drain.lean ====
section
/-! DEFINITION. Machine/Drain.lean: accumulator tiles and latches as arrays (R113, R266), and the conversion of a tile by a
drain (R163 to R165, R269 to R271). -/

namespace Sys2Proof.Machine

-- Ranges of a sparse store

/-- Cells `base` to `base + n − 1` as an array. -/
def dense {w : Nat} (m : List (Nat × BitVec w)) (base n : Nat) : Array (BitVec w) :=
  m.foldl (fun (a : Array (BitVec w)) (p : Nat × BitVec w) => if base ≤ p.1 then a.setIfInBounds (p.1 - base) p.2 else a)
    (Array.replicate n 0)

/-- The same cells replaced, in canonical form. -/
def putRange {w : Nat} (m : List (Nat × BitVec w)) (base n : Nat) (f : Nat → BitVec w) : List (Nat × BitVec w) :=
  m.filter (fun p => decide (p.1 < base))
    ++ (List.range n).filterMap (fun k => if f k = 0 then none else some (base + k, f k))
    ++ m.filter (fun p => decide (base + n ≤ p.1))

/-- Words of an accumulator tile, bytes of a latch and of its scale plane (R113, R266). -/
def accWords : Nat := 16384
def latBytes : Nat := 32768
def latScBytes : Nat := 4096

def SpireMem.tile (x : SpireMem) (d : Nat) : Array (BitVec 32) := dense x.acc (d * accWords) accWords
def SpireMem.setTile (x : SpireMem) (d : Nat) (f : Nat → BitVec 32) : SpireMem := { x with acc := putRange x.acc (d * accWords) accWords f }
def SpireMem.latch (x : SpireMem) (l : Nat) : Array Byte := dense x.lat (l * latBytes) latBytes
def SpireMem.latchSc (x : SpireMem) (l : Nat) : Array Byte := dense x.latSc (l * latScBytes) latScBytes
def SpireMem.status (x : SpireMem) (d : Nat) : Nat := Tab.get x.accSt d 0
def SpireMem.setStatus (x : SpireMem) (d v : Nat) : SpireMem := { x with accSt := Tab.set x.accSt d v }

/-- A poisoned word of place `k` (2 accumulator, 3 latch) in a range (R441). -/
def SpireMem.poisonIn (x : SpireMem) (k base n : Nat) : Option Nat :=
  (x.poison.find? (fun w => w.1 == k && decide (base ≤ w.2) && decide (w.2 < base + n))).map (·.2)
/-- A range of place `k` written whole loses its poison (R442). -/
def SpireMem.clean (x : SpireMem) (k base n : Nat) : SpireMem :=
  { x with poison := x.poison.filter (fun w => !(w.1 == k && decide (base ≤ w.2) && decide (w.2 < base + n))) }

/-- The format entry an operation captured. -/
def MOp.ent (m : MOp) : FEnt := FEnt.of m.fe.toNat

/-- What a drain converts to: format, block type, saturation, s32 elements. -/
structure DrainTo where
  fmt : Fmt
  bt : BT
  sat : Bool
  is32 : Bool
deriving DecidableEq, Repr

def FEnt.drainTo (f : FEnt) (sat : Bool) : DrainTo := ⟨(Fmt.ofCode f.dfmt).getD .z8, BT.ofCode f.dbt, sat, f.acch == 2⟩

/-- The drain's format and block type, by its fields or by the captured entry (R269, R271). -/
def MOp.drainTo (m : MOp) : DrainTo :=
  match m.ins with
  | .adrain _ _ is bt sat ft _ t => if ft then m.ent.drainTo sat else ⟨t, bt, sat, is⟩
  | .adrainh _ _ sat _ => m.ent.drainTo sat
  | _ => m.ent.drainTo false

/-- The rounding of element idx = m × 128 + n (R270). -/
def MOp.drainRnd (m : MOp) (idx : Nat) : Rnd := ⟨m.rm, m.seed, m.sctr * 2 ^ 16 + idx⟩

/-- The value of an accumulator element. -/
def accVal (is32 : Bool) (w : BitVec 32) : FV := if is32 then ofInt w.toInt else decodeFlt .f32 w.toNat

/-- Element idx of a tile converted (R165). -/
def MOp.drainElem (m : MOp) (t : DrainTo) (tile : Array (BitVec 32)) (idx : Nat) : Conv :=
  convert (accVal t.is32 (tile.getD idx 0)) t.fmt (m.drainRnd idx) t.sat

/-- Block b of row r of a tile drained to q4 (R164). -/
def MOp.drainBlock (m : MOp) (t : DrainTo) (tile : Array (BitVec 32)) (r b : Nat) : Q4Block :=
  let ix := (List.range 32).map fun j => r * 128 + b * 32 + j
  drainQ4 t.bt (ix.map m.drainRnd) (ix.map fun k => accVal t.is32 (tile.getD k 0))

/-- A whole tile drained: its codes in row order, its scale bytes, status bits, and exception events in ascending idx. -/
structure Drained where
  codes : Array Nat
  scales : Array Nat
  st : Nat
  events : List (Nat × Nat)

def MOp.drainTile (m : MOp) (tile : Array (BitVec 32)) : Drained :=
  let t := m.drainTo
  if t.fmt = .q4 then
    let bs := (List.range 128).flatMap fun r => (List.range 4).map fun b => (r * 128 + b * 32, m.drainBlock t tile r b)
    ⟨(bs.flatMap (fun p => p.2.codes)).toArray, (bs.map (fun p => p.2.scale)).toArray, bs.foldl (fun a p => stOr a p.2.st) 0,
      bs.flatMap (fun p => p.2.events.map (fun e => (p.1 + e.1, e.2)))⟩
  else
    let cs := (List.range accWords).map (m.drainElem t tile)
    ⟨(cs.map (·.code)).toArray, #[], cs.foldl (fun a c => stOr a c.st) 0,
      ((List.range accWords).zip cs).filterMap fun p => if p.2.kind = 0 then none else some (p.1, p.2.kind)⟩

/-- One element or scale byte of the drained tile: row r, column c, or block c. -/
def MOp.drainCell (m : MOp) (tile : Array (BitVec 32)) (r c : Nat) (scale : Bool) : Nat :=
  let t := m.drainTo
  if scale then (m.drainBlock t tile r c).scale
  else if t.fmt = .q4 then (m.drainBlock t tile r (c / 32)).codes.getD (c % 32) 0
  else (m.drainElem t tile (r * 128 + c)).code

end Sys2Proof.Machine
end

