-- ==== Sys2Proof/Machine/Heap.lean ====
section
/-! DEFINITION. Machine/Heap.lean: objects (spec/03): handles and their checks (R78, R114), the object table entry
(Table 03-2) and its check (R81), spaces and rights (R84, R85), tiles and byte offsets (R87, R88), page maps and frames
(R89, R90, R92), reads and writes of versions, drafts and live objects. -/

namespace Sys2Proof.Machine

-- Handles (Table 03-1)

def hpkg (h : Entry) : Nat := bits h.toNat 56 8
def honum (h : Entry) : Nat := bits h.toNat 24 32
def hgchk (h : Entry) : Nat := bits h.toNat 0 24

-- The object table entry (Table 03-2)

def Obj.gen (o : Obj) : Nat := bits (wordAt o.w 0) 40 24
def Obj.cls (o : Obj) : Nat := bits (wordAt o.w 0) 35 2
def Obj.lkind (o : Obj) : Nat := bits (wordAt o.w 0) 32 3
def Obj.rank (o : Obj) : Nat := bits (wordAt o.w 0) 29 3
def Obj.fmtCode (o : Obj) : Nat := bits (wordAt o.w 0) 24 5
def Obj.tblk (o : Obj) : Nat := bits (wordAt o.w 0) 21 3
def Obj.c32 (o : Obj) : Bool := bit (wordAt o.w 0) 20
def Obj.raln (o : Obj) : Bool := bit (wordAt o.w 0) 19
def Obj.repl (o : Obj) : Nat := bits (wordAt o.w 0) 9 3
def Obj.sdim (o : Obj) : Nat := bits (wordAt o.w 0) 6 3
/-- Extent of dimension k. -/
def Obj.ext (o : Obj) (k : Nat) : Nat := bits (wordAt o.w (1 + k / 2)) (32 * (k % 2)) 32
def Obj.cver (o : Obj) : Nat := bits (wordAt o.w 4) 32 32
def Obj.dver (o : Obj) : Nat := bits (wordAt o.w 4) 0 32
def Obj.pinc (o : Obj) : Nat := bits (wordAt o.w 5) 32 32
def Obj.pino (o : Obj) : Nat := bits (wordAt o.w 5) 0 32
def Obj.osid (o : Obj) : Nat := bits (wordAt o.w 9) 48 16
def Obj.orgt (o : Obj) : Nat := bits (wordAt o.w 9) 41 7
def Obj.wrgt (o : Obj) : Nat := bits (wordAt o.w 9) 34 7
def Obj.scnt (o : Obj) : Nat := bits (wordAt o.w 9) 25 9
def Obj.smaph (o : Obj) : Entry := o.w.getD 10 0
def Obj.pages (o : Obj) : Nat := bits (wordAt o.w 12) 0 40
def Obj.wrj (o : Obj) : Nat := bits (wordAt o.w 13) 48 16
def Obj.nsub (o : Obj) : Nat := bits (wordAt o.w 13) 40 8
/-- Element format; z8 stands where the code is reserved (R81 refuses such an entry first). -/
def Obj.fmt (o : Obj) : Fmt := (Fmt.ofCode o.fmtCode).getD .z8
def Obj.live (o : Obj) : Bool := o.cls == 2

/-- An object none of whose words has been written. -/
def blankObj : Obj where
  w := List.replicate 16 0
  maps := []
  retained := []
  rights := []
  subs := []
  closing := none
  publisher := none
  joined := []
  await := []
  prims := []
  taken := []

/-- Bits `lo` to `lo + n − 1` of a word replaced. -/
def putBits (w lo n v : Nat) : Nat := w - bits w lo n * 2 ^ lo + v % 2 ^ n * 2 ^ lo
/-- Word k of the entry replaced. -/
def Obj.setW (o : Obj) (k v : Nat) : Obj := { o with w := o.w.set k (BitVec.ofNat 64 v) }
def Obj.setCver (o : Obj) (v : Nat) : Obj := o.setW 4 (putBits (wordAt o.w 4) 32 32 v)
def Obj.setDver (o : Obj) (v : Nat) : Obj := o.setW 4 (putBits (wordAt o.w 4) 0 32 v)
def Obj.setPinc (o : Obj) (v : Nat) : Obj := o.setW 5 (putBits (wordAt o.w 5) 32 32 v)
def Obj.setPino (o : Obj) (v : Nat) : Obj := o.setW 5 (putBits (wordAt o.w 5) 0 32 v)
def Obj.setWrj (o : Obj) (v : Nat) : Obj := o.setW 13 (putBits (wordAt o.w 13) 48 16 v)
def Obj.setNsub (o : Obj) (v : Nat) : Obj := o.setW 13 (putBits (wordAt o.w 13) 40 8 v)

/-- The entry's first word that breaks R81: a reserved bit, a reserved code, or fields that R83 and R88 exclude. -/
def Obj.malformed (o : Obj) : Option Nat :=
  let w (k : Nat) : Nat := wordAt o.w k
  let w0 := w 0
  let bad0 := bits w0 37 3 != 0 || bits w0 12 4 != 0 || bits w0 0 6 != 0 || o.cls == 3 || decide (5 < o.lkind)
    || (o.cls == 1 && o.lkind != 0) || o.rank == 0 || o.rank == 7 || decide (14 < o.fmtCode) || o.tblk == 7
    || (o.c32 && o.tblk != 0) || (o.tblk != 0 && decide (o.rank < 2)) || o.sdim == 6
    || (o.live && (o.sdim != 7 || o.repl != 0 || o.raln))
  if bad0 then some 0
  else if bits (w 9) 0 25 != 0 then some 9
  else if bits (w 12) 52 12 != 0 then some 12
  else if bits (w 13) 0 40 != 0 then some 13
  else if w 14 != 0 then some 14
  else if w 15 != 0 then some 15
  else none

/-- A cause that concerns an object. -/
def causeO (cls sub slot : Nat) (h : Entry) (ver : Nat) (detail : List (Nat × Nat × Nat)) : Cause := ⟨cls, sub, slot, h, ver, detail⟩

/-- Package q is present: PRES, or this package (R345). -/
def State.present (s : State) (q : Nat) : Bool := q == s.cfg.pkn || s.cfg.pres.getD q false

/-- Handle checks of R78 and R114 at the HRU of tower t, for an object homed here. -/
def State.lookup (s : State) (t slot : Nat) (h : Entry) : Except Cause Obj :=
  let lg := (s.hru t).otlog
  if hpkg h ≠ s.cfg.pkn ∧ !s.present (hpkg h) then .error (causeO 5 1 slot h 0 [(0x40, 1, 0)])
  else if lg < 16 ∨ 26 < lg ∨ honum h = 0 ∨ 2 ^ lg ≤ honum h then .error (causeO 5 1 slot h 0 [(0x40, 1, lg)])
  else match s.obj (honum h) with
    | none => .error (causeO 5 2 slot h 0 [])
    | some o =>
      if o.cls = 0 then .error (causeO 5 2 slot h 0 [])
      else if o.gen ≠ hgchk h then .error (causeO 5 3 slot h 0 [(0x40, 4, o.gen)])
      else match o.malformed with
        | some k => .error (causeO 8 2 slot h 0 [(0x40, 1, k)])
        | none => .ok o

-- Spaces and rights (Table 03-5)

def rRD : Nat := 1
def rWR : Nat := 2
def rPB : Nat := 4
def rPN : Nat := 8
def rRO : Nat := 16
def rRM : Nat := 32
def rMP : Nat := 64

/-- The space lies in the set that the manifest grants (R380). -/
def State.granted (s : State) (sid : Nat) : Bool := s.cfg.grants.any (fun g => decide (g.1 ≤ sid) && decide (sid ≤ g.2))

/-- Rights of space `sid` on an object (R84, R85). -/
def Obj.rightsOf (o : Obj) (sid : Nat) : Nat :=
  if sid = 0 then 127
  else if sid = o.osid then o.orgt
  else match o.rights.find? (fun p => p.1 == sid) with
    | some p => p.2
    | none => o.wrgt

/-- RIGHTS/0x04 unless every right of `need` is held. -/
def Obj.checkRights (o : Obj) (slot sid need : Nat) (h : Entry) : Except Cause Unit :=
  if o.rightsOf sid &&& need = need then .ok ()
  else .error (causeO 5 4 slot h 0 [(0x40, 1, need), (0x41, 1, o.rightsOf sid), (0x48, 2, sid)])

/-- LAYOUT/0x04 with CLASS and LKIND. -/
def Obj.kindCause (o : Obj) (slot : Nat) (h : Entry) : Cause := causeO 8 4 slot h 0 [(0x40, 1, o.cls), (0x41, 1, o.lkind)]
/-- LAYOUT/0x03 with the format expected and found. -/
def fmtCause (slot : Nat) (h : Entry) (want got : Nat) : Cause := causeO 8 3 slot h 0 [(0x40, 1, want), (0x41, 1, got)]
/-- LAYOUT/0x03 of an instruction that accepts several formats: which of them the record names is open. -/
def fmtsCause (slot : Nat) (h : Entry) (got : Nat) : Cause := fmtCause slot h (Sys2Proof.Config.formatExpected got).toNat got
/-- VERSION/sub with CVER and DVER, and for a pin the version asked. -/
def Obj.verCause (o : Obj) (sub slot : Nat) (h : Entry) (more : List (Nat × Nat × Nat)) : Cause :=
  causeO 7 sub slot h o.cver ([(0x40, 4, o.cver), (0x44, 4, o.dver)] ++ more)

-- Elements and offsets (R87, R88)

/-- Index tuple of up to three index words. -/
def indices (a b c : Entry) : List Nat := [ixLo a, ixHi a, ixLo b, ixHi b, ixLo c, ixHi c]

/-- Ceiling division. -/
def cdiv (a b : Nat) : Nat := (a + b - 1) / b

/-- Linear element number of an index tuple (R88). -/
def Obj.linear (o : Obj) (ix : List Nat) : Nat :=
  let i (k : Nat) : Nat := ix.getD k 0
  let e (k : Nat) : Nat := o.ext k
  let e0 := 32 * cdiv (e 0) 32
  if o.c32 then
    i 0 % 32 + 32 * (i 1 + e 1 * (i 2 + e 2 * (i 3 + e 3 * (i 4 + e 4 * (i 5 + e 5 * (i 0 / 32))))))
  else if o.tblk = 0 then i 0 + e0 * (i 1 + e 1 * (i 2 + e 2 * (i 3 + e 3 * (i 4 + e 4 * i 5))))
  else
    let bw := 8192 / o.fmt.width
    let bh := 2 ^ (o.tblk + 2)
    let nb0 := cdiv e0 bw
    let nb1 := cdiv (e 1) bh
    let blk := i 0 / bw + nb0 * (i 1 / bh + nb1 * (i 2 + e 2 * (i 3 + e 3 * (i 4 + e 4 * i 5))))
    blk * bw * bh + i 0 % bw + bw * (i 1 % bh)

/-- Elements that storage gives a version, padding included. -/
def Obj.elements (o : Obj) : Nat :=
  let e (k : Nat) : Nat := o.ext k
  let e0 := 32 * cdiv (e 0) 32
  let outer := e 2 * e 3 * e 4 * e 5
  if o.tblk = 0 then e0 * e 1 * outer
  else
    let bw := 8192 / o.fmt.width
    let bh := 2 ^ (o.tblk + 2)
    cdiv e0 bw * bw * (cdiv (e 1) bh * bh) * outer

/-- First byte of the q4 scale plane: the code plane's length rounded up to a page (R88). -/
def Obj.scalePlane (o : Obj) : Nat := cdiv (o.elements * 4 / 8) 65536 * 65536

/-- Byte offset of an element (R88); a window's elements start at byte 64 (R287). -/
def Obj.offset (o : Obj) (ix : List Nat) : Nat :=
  (if o.live && o.lkind == 4 then 64 else 0) + o.linear ix * o.fmt.width / 8

/-- Index tuple of linear element e, dimension 0 innermost. -/
def Obj.elemIx (o : Obj) (e : Nat) : List Nat :=
  let step (a : Nat × List Nat) (k : Nat) : Nat × List Nat := (a.1 / max 1 (o.ext k), a.2 ++ [a.1 % max 1 (o.ext k)])
  ((List.range 6).foldl step (e, [])).2
/-- Elements of an object. -/
def Obj.count (o : Obj) : Nat := o.ext 0 * o.ext 1 * o.ext 2 * o.ext 3 * o.ext 4 * o.ext 5
/-- Words that instructions address by element index: a window and a closure have one (R300, R313). -/
def Obj.words (o : Obj) : Nat := if o.lkind = 3 ∨ o.lkind = 4 then 1 else o.count
/-- Byte offset of addressed word e: a future takes 16 bytes; ARV and the closure element stand at 0 (R127, R287, R313). -/
def Obj.wordOff (o : Obj) (e : Nat) : Nat :=
  if o.lkind = 3 ∨ o.lkind = 4 then 0 else if o.lkind = 2 then 16 * e else o.offset (o.elemIx e)

/-- Every index is below its extent; those of dimensions at or beyond RANK are 0 (R87). -/
def Obj.inExt (o : Obj) (ix : List Nat) : Bool := (List.range 6).all (fun k => decide (ix.getD k 0 < (if k < o.rank then o.ext k else 1)))

/-- Bytes of one version. -/
def Obj.bytes (o : Obj) : Nat := o.pages * 65536

/-- BOUNDS/0x04 with the index words (Table 19-3) (DEDUCED, log 34). -/
def ixCause (slot : Nat) (h : Entry) (a b c : Entry) : Cause :=
  causeO 4 4 slot h 0 [(0x40, 8, a.toNat), (0x48, 8, b.toNat), (0x50, 8, c.toNat)]

-- Pages and frames (Table 03-7, R89 to R92)

def peST (e : Entry) : Nat := bits e.toNat 61 3
def peIL (e : Entry) : Bool := bit e.toNat 60
def peSH (e : Entry) : Bool := bit e.toNat 59
def peRL (e : Entry) : Bool := bit e.toNat 58
def pePKG (e : Entry) : Nat := bits e.toNat 48 8
def peFRAME (e : Entry) : Nat := bits e.toNat 0 24
/-- A page in state zero. -/
def peZero : Entry := BitVec.ofNat 64 (5 * 2 ^ 61)

/-- Page map entry of a version: a versioned object's pages start in state zero (R100), a live object's absent (DESIGN CHOICE, log 28). -/
def Obj.page (o : Obj) (ver p : Nat) : Entry :=
  Tab.get (Tab.get o.maps ver []) p (if o.live then 0 else peZero)
def Obj.setPage (o : Obj) (ver p : Nat) (e : Entry) : Obj :=
  { o with maps := Tab.set o.maps ver (Tab.set (Tab.get o.maps ver []) p e) }

/-- First physical address of HBM frame f, and of LPDDR frame g (DESIGN CHOICE, log 93: the spec places neither). -/
def hbmAddr (f : Nat) : Nat := f * 65536
def lpAddr (g : Nat) : Nat := 2 ^ 40 + g * 65536

/-- DRAM address of byte `o` of a page in HBM frame f: a row-aligned frame holds it in order (R90); sector k of frame j of an interleave group
(s, g) stands in pseudo-channel (k + j) mod 64 of the stack, at sector 4 j + k div 64 of frame g there (R91). -/
def frameAddr (il : Bool) (f o : Nat) : Nat :=
  if il then
    let k := o / 256
    let j := f % 2 ^ 20 / 2 ^ 14
    hbmAddr (f / 2 ^ 20 * 2 ^ 20 + (k + j) % 64 * 2 ^ 14 + f % 2 ^ 14) + (4 * j + k / 64) * 256 + o % 256
  else hbmAddr f + o

/-- What an access to a page finds. -/
inductive Loc
  | mem (addr : Nat)
  | zero
  | held (sub page : Nat) (e : Entry)
  | remote (pkg addr : Nat)
deriving DecidableEq, Repr

/-- Where byte `off` of a version is under the entry `e` of its page (R89). -/
def locEntry (e : Entry) (off : Nat) : Loc :=
  let p := off / 65536
  match peST e with
  | 1 => .mem (frameAddr (peIL e) (peFRAME e) (off % 65536))
  | 2 => .mem (lpAddr (peFRAME e) + off % 65536)
  | 3 => .remote (pePKG e) (if peRL e then lpAddr (peFRAME e) + off % 65536 else frameAddr (peIL e) (peFRAME e) (off % 65536))
  | 5 => .zero
  | 4 => .held 2 p e
  | _ => .held 1 p e

/-- Where byte `off` of a version is, by its page map. -/
def Obj.locate (o : Obj) (ver off : Nat) : Loc := locEntry (o.page ver (off / 65536)) off

/-- The byte of a version at `off`; a zero page and a byte held elsewhere read 0 here (the access rules hold such
accesses before they read). -/
def State.objByte (s : State) (o : Obj) (ver off : Nat) : Byte :=
  match o.locate ver off with
  | .mem a => cellGet s.mem a
  | _ => 0

/-- `n` bytes of a version from `off`, as a number. -/
def State.objRead (s : State) (o : Obj) (ver off : Nat) : Nat → Nat
  | 0 => 0
  | n + 1 => (s.objByte o ver off).toNat + 256 * State.objRead s o ver (off + 1) n

/-- The first page that keeps an access to these bytes from being performed here (R89, R425). -/
def Obj.blocked (o : Obj) (ver : Nat) (offs : List Nat) : Option Loc :=
  (offs.map (fun f => o.locate ver f)).find? (fun p => match p with
    | .held _ _ _ => true
    | .remote _ _ => true
    | _ => false)

/-- DRAM bytes written; a poisoned 8-byte word written whole is clean again (R442). -/
def State.dramPut (s : State) (b : List (Nat × Byte)) : State :=
  { s with
    mem := cellsPut s.mem b
    poison := if s.poison.isEmpty then []
      else s.poison.filter (fun w => !(List.range 8).all (fun j => b.any (fun p => p.1 == w + j))) }

/-- These DRAM bytes hold poison (R441). -/
def State.dramPoisoned (s : State) (addrs : List Nat) : Bool :=
  !s.poison.isEmpty && addrs.any (fun a => s.poison.contains (a / 8 * 8))

/-- Bytes of a live object written in place. -/
def State.liveWrite (s : State) (o : Obj) (b : List (Nat × Byte)) : State :=
  s.dramPut (b.filterMap (fun p => match o.locate 0 p.1 with
    | .mem a => some (a, p.2)
    | _ => none))

/-- `n` bytes of `v` written to a live object at `off`. -/
def State.liveWriteLE (s : State) (o : Obj) (off v n : Nat) : State :=
  s.liveWrite o (((List.range n).zip (leBytes v n)).map (fun p => (off + p.1, p.2)))

-- Pins (R105, R106)

/-- Version v is held: CVER, or a retained older version. -/
def Obj.holds (o : Obj) (v : Nat) : Bool := o.cver == v || Tab.has o.retained v
/-- One more pin of version v. -/
def Obj.pinAdd (o : Obj) (v : Nat) : Obj :=
  if v = o.cver then o.setPinc (o.pinc + 1)
  else ({ o with retained := Tab.set o.retained v (Tab.get o.retained v 0 + 1) }).setPino (o.pino + 1)
/-- One pin of version v less; an older version whose count reaches zero retires (R106). -/
def Obj.pinDrop (o : Obj) (v : Nat) : Obj :=
  if v = o.cver then o.setPinc (o.pinc - 1)
  else if Tab.has o.retained v then
    let n := Tab.get o.retained v 0 - 1
    ({ o with
        retained := if n = 0 then Tab.del o.retained v else Tab.set o.retained v n
        maps := if n = 0 then Tab.del o.maps v else o.maps }).setPino (o.pino - 1)
  else o
/-- An object homed here, by its handle. -/
def State.here (s : State) (h : Entry) : Option Obj :=
  if hpkg h ≠ s.cfg.pkn then none
  else match s.obj (honum h) with
    | some o => if o.gen = hgchk h ∧ o.cls ≠ 0 then some o else none
    | none => none
/-- An object homed here changed. -/
def State.modHere (s : State) (h : Entry) (f : Obj → Obj) : State :=
  match s.here h with
  | some o => s.setObj (honum h) (f o)
  | none => s

-- Drafts (R101, R102)

/-- The first write to this page of the draft takes a frame: the page is shared with the previous version, or in state zero (R102). One that is absent
or in transit is held before that (R89). -/
def Obj.mustShadow (o : Obj) (p : Nat) : Bool :=
  let e := o.page o.dver p
  peST e == 5 || (peSH e && (peST e == 1 || peST e == 2 || peST e == 3))
/-- The bytes that the frame takes stand on another package. -/
def Obj.mustPull (o : Obj) (p : Nat) : Bool := peSH (o.page o.dver p) && peST (o.page o.dver p) == 3

/-- Bytes of a page of a version that are not zero, by their offset in the page, and the offsets of its poisoned words. -/
def State.pageBytes (s : State) (o : Obj) (ver p : Nat) : List (Nat × Byte) :=
  (List.range 256).flatMap fun k => match o.locate ver (p * 65536 + 256 * k) with
    | .mem a => (s.mem.filter (fun m : Nat × Byte => decide (a ≤ m.1) && decide (m.1 < a + 256))).map (fun m : Nat × Byte => (m.1 - a + 256 * k, m.2))
    | _ => []
def State.pageBad (s : State) (o : Obj) (ver p : Nat) : List Nat :=
  if s.poison.isEmpty then []
  else (List.range 256).flatMap fun k => match o.locate ver (p * 65536 + 256 * k) with
    | .mem a => (s.poison.filter (fun w => decide (a ≤ w) && decide (w < a + 256))).map (fun w => w - a + 256 * k)
    | _ => []

/-- Frame f of the pool of tower t holds these bytes and poisoned words, and is page p of the draft, private to it (R102, R441). -/
def State.giveFrame (s : State) (t onum : Nat) (o : Obj) (p f : Nat) (b : List (Nat × Byte)) (bad : List Nat) : State × Obj :=
  let base := hbmAddr f
  let out (a : Nat) : Bool := !(decide (base ≤ a) && decide (a < base + 65536))
  let o' := { o.setPage o.dver p (BitVec.ofNat 64 (2 ^ 61 + f)) with taken := (f, t) :: o.taken.filter (fun q => q.1 != f) }
  ({ s with
      mem := cellsPut (s.mem.filter (fun m => out m.1)) (b.map (fun m : Nat × Byte => (base + m.1, m.2)))
      poison := s.poison.filter out ++ bad.map (base + ·) }.setObj onum o', o')

/-- A page of the draft made private to it: its own frame, filled from the shared frame or with zeros; none where the
tower's shadow pool is empty (R102) (DEDUCED, log 27). -/
def State.shadow (s : State) (t onum : Nat) (o : Obj) (p : Nat) : Option (State × Obj) :=
  if !o.mustShadow p then some (s, o)
  else match (s.hru t).pool with
    | [] => none
    | f :: r => some ((s.modHru t (fun x => { x with pool := r })).giveFrame t onum o p f (s.pageBytes o o.dver p) (s.pageBad o o.dver p))

/-- Draft bytes written, after the shadowing of their pages; `none` where a pool is empty (DEDUCED, log 27). -/
def State.draftWrite (s : State) (t onum : Nat) (o : Obj) (b : List (Nat × Byte)) : Option State :=
  let pages := b.foldl (fun l p => if l.contains (p.1 / 65536) then l else l ++ [p.1 / 65536]) []
  let r := pages.foldl (fun a p => match a with
    | some (s, o) => s.shadow t onum o p
    | none => none) (some (s, o))
  match r with
  | none => none
  | some (s, o) => some (s.dramPut (b.filterMap (fun p => match o.locate o.dver p.1 with
      | .mem a => some (a, p.2)
      | _ => none)))

end Sys2Proof.Machine
end

