-- ==== Sys2Proof/Machine/Closure.lean ====
section
/-! DEFINITION. Machine/Closure.lean: closures and weight (R65 to R70, R313, R437): the closure element at its home,
return accumulators, the split of a share with its borrow, and the end of a task (R77, R224, R413). -/

namespace Sys2Proof.Machine

/-- Tower whose stack holds HBM frame f: two stacks to a tower (R83, R90). -/
def towerOfFrame (f : Nat) : Nat := f / 2 ^ 21 % 4

/-- Home HRU of the word at `off` of a live object (R83) (DESIGN CHOICE, log 28). -/
def Obj.homeTower (o : Obj) (off : Nat) : Nat := towerOfFrame (peFRAME (o.page 0 (off / 65536)))

/-- A live object of kind `k` homed here, by its handle. -/
def State.liveOf (s : State) (h : Entry) (k : Nat) : Option Obj :=
  if hpkg h ≠ s.cfg.pkn then none
  else match s.obj (honum h) with
    | some o => if o.live ∧ o.lkind = k ∧ o.gen = hgchk h then some o else none
    | none => none

/-- The fields of a closure element (Table 11-4). -/
structure Clo where
  issued : Nat
  returned : Nat
  borrows : Nat
  st : Nat
  w0 : Nat
deriving DecidableEq, Repr

def State.clo (s : State) (o : Obj) : Clo where
  issued := s.objRead o 0 0 8
  returned := s.objRead o 0 8 8
  borrows := s.objRead o 0 16 8
  st := bits (s.objRead o 0 24 8) 62 2
  w0 := bits (s.objRead o 0 24 8) 0 32

def State.setClo (s : State) (o : Obj) (c : Clo) : State :=
  (((s.liveWriteLE o 0 c.issued 8).liveWriteLE o 8 c.returned 8).liveWriteLE o 16 c.borrows 8).liveWriteLE o 24
    (c.st * 2 ^ 62 + c.w0) 8

/-- Weight returned at the home: RETURNED grows; equal to ISSUED it closes an OPEN closure; a CLOSED one refuses it and
CLOSURE/0x01 is posted (R65, R437). -/
def State.closureReturn (s : State) (h : Entry) (w : Nat) : State :=
  match s.liveOf h 3 with
  | none => s.eventHru 0 (causeO 5 3 0 h 0 [])
  | some o =>
    let c := s.clo o
    if c.st = 2 then s.eventHru (o.homeTower 0) (causeO 11 1 0 h 0 [(0x40, 8, w)])
    else
      let r := c.returned + w
      s.setClo o { c with returned := r, st := if c.st = 1 ∧ r = c.issued then 2 else c.st }

/-- A flush or a tracked return on its way to the closure's home. -/
def State.sendReturn (s : State) (h : Entry) (w : Nat) : State :=
  if h = 0 ∨ w = 0 then s else ({ s with wret := s.wret ++ [(h, w)] }).later [.weightReturn]

/-- Accumulator k of a spire flushed (R69). -/
def State.flushAcc (s : State) (sp k : Nat) : State :=
  match (s.spire sp).racc[k]? with
  | none => s
  | some a => (s.modSpire sp (fun x => { x with racc := x.racc.eraseIdx k })).sendReturn a.h a.sum

/-- Weight added to the spire's return accumulator for `h`; the least recently used of eight others is flushed first
(R69). -/
def State.addReturn (s : State) (sp : Nat) (h : Entry) (w : Nat) : State :=
  if h = 0 then s
  else
    let l := (s.spire sp).racc
    match l.find? (fun a => a.h == h) with
    | some a =>
      s.modSpire sp (fun x => { x with racc :=
        { a with sum := a.sum + w, since := if a.sum = 0 then 0 else a.since } :: x.racc.filter (fun b => b.h != h) })
    | none =>
      if w = 0 then s
      else (if l.length < 8 then s else s.flushAcc sp (l.length - 1)).modSpire sp
        (fun x => { x with racc := ⟨h, w, 0⟩ :: x.racc })

/-- WGT of the descriptor share under R67 when no borrow is needed: the share and what the holder keeps. -/
def splitPlain (wgt req : Nat) : Option (Nat × Nat) :=
  let share := if req = 0 then wgt / 2 else req
  if share = 0 ∨ wgt ≤ share then none else some (share, wgt - share)

/-- The borrow at the home: how much is needed, and ISSUED and BORROWS after it; refused when the holder's weight would
pass 2^32 − 1 (R67). -/
def State.borrowAt (s : State) (h : Entry) (wgt req : Nat) : State × Option Nat :=
  match s.liveOf h 3 with
  | none => (s, none)
  | some o =>
    let c := s.clo o
    let share := if req = 0 then wgt / 2 else req
    let need := max c.w0 (max (share + 1 - wgt) (2 - wgt))
    if 2 ^ 32 ≤ wgt + need then (s, none)
    else (s.setClo o { c with issued := c.issued + need, borrows := c.borrows + 1 }, some need)

-- The end of a task

/-- A request that retirement makes of the object homes, after every earlier one of the context (R105, R224). -/
def leaveReq (i : Instr) (sp c : Nat) (x : Ctx) (h : Entry) (v : Nat) : Req :=
  ⟨i, sp, c, x.res.tid, x.sys.sid, 0, 3, 0, h, BitVec.ofNat 64 v, 1, [], 0⟩

/-- Unpins and departures from drafts sent to the homes (R105, R224): `pins` and `drafts` are left. -/
def State.sendLeaves (s : State) (sp c : Nat) (x : Ctx) (pins : List Pin) (drafts : List (Entry × Nat)) : State :=
  let un := pins.map (fun p => leaveReq (.objUnpin ⟨0, false⟩) sp c x p.h p.v)
  let lv := drafts.map (fun d => leaveReq (.objAbandon ⟨0, false⟩) sp c x d.1 d.2)
  (s.modSpire sp (fun y => { y with out := y.out ++ un ++ lv })).sendOut sp

/-- A launch slot changed, where it holds an active launch. -/
def State.modSlot (s : State) (t l : Nat) (f : Slot → Slot) : State :=
  s.modArb t (fun a => { a with slots := a.slots.map (fun p => if p.1 = l then (p.1, p.2.map f) else p) })

/-- The launch slot l of tower t. -/
def State.slot (s : State) (t l : Nat) : Option Slot := ((s.arb t).slots.find? (fun p => p.1 == l)).bind (·.2)

/-- One task of a launch slot is created or retired (R48, R77); the slot retires when none is left. -/
def State.taskMade (s : State) (t l : Nat) : State := s.modSlot t l (fun x => { x with live := x.live + 1 })
/-- A task's code version stays pinned from its creation until it retires (R71, R77). -/
def State.pinCode (s : State) (h : Entry) (v : Nat) : State := s.modHere h (fun o => o.pinAdd v)
def State.unpinCode (s : State) (h : Entry) (v : Nat) : State := s.modHere h (fun o => o.pinDrop v)
def State.taskGone (s : State) (t l : Nat) : State :=
  (s.modSlot t l (fun x => { x with live := x.live - 1 })).later [.launchRetire (Fin.ofNat 4 t) (Fin.ofNat 64 l)]

/-- A context that holds no task; tile-store writes and faults under way remain (R224, R406) (DEDUCED, log 32). -/
def Ctx.cleared (x : Ctx) : Ctx := { Ctx.reset with tsw := x.tsw, dtrap := x.dtrap }

/-- THE TASK RETIRES (R77, R224 step 4): results in flight are discarded, queues emptied, drafts left, pins released,
its weight returned, its context freed, its resources once no operation uses them (R277), its launch slot told. -/
def State.retire (s : State) (sp c : Nat) : State :=
  let x := s.ctx sp c
  let s1 := s.addReturn sp x.sys.cls x.sys.wgt
  let s2 := s1.modSpire sp (fun y => { y.setCtx c x.cleared with
    linger := x.res :: y.linger
    loopOwner := if y.loopOwner = some c then none else y.loopOwner })
  ((s2.unpinCode x.res.codeh x.sys.cvr).sendLeaves sp c x x.pins x.drafts).taskGone x.res.ltwr x.res.lslot

/-- The return stack above and below the topmost fork entry (R224 step 3). -/
def splitFork : List RFrame → Option (RFrame × List RFrame)
  | [] => none
  | .call _ :: r => splitFork r
  | f :: r => some (f, r)

/-- The topmost inline task ends (R61, R224 step 3): its weight is returned, its pins are released, the forker's task
state comes back; the answer is the forker's return offset. -/
def State.endInline (s : State) (sp c : Nat) : State × Nat :=
  let x := s.ctx sp c
  match splitFork x.rstk with
  | some (.fork tc wgt cls cver ret, r) =>
    let d := x.depth
    let s1 := s.addReturn sp x.sys.cls x.sys.wgt
    let s2 := s1.setCtx sp c { x with
      rstk := r
      tc := tc
      sys := { x.sys with wgt := wgt, cls := cls, cvr := cver }
      pins := x.pins.filter (fun p => p.depth != d)
      loop := match x.loop with
        | some l => if l.depth = d then none else some l
        | none => none
      lc := match x.loop with
        | some l => if l.depth = d then 0 else x.lc
        | none => x.lc
      lb := match x.loop with
        | some l => if l.depth = d then 0 else x.lb
        | none => x.lb }
    ((s2.unpinCode x.res.codeh x.sys.cvr).sendLeaves sp c x (x.pins.filter (fun p => p.depth == d)) [], ret)
  | _ => (s, x.pc)

/-- Inline frames unwound, outermost last (R413 step 2): each frame's weight is returned and its pins released. -/
def State.unwind (s : State) (sp c : Nat) : Nat → State
  | 0 => s
  | n + 1 => if (s.ctx sp c).depth = 0 then s else State.unwind (s.endInline sp c).1 sp c n

/-- R413: the snapshot is discarded, inline frames are unwound, an open pair is closed, the task retires. -/
def State.terminate (s : State) (sp c : Nat) : State :=
  let s1 := (s.modCtx sp c (fun x => { x with inflight := [], deferred := [] })).unwind sp c 16
  let x := s1.ctx sp c
  let s2 := if x.sys.opv then
      (s1.addReturn sp x.sys.cls x.sys.wgt).modCtx sp c (fun y => { y with sys :=
        { y.sys with cls := y.sys.ocls, wgt := y.sys.owgt, ocls := 0, owgt := 0, opv := false } })
    else s1
  s2.retire sp c

/-- `accFlushTimer`: accumulator k has been non-zero for 1,024 sc (R69). -/
def execAccFlushTimer (sp : Fin 128) (k : Fin 8) (s : State) : Out :=
  .next (match (s.spire sp).racc[k.val]? with
    | some a => if a.sum ≠ 0 ∧ 1024 ≤ a.since then s.flushAcc sp k else s
    | none => s)

/-- The spire holds a context, deque entry or inline frame whose closure is h (R69). -/
def Spire.holds (x : Spire) (h : Entry) : Bool :=
  x.ctxs.any (fun p => p.2.st != .free && (p.2.sys.cls == h || p.2.rstk.any (fun f => match f with
    | .fork _ _ cls _ _ => cls == h
    | .call _ => false)))
  || x.deque.any (fun d => d.clsh == h)

/-- `accFlushIdle`: the spire holds nothing of the closure (R69). -/
def execAccFlushIdle (sp : Fin 128) (k : Fin 8) (s : State) : Out :=
  .next (match (s.spire sp).racc[k.val]? with
    | some a => if a.sum ≠ 0 ∧ (s.spire sp).holds a.h = false then s.flushAcc sp k else s
    | none => s)

-- The save area (R46, R139, R417)

def recTsp (w : List Entry) : Nat := bits (wordAt w 6) 8 9
def recAcc (w : List Entry) : Nat := bits (wordAt w 6) 24 8
def recLat (w : List Entry) : Nat := bits (wordAt w 6) 32 3
def recSaven (w : List Entry) : Nat := bits (wordAt w 6) 40 8
/-- Bytes of a save slot, S of R46. -/
def slotBytes (w : List Entry) : Nat := 0x10000 + recTsp w * 0x4000 + recAcc w * 0x10000 + recLat w * 0x8000

/-- DRAM address of byte `off` of the launch's save area, where its page is in HBM. -/
def State.saveAddr (s : State) (l : Launch) (off : Nat) : Option Nat :=
  match s.liveOf (l.words.getD 7 0) 0 with
  | none => none
  | some o =>
    if o.bytes ≤ off then none
    else match o.locate 0 off with
      | .mem a => some a
      | _ => none

/-- The launch and the save slot that hold a saved task's image. -/
def State.imagePlace (s : State) (tid : Nat) : Option (Launch × Nat × SaveImg) :=
  (s.towers.flatMap (fun p => p.2.arb.slots.flatMap (fun q => match q.2 with
    | some y => y.imgs.map (fun i => (y.l, i.1, i.2))
    | none => []))).find? (fun i => i.2.2.valid && i.2.2.ctx.res.tid == tid)

/-- Tile-store bytes that differ between two images, as the second holds them. -/
def SpireMem.changed (x y : SpireMem) : List (Nat × Byte) :=
  y.ts.filter (fun p => Tab.get x.ts p.1 0 != p.2) ++ (x.ts.filter (fun p => !Tab.has y.ts p.1)).map (fun p => (p.1, 0))

/-- The stores of a saved task changed by f, offsets relative to its allocation; the tile-store bytes that change are written to its image
in the save area, whose pages begin at 0x1_0000 of the slot (R139, Table 19-9). -/
def State.modImage (s : State) (tid : Nat) (f : SpireMem → SpireMem) : State :=
  match s.imagePlace tid with
  | none => s
  | some (l, img, i) =>
    (s.dramPut ((i.mem.changed (f i.mem)).filterMap (fun p =>
        (s.saveAddr l (img * slotBytes l.words + 0x10000 + p.1)).map (fun a => (a, p.2))))).mapImages
      (fun i => if i.valid && i.ctx.res.tid == tid then { i with mem := f i.mem } else i)

end Sys2Proof.Machine
end

