-- ==== Sys2Proof/Machine/Cache.lean ====
section
/-! DEFINITION. Machine/Cache.lean: L1, the instruction cache and the dome L2 (R18, R34, R96 to R99, R109, R264): lines, the ways they take, the bytes they
hold, draft bytes on their way to their frame, and PURGE (R115). -/

namespace Sys2Proof.Machine

-- Lines

/-- Line and sector of a byte offset in a version: 1,024-byte lines of four 256-byte sectors. -/
def lineOf (off : Nat) : Nat := off / 1024
def secOf (off : Nat) : Nat := off % 1024 / 256

/-- The line of a tag: space, handle, version, line number (R96). -/
def CLine.tags (l : CLine) (sid : Nat) (h : Entry) (ver ix : Nat) : Bool := l.sid == sid && l.h == h && l.ver == ver && l.ix == ix

/-- The shape of a cache: sets, ways, and how many consecutive lines of an object go to other slices between two of this one. -/
structure Geo where
  sets : Nat
  ways : Nat
  div : Nat

def geoL1 : Geo := ⟨64, 8, 1⟩
def geoIc : Geo := ⟨32, 4, 1⟩
def geoL2 : Geo := ⟨256, 16, 4⟩

/-- The set that a line takes (DESIGN CHOICE, log 26: the spec gives the number of sets and the slice, not the set). -/
def Geo.set (g : Geo) (ix : Nat) : Nat := ix / g.div % g.sets

def findLine (c : List CLine) (sid : Nat) (h : Entry) (ver ix : Nat) : Option CLine := c.find? (fun l => l.tags sid h ver ix)

/-- `n` bytes at `off` of a version, and whether they hold poison; none unless their sector is here. -/
def readLine (c : List CLine) (sid : Nat) (h : Entry) (ver off n : Nat) : Option (Nat × Bool) :=
  match findLine c sid h ver (lineOf off) with
  | none => none
  | some l =>
    if l.valid.contains (secOf off) then
      some (ofBytes ((List.range n).map (fun k => Tab.get l.data (off % 1024 + k) 0)),
        l.bad.any (fun w => decide (w < off % 1024 + n) && decide (off % 1024 < w + 8)))
    else none

/-- A line that is used becomes the first. -/
def useLine (c : List CLine) (sid : Nat) (h : Entry) (ver ix : Nat) : List CLine :=
  match findLine c sid h ver ix with
  | some l => l :: c.erase l
  | none => c

/-- A sector's bytes enter the line; bytes written to a draft stay. -/
def CLine.fill (l : CLine) (sec : Nat) (b : List Byte) (bad : List Nat) : CLine :=
  if l.valid.contains sec then l
  else
    let new := ((List.range b.length).zip b).filter (fun p => !l.dirty.contains (256 * sec + p.1))
    { l with
      valid := sec :: l.valid
      data := new.foldl (fun d p => if p.2 = 0 then Tab.del d (256 * sec + p.1) else Tab.set d (256 * sec + p.1) p.2) l.data
      bad := l.bad ++ bad.map (256 * sec + ·) }

/-- Bytes written to a draft, at offsets in the line; a word written whole is clean again (R442). -/
def CLine.put (l : CLine) (b : List (Nat × Byte)) (bad : List Nat) : CLine :=
  { l with
    data := b.foldl (fun d p => Tab.set d p.1 p.2) l.data
    dirty := b.foldl (fun d p => if d.contains p.1 then d else d ++ [p.1]) l.dirty
    bad := l.bad.filter (fun w => !(List.range 8).all (fun j => b.any (fun p => p.1 == w + j))) ++ bad }

/-- A line with nothing in it. -/
def blankLine (sid : Nat) (h : Entry) (ver ix way : Nat) : CLine := ⟨sid, h, ver, ix, way, [], [], [], [], []⟩

/-- The lowest way of a set that holds no line and may be filled. -/
def freeWay (g : Geo) (c : List CLine) (set : Nat) (no : List Nat) : Option Nat :=
  (List.range g.ways).find? (fun w => !no.contains w && !c.any (fun l => g.set l.ix == set && l.way == w))
/-- The line of a set that a fill replaces: the one not used for longest among those that nothing pins (DESIGN CHOICE, log 26). -/
def victimLine (g : Geo) (c : List CLine) (set : Nat) (no : List Nat) : Option CLine :=
  (c.filter (fun l => g.set l.ix == set && !no.contains l.way && l.pins.isEmpty)).getLast?

/-- A cache of read-only lines with one more sector; where no way can be had the sector is not kept. -/
def fillLine (g : Geo) (c : List CLine) (sid : Nat) (h : Entry) (ver off : Nat) (b : List Byte) (bad : List Nat) : List CLine :=
  let ix := lineOf off
  match findLine c sid h ver ix with
  | some l => l.fill (secOf off) b bad :: c.erase l
  | none =>
    let new (w : Nat) : CLine := (blankLine sid h ver ix w).fill (secOf off) b bad
    match freeWay g c (g.set ix) [], victimLine g c (g.set ix) [] with
    | some w, _ => new w :: c
    | none, some v => new v.way :: c.erase v
    | none, none => c

-- The dome L2

/-- The slice of a line (R96), and the index of slice k of the dome of a spire. -/
def sliceOf (h : Entry) (off : Nat) : Nat := (honum h + lineOf off) % 4
def l2At (sp : Nat) (h : Entry) (off : Nat) : Nat := sp % 32 / 8 * 4 + sliceOf h off

def State.l2 (s : State) (t i : Nat) : List CLine := Tab.get (s.tower t).l2 i []
def State.setL2 (s : State) (t i : Nat) (c : List CLine) : State := s.modTower t (fun x => { x with l2 := Tab.set x.l2 i c })

/-- The ways of a slice that take no fill: gated, or still waking (R34, R35). -/
def State.l2Closed (s : State) (t i : Nat) : List Nat :=
  ((s.tower t).l2gated.filter (fun w => w.1 == i / 4 && w.2.1 == i % 4)).map (·.2.2)

/-- The draft bytes of a line written back to their frame, with their poison (R98, R441); none while a page of them is not here. Those of a draft that is
gone are dropped (R99). -/
def State.writeBack (s : State) (l : CLine) : Option State :=
  match s.here l.h with
  | none => some s
  | some o =>
    if o.dver ≠ l.ver then some s
    else
      let at_ (k : Nat) : Option Nat := match o.locate l.ver (1024 * l.ix + k) with
        | .mem a => some a
        | _ => none
      if l.dirty.all (fun k => (at_ k).isSome) then
        let s1 := s.dramPut (l.dirty.filterMap (fun k => (at_ k).map (fun a => (a, Tab.get l.data k 0))))
        some { s1 with poison := s1.poison ++ (l.bad.filterMap at_).filter (fun a => !s1.poison.contains a) }
      else none

/-- A line that has been written back holds no draft bytes; one that holds nothing else is gone. -/
def cleanLine (c : List CLine) (l : CLine) : List CLine :=
  if l.valid.isEmpty && l.pins.isEmpty then c.erase l else c.map (fun x => if x = l then { x with dirty := [], bad := [] } else x)

/-- Every L2 slice of the package that holds lines: (tower, slice index, line). -/
def State.l2Lines (s : State) : List (Nat × Nat × CLine) :=
  s.towers.flatMap fun p => p.2.l2.flatMap fun q => q.2.map fun l => (p.1, q.1, l)

/-- The dirty lines that `f` chooses are written back, where their pages are here. -/
def State.flush (s : State) (f : Nat → Nat → CLine → Bool) : State :=
  (s.l2Lines.filter (fun q => !q.2.2.dirty.isEmpty && f q.1 q.2.1 q.2.2)).foldl (fun s q => match s.writeBack q.2.2 with
    | some s1 => s1.setL2 q.1 q.2.1 (cleanLine (s1.l2 q.1 q.2.1) q.2.2)
    | none => s) s

/-- A dirty line that `f` chooses is left. -/
def State.dirtyLeft (s : State) (f : Nat → Nat → CLine → Bool) : Bool := s.l2Lines.any (fun q => !q.2.2.dirty.isEmpty && f q.1 q.2.1 q.2.2)

/-- Dirty bytes of a version that `f` chooses by tower and offset are discarded without write-back (R99, R334). -/
def State.discard (s : State) (h : Entry) (ver : Nat) (f : Nat → Nat → Bool) : State :=
  if !s.dirtyLeft (fun _ _ l => l.h == h && l.ver == ver) then s
  else
    let one (t : Nat) (l : CLine) : Option CLine :=
      if l.h = h ∧ l.ver = ver then
        let d := l.dirty.filter (fun k => !f t (1024 * l.ix + k))
        if d.isEmpty && l.valid.isEmpty && l.pins.isEmpty then none
        else some { l with dirty := d, bad := l.bad.filter (fun w => !f t (1024 * l.ix + w)) }
      else some l
    { s with towers := s.towers.map (fun (p : Nat × Tower) => (p.1, { p.2 with l2 := p.2.l2.map (fun q => (q.1, q.2.filterMap (one p.1))) })) }

/-- A way for a new line of a slice, its victim written back and gone; none where every way is pinned, closed or cannot be written back. -/
def State.l2Room (s : State) (t i ix : Nat) : Option (State × Nat) :=
  let c := s.l2 t i
  let set := geoL2.set ix
  match freeWay geoL2 c set (s.l2Closed t i), victimLine geoL2 c set (s.l2Closed t i) with
  | some w, _ => some (s, w)
  | none, none => none
  | none, some v =>
    if v.dirty.isEmpty then some (s.setL2 t i (c.erase v), v.way)
    else (s.writeBack v).map (fun s1 => (s1.setL2 t i ((s1.l2 t i).erase v), v.way))

/-- A line of the dome L2 of a spire changed; a new one takes a way. None where it finds none. -/
def State.modL2Line (s : State) (sp sid : Nat) (h : Entry) (ver off : Nat) (f : CLine → CLine) : Option State :=
  let t := towerOf sp
  let i := l2At sp h off
  let ix := lineOf off
  match findLine (s.l2 t i) sid h ver ix with
  | some l => some (s.setL2 t i (f l :: (s.l2 t i).erase l))
  | none => (s.l2Room t i ix).map (fun p => p.1.setL2 t i (f (blankLine sid h ver ix p.2) :: p.1.l2 t i))

/-- What the dome L2 of a spire holds at `off` of a version. -/
def State.l2Read (s : State) (sp sid : Nat) (h : Entry) (ver off n : Nat) : Option (Nat × Bool) :=
  readLine (s.l2 (towerOf sp) (l2At sp h off)) sid h ver off n

/-- A sector of a published version enters the dome L2 of a spire (R96, R98). -/
def State.l2Fill (s : State) (sp sid : Nat) (h : Entry) (ver off : Nat) (b : List Byte) (bad : List Nat) : State :=
  (s.modL2Line sp sid h ver off (fun l => l.fill (secOf off) b bad)).getD s

/-- Draft bytes, all of one sector, land as dirty bytes in the dome L2 of the writing spire (R98); where no way can be had they are written to their
frame, by `k`. -/
def State.l2Write (s : State) (sp sid : Nat) (h : Entry) (ver : Nat) (b : List (Nat × Byte)) (bad : List Nat) (k : State → State) : State :=
  match b with
  | [] => s
  | (off, _) :: _ =>
    (s.modL2Line sp sid h ver off (fun l => l.put (b.map (fun p => (p.1 % 1024, p.2))) (bad.map (· % 1024 / 8 * 8)))).getD (k s)

/-- The draft bytes of a sector, or of a range, that any L2 of the package holds are written back (R136: what is written to the frame next comes after them). -/
def State.flushRange (s : State) (h : Entry) (ver lo n : Nat) : State :=
  s.flush (fun _ _ l => l.h == h && l.ver == ver && l.dirty.any (fun k => decide (lo ≤ 1024 * l.ix + k) && decide (1024 * l.ix + k < lo + n)))

-- Translations that an HRU caches (R97)

/-- A cached word of HRU t: word k of an entry under version 2^32, the rights of space `sid` under 2^32 + 1, a page map entry
under its version. -/
def Hru.cached (h : Hru) (o : Entry) (ver page : Nat) : Option Entry :=
  (h.tlb.find? (fun p => p.1 == o && p.2.1 == ver && p.2.2.1 == page)).map (·.2.2.2)

/-- The first `n` members of a list that `f` holds of are dropped. -/
def dropFirst {α : Type} (f : α → Bool) : Nat → List α → List α
  | 0, l => l
  | _ + 1, [] => []
  | n + 1, x :: r => if f x then dropFirst f n r else x :: dropFirst f (n + 1) r

/-- Words enter the cache of an HRU; beyond 65,536 page map entries or 4,096 object table entries the oldest are replaced (R97). -/
def Hru.learn (u : Hru) (l : List (Entry × Nat × Nat × Entry)) : Hru :=
  let kept := u.tlb.filter (fun p => !l.any (fun n => n.1 == p.1 && n.2.1 == p.2.1 && n.2.2.1 == p.2.2.1)) ++ l
  let page (p : Entry × Nat × Nat × Entry) : Bool := decide (p.2.1 < 2 ^ 32)
  let head (p : Entry × Nat × Nat × Entry) : Bool := p.2.1 == 2 ^ 32 && p.2.2.1 == 0
  let l1 := dropFirst page ((kept.filter page).length - 65536) kept
  let otes := (l1.filter head).map (·.1)
  let old := otes.take (otes.length - 4096)
  { u with tlb := if old.isEmpty then l1 else l1.filter (fun p => page p || !old.contains p.1) }

/-- A cached entry is dropped from an HRU. -/
def Hru.forget (u : Hru) (f : Entry → Nat → Nat → Bool) : Hru := { u with tlb := u.tlb.filter (fun p => !f p.1 p.2.1 p.2.2.1) }

-- Instruction lines (R96, R109)

/-- The quotas of R109 let one more line of a space be pinned in this set: fewer than 32 of its own, 96 in all, 3 in the set. -/
def pinRoom (c : List CLine) (sid ix : Nat) : Bool :=
  let l := c.filter (fun l => !l.pins.isEmpty)
  decide ((l.filter (fun q => q.sid == sid)).length < 32) && decide (l.length < 96)
    && decide ((l.filter (fun q => geoIc.set q.ix == geoIc.set ix)).length < 3)

/-- A line pinned for a launch; one that its quotas exclude stays as it is (R109). -/
def pinLine (c : List CLine) (sid : Nat) (h : Entry) (ver ix key : Nat) : List CLine :=
  match findLine c sid h ver ix with
  | some l =>
    if l.pins.contains key then c
    else if !l.pins.isEmpty || pinRoom c sid ix then { l with pins := key :: l.pins } :: c.erase l else c
  | none =>
    if pinRoom c sid ix then
      let new (w : Nat) : CLine := { blankLine sid h ver ix w with pins := [key] }
      match freeWay geoIc c (geoIc.set ix) [], victimLine geoIc c (geoIc.set ix) [] with
      | some w, _ => new w :: c
      | none, some v => new v.way :: c.erase v
      | none, none => c
    else c

/-- What a launch has pinned is pinned no more: its slot is free (R109). -/
def State.unpinLines (s : State) (key : Nat) : State :=
  if !s.spires.any (fun p => p.2.icache.any (fun l => l.pins.contains key)) then s
  else { s with spires := s.spires.map (fun (p : Nat × Spire) => (p.1, { p.2 with
    icache := p.2.icache.map (fun l => { l with pins := l.pins.filter (· != key) }) })) }

-- Pins of the matrix engine (R264)

/-- A line pinned for an operation. Eight ways of a set may hold pinned lines: none while a ninth is asked for, unless the operation itself holds all of
them (DESIGN CHOICE, log 26: the line is then fetched unpinned, or it would never come). -/
def State.l2Pin (s : State) (sp sid : Nat) (h : Entry) (ver off op : Nat) : Option State :=
  let c := s.l2 (towerOf sp) (l2At sp h off)
  let pinned := c.filter (fun l => geoL2.set l.ix == geoL2.set (lineOf off) && !l.pins.isEmpty)
  match findLine c sid h ver (lineOf off) with
  | some l => if !l.pins.isEmpty ∨ pinned.length < 8 then
      s.modL2Line sp sid h ver off (fun l => if l.pins.contains op then l else { l with pins := op :: l.pins })
    else if pinned.all (fun l => l.pins == [op]) then some s else none
  | none => some s

/-- An operation's pins are released: its occupancy has ended. -/
def State.l2Unpin (s : State) (op : Nat) : State :=
  if !s.l2Lines.any (fun q => q.2.2.pins.contains op) then s
  else { s with towers := s.towers.map (fun (p : Nat × Tower) => (p.1, { p.2 with
    l2 := p.2.l2.map (fun q => (q.1, q.2.map (fun l => { l with pins := l.pins.filter (· != op) }))) })) }

-- PURGE (R115)

/-- Matching lines of every L1 and L2 of the package are invalidated, dirty ones written back first; a pinned line stays (R86, R264). -/
def State.purge (s : State) (sid : Option Nat) (h : Entry) : State :=
  let hit (l : CLine) : Bool := l.h == h && (match sid with
    | some n => l.sid == n
    | none => true)
  let s1 := s.flush (fun _ _ l => hit l)
  let gone (l : CLine) : Bool := hit l && l.pins.isEmpty && l.dirty.isEmpty
  { s1 with
    towers := s1.towers.map (fun (p : Nat × Tower) => (p.1, { p.2 with l2 := p.2.l2.map (fun q => (q.1, q.2.filter (fun l => !gone l))) }))
    spires := s1.spires.map (fun (p : Nat × Spire) => (p.1, { p.2 with l1 := p.2.l1.filter (fun l => !gone l) })) }

end Sys2Proof.Machine
end

