-- ==== Sys2Proof/Machine/Scalar.lean ====
section
/-! DEFINITION. Machine/Scalar.lean: the integer, logic, compare, packing, immediate and queue management instructions of
the C class (spec/07, R203 to R216), one meaning each over the shared forms. Latencies are those of Table 06-7. -/

namespace Sys2Proof.Machine

/-- Two sources in read order (R176). -/
def State.bin (s : State) (r : Reg3) (k : Entry → Entry → State → State) : State :=
  s.readS r.a fun x s => s.readS r.b fun y s => k x y s

/-- An integer operation of two sources (R207): f is exact; `sat` as fn[5]. -/
def intOp (r : Reg3) (sat : Bool) (t : Fmt) (lat : Nat) (f : Int → Int → Int) (s : State) : State :=
  s.bin r fun x y s =>
    let p := putSat t sat (f (opndI t x.toNat) (opndI t y.toNat))
    s.pushS r.d p.1 lat p.2

/-- An operation on the n-bit patterns of two sources. -/
def patOp (r : Reg3) (t : Fmt) (f : Nat → Nat → Nat) (s : State) : State :=
  s.bin r fun x y s => s.pushS r.d (putI t (f (x.toNat % 2 ^ t.width) (y.toNat % 2 ^ t.width))) 1 0

/-- A shift by k := b mod n, over all 64 bits of b (R206). -/
def shiftOp (r : Reg3) (sat : Bool) (t : Fmt) (f : Int → Nat → Int) (s : State) : State :=
  s.bin r fun x y s =>
    let p := putSat t sat (f (opndI t x.toNat) (y.toNat % t.width))
    s.pushS r.d p.1 1 p.2

/-- A count over the n-bit pattern of one source (R209). -/
def countOp (r : Reg2) (t : Fmt) (f : Nat → Nat) (s : State) : State :=
  s.readS r.a fun x s => s.pushS r.d (putI t (f (x.toNat % 2 ^ t.width) : Nat)) 1 0

/-- x and not y, bitwise on n bits. -/
def andNot (n x y : Nat) : Nat := x &&& (2 ^ n - 1 - y)
/-- The n-bit pattern x rotated left by k. -/
def rotl (n x k : Nat) : Nat := (x * 2 ^ k + x / 2 ^ (n - k)) % 2 ^ n
/-- Set bits of a number below 2^n. -/
def popcN : Nat → Nat → Nat
  | 0, _ => 0
  | n + 1, x => x % 2 + popcN n (x / 2)
/-- Trailing zeros of an n-bit pattern; n for zero. -/
def ctzN : Nat → Nat → Nat
  | 0, _ => 0
  | n + 1, x => if x % 2 = 1 then 0 else 1 + ctzN n (x / 2)
/-- Leading zeros of an n-bit pattern; n for zero. -/
def clzN (n x : Nat) : Nat := if x = 0 then n else n - 1 - Nat.log2 x
/-- Quotient and remainder of R208. -/
def divQ (t : Fmt) (x y : Int) : Int := if y = 0 then (if isSigned t then -1 else maxOf t) else Int.tdiv x y
def divM (x y : Int) : Int := if y = 0 then x else x - Int.tdiv x y * y
/-- Latency of `div` and `rem` (Table 06-7). -/
def divLat (t : Fmt) : Nat := if t.width = 64 then 20 else 12

def execNop (s : State) : Out := .next s
def execAdd (r : Reg3) (sat : Bool) (t : Fmt) (s : State) : Out := .next (intOp r sat t 1 (· + ·) s)
def execSub (r : Reg3) (sat : Bool) (t : Fmt) (s : State) : Out := .next (intOp r sat t 1 (· - ·) s)
/-- R214: the 64-bit entry plus the signed immediate, 14 bits or 20 with LEND1. -/
def execAddi (r : Reg2) (imm : Fin 16384) (s : State) : Out :=
  .next (s.readS r.a fun x s => s.pushS r.d (BitVec.ofInt 64 (x.toNat + s.immS 14 imm)) 1 0)
def execMul (r : Reg3) (sat : Bool) (t : Fmt) (s : State) : Out := .next (intOp r sat t 3 (· * ·) s)
/-- floor(x * y / 2^n). -/
def execMulh (r : Reg3) (t : Fmt) (s : State) : Out :=
  .next (intOp r false t 3 (fun x y => (x * y) / (2 ^ t.width : Nat)) s)
def execDiv (r : Reg3) (t : Fmt) (s : State) : Out := .next (intOp r false t (divLat t) (divQ t) s)
def execRem (r : Reg3) (t : Fmt) (s : State) : Out := .next (intOp r false t (divLat t) divM s)
def execAnd (r : Reg3) (t : Fmt) (s : State) : Out := .next (patOp r t (· &&& ·) s)
def execOr (r : Reg3) (t : Fmt) (s : State) : Out := .next (patOp r t (· ||| ·) s)
def execXor (r : Reg3) (t : Fmt) (s : State) : Out := .next (patOp r t (· ^^^ ·) s)
def execAndn (r : Reg3) (t : Fmt) (s : State) : Out := .next (patOp r t (andNot t.width) s)
def execShl (r : Reg3) (sat : Bool) (t : Fmt) (s : State) : Out :=
  .next (shiftOp r sat t (fun x k => x * (2 ^ k : Nat)) s)
def execShr (r : Reg3) (t : Fmt) (s : State) : Out := .next (shiftOp r false t (fun x k => x / (2 ^ k : Nat)) s)
/-- The rotate count is b mod n over all 64 bits (R206). -/
def execRol (r : Reg3) (t : Fmt) (s : State) : Out :=
  .next (s.bin r fun x y s =>
    s.pushS r.d (putI t (rotl t.width (x.toNat % 2 ^ t.width) (y.toNat % t.width) : Nat)) 1 0)
def execClz (r : Reg2) (t : Fmt) (s : State) : Out := .next (countOp r t (clzN t.width) s)
def execCtz (r : Reg2) (t : Fmt) (s : State) : Out := .next (countOp r t (ctzN t.width) s)
def execPopc (r : Reg2) (t : Fmt) (s : State) : Out := .next (countOp r t (popcN t.width) s)
def execMin (r : Reg3) (t : Fmt) (s : State) : Out := .next (intOp r false t 1 (fun x y => if x ≤ y then x else y) s)
def execMax (r : Reg3) (t : Fmt) (s : State) : Out := .next (intOp r false t 1 (fun x y => if x ≤ y then y else x) s)
/-- R212: all three sources are read; entry a when c is not 0. -/
def execSel (r : Reg3) (c : SrcS) (s : State) : Out :=
  .next (s.bin r fun x y s => s.readS c fun z s => s.pushS r.d (if z = 0 then y else x) 1 0)
/-- R211: 1 when x cc y under the type's order. -/
def execCmpCc (r : Reg3) (cc : Cond) (t : Fmt) (s : State) : Out :=
  .next (s.bin r fun x y s =>
    s.pushS r.d (if condHolds cc (some (compare (opndI t x.toNat) (opndI t y.toNat))) then 1 else 0) 1 0)
/-- R213: the low n bits of a, extended to 64. -/
def execSext (r : Reg2) (t : Fmt) (s : State) : Out :=
  .next (s.readS r.a fun x s => s.pushS r.d (putI t (opndI t x.toNat)) 1 0)
def execZext (r : Reg2) (t : Fmt) (s : State) : Out :=
  .next (s.readS r.a fun x s => s.pushS r.d (putI t (opndI t x.toNat)) 1 0)
def execLi (d : Fin 32) (imm : Fin 1048576) (s : State) : Out :=
  .next (s.pushS d (BitVec.ofInt 64 (s.immS 20 imm)) 1 0)
def execLih (r : Reg2) (imm : Fin 16384) (s : State) : Out :=
  .next (s.readS r.a fun x s => s.pushS r.d (BitVec.ofNat 64 (x.toNat * 2 ^ 14 + imm)) 1 0)
def execMov (r : Reg2) (s : State) : Out := .next (s.readS r.a fun x s => s.pushS r.d x 1 0)
/-- R210: the addend is popped from d; from s0 it is 0 and the result is discarded. -/
def execMad (r : Reg3) (sat : Bool) (t : Fmt) (s : State) : Out :=
  .next (s.bin r fun x y s => s.popS r.d fun z s =>
    let p := putSat t sat (opndI t x.toNat * opndI t y.toNat + opndI t z.toNat)
    s.pushS r.d p.1 3 p.2)
def execIdxPack (r : Reg3) (s : State) : Out :=
  .next (s.bin r fun x y s => s.pushS r.d (BitVec.ofNat 64 (x.toNat % 2 ^ 32 + y.toNat % 2 ^ 32 * 2 ^ 32)) 1 0)

/-- Entries present in the queue that a management instruction names (R215). -/
def Ctx.depthOf (x : Ctx) (a : Fin 32) (vec : Bool) : Nat := if vec then (x.vOf a).length else (x.sOf a).length
/-- The first n entries removed. -/
def Ctx.dropQ (x : Ctx) (a : Fin 32) (vec : Bool) (n : Nat) : Ctx :=
  if vec then x.setV a ((x.vOf a).drop n) else x.setS a ((x.sOf a).drop n)
/-- R215, R216: removes n + 1 head entries; too few is the underflow of R179. -/
def execQdrop (a : Fin 32) (vec : Bool) (n : Fin 4) (s : State) : Out :=
  .next (if s.cx.depthOf a vec < n + 1 then s.underflow vec a else s.modCx (fun x => x.dropQ a vec (n + 1)))
def execQdepth (d a : Fin 32) (vec : Bool) (s : State) : Out :=
  .next (s.pushS d (BitVec.ofNat 64 (s.cx.depthOf a vec)) 1 0)
def execQclr (a : Fin 32) (vec : Bool) (s : State) : Out :=
  .next (s.modCx (fun x => if vec then x.setV a [] else x.setS a []))

end Sys2Proof.Machine
end

