-- ==== Sys2Proof/Machine/Trans.lean ====
section
/-! DEFINITION. Machine/Trans.lean: the functions of R248, `vexp2`, `vlog2`, `vrcp`, `vrsqrt` and `vtanh`: the special
inputs of Table 08-4, and for the others `round(trunc_sig(v, 22), t, rne)`. A value that is not rational is computed in
fixed point with 400 fraction bits, far beyond the 22 that the truncation keeps (log 7). -/

namespace Sys2Proof.Machine

/-- The unit of the fixed-point numbers: 400 fraction bits (UNVERIFIED, log 7). -/
def fxOne : Nat := 2 ^ 400

/-- Sum of p / (2 i + 1) over the odd powers p of t, `n` terms: atanh. -/
def atanhGo (t2 : Nat) : Nat → Nat → Nat → Nat → Nat
  | 0, _, _, acc => acc
  | n + 1, p, k, acc => atanhGo t2 n (p * t2 / fxOne) (k + 2) (acc + p / k)

/-- atanh of a fixed-point t of at most 1/3. -/
def fxAtanh (t : Nat) : Nat := atanhGo (t * t / fxOne) 140 t 1 0

/-- ln 2 = 2 atanh(1/3). -/
def fxLn2 : Nat := 2 * fxAtanh (fxOne / 3)

/-- Sum of y^i / i!, `n` terms. -/
def expGo (y : Nat) : Nat → Nat → Nat → Nat → Nat
  | 0, _, _, acc => acc
  | n + 1, p, k, acc => expGo y n (p * y / fxOne / k) (k + 1) (acc + p)

/-- e^y for a fixed-point y in [0, 1). -/
def fxExp (y : Nat) : Nat := expGo y 100 fxOne 1 0

/-- 2^(n/d) for s = false, 2^(-n/d) for s = true, as an exact value or one with 390 significant bits. -/
def exp2FV (s : Bool) (n d : Nat) : FV :=
  let q : Int := if s then -(((n + d - 1) / d : Nat) : Int) else (n / d : Nat)
  let fr := if s then (d - n % d) % d else n % d
  if 4000 < q then scaled false 1 4000
  else if q < -4000 then scaled false 1 (-4000)
  else if fr = 0 then scaled false 1 q
  else scaled false (fxExp (fr * fxOne / d * fxLn2 / fxOne)) (q - 400)

/-- log2(n/d) for n, d > 0. -/
def log2FV (n d : Nat) : FV :=
  let e := flog2 n d
  -- m = n / (d * 2^e) in [1, 2) is a / b
  let a := if 0 ≤ e then n else n * 2 ^ (-e).toNat
  let b := if 0 ≤ e then d * 2 ^ e.toNat else d
  if a = b then ofInt e
  else
    let lg := 2 * fxAtanh ((a - b) * fxOne / (a + b)) * fxOne / fxLn2
    let v : Int := e * (fxOne : Int) + (lg : Int)
    .fin (decide (v < 0)) v.natAbs fxOne

/-- tanh(n/d) for n, d > 0. -/
def tanhFV (s : Bool) (n d : Nat) : FV :=
  if n * 2 ^ 60 < d then .fin s (n * (2 ^ 110 - 1)) (d * 2 ^ 110)
  else if 40 * d ≤ n then .fin s (2 ^ 100 - 1) (2 ^ 100)
  else
    let z := 2 * n * fxOne / d
    let k := z / fxLn2
    let e := fxExp (z % fxLn2) * 2 ^ k
    .fin s (e - fxOne) (e + fxOne)

/-- trunc_sig(v, 22) of R248. -/
def truncSig (v : FV) : FV :=
  match v with
  | .fin s n d =>
    if n = 0 then v
    else
      let e := flog2 n d - 21
      scaled s (quot n d e).1 e
  | v => v

/-- Result of R248 for a finite exact value v, with INX when the result differs from v. -/
def transFin (t : Fmt) (v : FV) : Coded :=
  let c := roundTo t .rne false (truncSig v)
  let same := (decodeFlt t c.code).cmp v == some .eq
  ⟨c.code, stOr (c.st % 8) (if same then 0 else stINX)⟩

/-- The special results: a code and its bits. -/
def transNan (t : Fmt) (inv : Bool) : Coded := ⟨nanCode t, stOr stNANP (if inv then stINV else 0)⟩

/-- `vexp2`. -/
def transExp2 (t : Fmt) (x : FV) : Coded :=
  match x with
  | .nan => transNan t false
  | .inf s => ⟨if s then 0 else infCode t, 0⟩
  | .fin s n d => if n = 0 then ⟨(roundFin t .rne false false 1 1).code, 0⟩ else transFin t (exp2FV s n d)

/-- `vlog2`. -/
def transLog2 (t : Fmt) (x : FV) : Coded :=
  match x with
  | .nan => transNan t false
  | .inf s => if s then transNan t true else ⟨infCode t, 0⟩
  | .fin s n d =>
    if n = 0 then ⟨withSign t true (infCode t), 0⟩
    else if s then transNan t true
    else transFin t (log2FV n d)

/-- `vrcp`. -/
def transRcp (t : Fmt) (x : FV) : Coded :=
  match x with
  | .nan => transNan t false
  | .inf s => ⟨withSign t s 0, 0⟩
  | .fin s n d => if n = 0 then ⟨withSign t s (infCode t), 0⟩ else transFin t (.fin s d n)

/-- `vrsqrt`. -/
def transRsqrt (t : Fmt) (x : FV) : Coded :=
  match x with
  | .nan => transNan t false
  | .inf s => if s then transNan t true else ⟨0, 0⟩
  | .fin s n d =>
    if n = 0 then ⟨withSign t s (infCode t), 0⟩
    else if s then transNan t true
    else transFin t (.fin false (sqrtFrac d n).1 (sqrtFrac d n).2)

/-- `vtanh`. -/
def transTanh (t : Fmt) (x : FV) : Coded :=
  match x with
  | .nan => transNan t false
  | .inf s => ⟨withSign t s (roundFin t .rne false false 1 1).code, 0⟩
  | .fin s n d => if n = 0 then ⟨withSign t s 0, 0⟩ else transFin t (tanhFV s n d)

end Sys2Proof.Machine
end

