-- ==== Sys2Proof/Machine/Vector.lean ====
section
/-! DEFINITION. Machine/Vector.lean: the V class but for its tile-store accesses (spec/08, R231 to R248, R252, R253):
lane-wise arithmetic, compare and select, conversion, data movement, reductions, transcendentals, mask operations. -/

namespace Sys2Proof.Machine

/-- Two vector sources in read order (R234). -/
def State.binV (s : State) (a b : SrcV) (k : Vec → Vec → State → State) : State :=
  s.readV a fun x s => s.readV b fun y s => k x y s

/-- Lanes of a result with their status bits. -/
def vecOf (w : Nat) (l : List (Nat × Nat)) : Vec × Nat := (ofLanes w (l.map (·.1)), (l.map (·.2)).foldl stOr 0)

/-- A result of every lane below `n`: `f i` where the governing mask holds, else 0 with no status (R233, R235). -/
def maskedLanes (w n : Nat) (m : Mask) (f : Nat → Nat × Nat) : Vec × Nat :=
  vecOf w ((List.range n).map (fun i => if mbit m i then f i else (0, 0)))

/-- A rounded lane: its code and status. -/
def coded (c : Coded) : Nat × Nat := (c.code, c.st)

/-- A lane-wise result of type t under mask k, pushed to d; f gives lane i (R237). -/
def State.putLanes (s : State) (k : Fin 8) (d : Fin 16) (t : Fmt) (lat : Nat) (f : Nat → Nat × Nat) : State :=
  let v := maskedLanes t.width (lanes t) (s.cx.mask k) f
  s.pushV d v.1 lat v.2

/-- A lane-wise operation of two sources that rounds nothing. -/
def laneOp (r : Vec3) (t : Fmt) (lat : Nat) (f : Nat → Nat → Nat × Nat) (s : State) : State :=
  s.binV r.a r.b fun x y s =>
    s.putLanes r.k r.d t lat fun i => f (lane t.width x i) (lane t.width y i)

/-- A lane-wise operation of one source. -/
def laneOp1 (r : Vec2) (t : Fmt) (lat : Nat) (f : Nat → Nat × Nat) (s : State) : State :=
  s.readV r.a fun x s => s.putLanes r.k r.d t lat fun i => f (lane t.width x i)

/-- `vadd`, `vsub`, `vmul`: exact on integers, then wrapped or clamped; exact on floats, then rounded once (Table 08-2).
Latency 2 for integers, 4 for floats. -/
def arith (r : Vec3) (m : VMod) (t : Fmt) (fi : Int → Int → Int) (ff : Rm → FV → FV → FVI) (s : State) : State :=
  match m with
  | .int sat => laneOp r t 2 (fun x y => laneSat t sat (fi (opndI t x) (opndI t y))) s
  | .flt m => s.binV r.a r.b fun x y s =>
    (s.putLanes r.k r.d t 4 fun i => coded (finish t (s.rnd m i)
      (ff (s.cx.mode m) (decodeFlt t (lane t.width x i)) (decodeFlt t (lane t.width y i))))).drawn m

/-- The fused forms pop their addend from d (R238); f forms the exact value. -/
def fused (r : Vec3) (m : Rm) (t : Fmt) (f : Rm → FV → FV → FV → FVI) (s : State) : State :=
  s.binV r.a r.b fun x y s => s.readV ⟨r.d, false⟩ fun z s =>
    (s.putLanes r.k r.d t 4 fun i => coded (finish t (s.rnd m i) (f (s.cx.mode m) (decodeFlt t (lane t.width x i))
      (decodeFlt t (lane t.width y i)) (decodeFlt t (lane t.width z i))))).drawn m

/-- Lesser or greater of two lanes: integers as their own values, floats by `fminCode` (R237). -/
def pick (t : Fmt) (takeMax : Bool) (x y : Nat) : Nat × Nat :=
  if t.isInt then
    (if (if takeMax then decide (opndI t x < opndI t y) else decide (opndI t y < opndI t x)) then y else x, 0)
  else (fminCode t takeMax x y, if decodeFlt t x = .nan ∨ decodeFlt t y = .nan then stNANP else 0)

/-- A float lane whose sign alone changes; a NaN becomes the canonical one (R237). -/
def resign (t : Fmt) (f : Bool → Bool) (x : Nat) : Nat × Nat :=
  if decodeFlt t x = .nan then (nanCode t, stNANP)
  else (withSign t (f (bit x (t.width - 1))) (x % signBit t), 0)

/-- Latency of a lane-wise operation that rounds nothing: 2 for integers, 4 for floats (Table 06-7). -/
def laneLat (t : Fmt) : Nat := if t.isInt then 2 else 4

def execVadd (r : Vec3) (m : VMod) (t : Fmt) (s : State) : Out := .next (arith r m t (· + ·) FV.add s)
def execVsub (r : Vec3) (m : VMod) (t : Fmt) (s : State) : Out :=
  .next (arith r m t (· - ·) (fun k x y => FV.add k x y.neg) s)
def execVmul (r : Vec3) (m : VMod) (t : Fmt) (s : State) : Out := .next (arith r m t (· * ·) (fun _ x y => x.mul y) s)
def execVfma (r : Vec3) (m : Rm) (t : Fmt) (s : State) : Out := .next (fused r m t FV.fma s)
def execVfms (r : Vec3) (m : Rm) (t : Fmt) (s : State) : Out := .next (fused r m t (fun k x y z => FV.fma k x y z.neg) s)
def execVnfma (r : Vec3) (m : Rm) (t : Fmt) (s : State) : Out := .next (fused r m t (fun k x y z => FV.fma k x.neg y z) s)
def execVmin (r : Vec3) (t : Fmt) (s : State) : Out := .next (laneOp r t (laneLat t) (pick t false) s)
def execVmax (r : Vec3) (t : Fmt) (s : State) : Out := .next (laneOp r t (laneLat t) (pick t true) s)
def execVabs (r : Vec2) (sat : Bool) (t : Fmt) (s : State) : Out :=
  .next (laneOp1 r t (laneLat t)
    (fun x => if t.isInt then laneSat t sat (opndI t x).natAbs else resign t (fun _ => false) x) s)
def execVneg (r : Vec2) (sat : Bool) (t : Fmt) (s : State) : Out :=
  .next (laneOp1 r t (laneLat t) (fun x => if t.isInt then laneSat t sat (-(opndI t x)) else resign t (! ·) x) s)

/-- The comparison of two lanes (Tables 07-3, 07-7). -/
def laneCmp (t : Fmt) (cc : Cond) (x y : Nat) : Bool :=
  condHolds cc (if t.isInt then some (compare (opndI t x) (opndI t y)) else (decodeFlt t x).cmp (decodeFlt t y))

/-- R239: the result is a mask; latency 2. -/
def execVcmpCc (k md : Fin 8) (a b : SrcV) (cc : Cond) (t : Fmt) (s : State) : Out :=
  .next (s.binV a b fun x y s =>
    s.push (.m md) (.m (ofMask (lanes t) fun i =>
      mbit (s.cx.mask k) i && laneCmp t cc (lane t.width x i) (lane t.width y i))) 2 0)

/-- R240: the mask selects; latency 1. -/
def execVsel (r : Vec3) (t : Fmt) (s : State) : Out :=
  .next (s.binV r.a r.b fun x y s =>
    let m := s.cx.mask r.k
    s.pushV r.d (vecOf t.width ((List.range (lanes t)).map fun i =>
      ((if mbit m i then lane t.width x i else lane t.width y i), 0))).1 1 0)

def execVand (r : Vec3) (t : Fmt) (s : State) : Out := .next (laneOp r t 2 (fun x y => (x &&& y, 0)) s)
def execVor (r : Vec3) (t : Fmt) (s : State) : Out := .next (laneOp r t 2 (fun x y => (x ||| y, 0)) s)
def execVxor (r : Vec3) (t : Fmt) (s : State) : Out := .next (laneOp r t 2 (fun x y => (x ^^^ y, 0)) s)
def execVnot (r : Vec2) (t : Fmt) (s : State) : Out := .next (laneOp1 r t 2 (fun x => (2 ^ t.width - 1 - x, 0)) s)
/-- The shift count is the lane of b, unsigned, mod w (R236). -/
def execVshl (r : Vec3) (sat : Bool) (t : Fmt) (s : State) : Out :=
  .next (laneOp r t 2 (fun x y => laneSat t sat (opndI t x * (2 ^ (y % t.width) : Nat))) s)
def execVshr (r : Vec3) (t : Fmt) (s : State) : Out :=
  .next (laneOp r t 2 (fun x y => (x / 2 ^ (y % t.width), 0)) s)
/-- `vsra` fills with bit w − 1 for either signedness. -/
def execVsra (r : Vec3) (t : Fmt) (s : State) : Out :=
  .next (laneOp r t 2 (fun x y => (wrapN t.width (sextN t.width x / (2 ^ (y % t.width) : Nat)), 0)) s)

-- Conversion

/-- A part's converted lane: source lane i, result lane j (R241). -/
structure Part where
  i : Nat
  j : Nat
  c : Conv
deriving DecidableEq, Repr

/-- The lanes that `vcvt` converts. -/
def cvtParts (s : State) (p : Nat) (x : Vec) (src dst : Fmt) (sat : Bool) (m : Rm) : List Part :=
  let n := 4096 / max src.width dst.width
  (List.range n).map fun i =>
    let a := if src.width < dst.width then p * n + i else i
    let j := if src.width < dst.width then i else p * n + i
    ⟨a, j, convert (decodeVal src (lane src.width x a)) dst (s.rnd m j) sat⟩

/-- R241: every other lane is zero. -/
def execVcvt (p : Fin 4) (d : Fin 16) (a : SrcV) (src : Fmt) (sat : Bool) (m : Rm) (dst : Fmt) (s : State) : Out :=
  .next (s.readV a fun x s =>
    let l := cvtParts s p x src dst sat m
    let first := (l.headD ⟨0, 0, ⟨0, 0, 0⟩⟩).j
    s.events (.vcvt p d a src sat m dst) ((l.filter (fun q => q.c.kind != 0)).map fun q => (q.i, q.c.kind)) fun s =>
      (s.pushV d (ofLanes dst.width (List.replicate first 0 ++ l.map (fun q => q.c.code))) 4
        ((l.map (fun q => q.c.st)).foldl stOr 0)).drawn m)

/-- The q4 blocks of one part of a source vector, first block first (R242). -/
def packBlocks (s : State) (x : Vec) (bt : BT) (m : Rm) (src : Fmt) : List Q4Block :=
  (List.range (lanes src / 32)).map fun b =>
    drainQ4 bt ((List.range 32).map fun j => s.rnd m (32 * b + j))
      ((List.range 32).map fun j => decodeFlt src (lane src.width x (32 * b + j)))

/-- R242: codes with status and entries, or scale bytes without. -/
def execVpack (p : Fin 8) (d : Fin 16) (a : SrcV) (bt : BT) (scales : Bool) (m : Rm) (src : Fmt) (s : State) : Out :=
  .next (s.readV a fun x s =>
    let l := packBlocks s x bt m src
    let n := l.length
    if scales then (s.pushV d (ofLanes 8 (List.replicate (p * n) 0 ++ l.map (·.scale))) 4 0).drawn m
    else
      let evs := (((List.range n).zip l).map fun q => q.2.events.map fun e => (32 * q.1 + e.1, e.2)).flatten
      s.events (.vpack p d a bt scales m src) evs fun s =>
        (s.pushV d (ofLanes 4 (List.replicate (p * n * 32) 0 ++ (l.map (·.codes)).flatten)) 4
          ((l.map (·.st)).foldl stOr 0)).drawn m)

/-- R243: code lanes of a under the scale bytes of b. -/
def execVunpack (p : Fin 8) (d : Fin 16) (a b : SrcV) (m : Rm) (dst : Fmt) (s : State) : Out :=
  .next (s.binV a b fun x y s =>
    let n := lanes dst
    let v := vecOf dst.width ((List.range n).map fun i =>
      coded (roundTo dst (s.rnd m i) false (decodeQ4 (lane 8 y ((p * n + i) / 32)) (lane 4 x (p * n + i)))))
    (s.pushV d v.1 4 v.2).drawn m)

-- Data movement (Table 08-3); latency 2, `vperm` 3

def execVbcast (d : Fin 16) (q : SrcS) (t : Fmt) (s : State) : Out :=
  .next (s.readS q fun x s => s.pushV d (ofLanes t.width (List.replicate (lanes t) x.toNat)) 2 0)
/-- The lane as R203 puts it in an entry. -/
def execVext (d : Fin 32) (a : SrcV) (q : SrcS) (t : Fmt) (s : State) : Out :=
  .next (s.readV a fun x s => s.readS q fun n s =>
    let v := lane t.width x (n.toNat % lanes t)
    s.pushS d (if t.isInt then putI t (opndI t v) else BitVec.ofNat 64 v) 2 0)
def execVins (d : Fin 16) (a : SrcV) (q : SrcS) (c : Fin 8) (t : Fmt) (s : State) : Out :=
  .next (s.readV a fun x s => s.readS q fun e s => s.popS (Fin.ofNat 32 c) fun n s =>
    s.pushV d (ofLanes t.width (((List.range (lanes t)).map (lane t.width x)).set (n.toNat % lanes t) e.toNat)) 2 0)
def execVperm (r : Vec3) (t : Fmt) (s : State) : Out :=
  .next (s.binV r.a r.b fun x y s =>
    s.putLanes r.k r.d t 3 fun i => (lane t.width x (lane t.width y i % lanes t), 0))
/-- n is the signed 6-bit immediate. -/
def execVrot (d : Fin 16) (a : SrcV) (i : Fin 64) (t : Fmt) (s : State) : Out :=
  .next (s.readV a fun x s =>
    s.pushV d (ofLanes t.width ((List.range (lanes t)).map fun j : Nat =>
      lane t.width x (((j : Int) + sextN 6 i) % (lanes t : Nat)).toNat)) 2 0)
def execVslide (d : Fin 16) (a b : SrcV) (i : Fin 64) (t : Fmt) (s : State) : Out :=
  .next (s.binV a b fun x y s =>
    let n := lanes t
    s.pushV d (ofLanes t.width ((List.range n).map fun j : Nat =>
      let k : Int := (j : Int) + sextN 6 i
      if k < 0 then lane t.width y (k + (n : Nat)).toNat
      else if k < (n : Nat) then lane t.width x k.toNat
      else lane t.width y (k.toNat - n))) 2 0)

-- Reductions and scan (R245 to R247)

/-- One level of the tree: adjacent lanes combined, their status gathered. -/
def treeLevel (f : Nat → Nat → Nat × Nat) (l : List (Nat × Nat)) : List (Nat × Nat) :=
  match l with
  | a :: b :: r => ((f a.1 b.1).1, stOr (stOr a.2 b.2) (f a.1 b.1).2) :: treeLevel f r
  | l => l

/-- The whole tree, `n` levels. -/
def tree (f : Nat → Nat → Nat × Nat) : Nat → List (Nat × Nat) → List (Nat × Nat)
  | 0, l => l
  | n + 1, l => tree f n (treeLevel f l)

/-- u + v in a float type, rounded to nearest. -/
def addCode (t : Fmt) (u v : Nat) : Nat × Nat := coded (finish t .rne (FV.add .rne (decodeFlt t u) (decodeFlt t v)))

/-- Identity of a reduction (R245). -/
def redIdentity (op : RedOp) (t : Fmt) : Nat :=
  match op with
  | .add => if t.isInt then 0 else signBit t
  | .max => if t.isInt then wrapN t.width (minOf t) else withSign t true (infCode t)
  | .min => if t.isInt then wrapN t.width (maxOf t) else infCode t

/-- Lane 0 of a reduction of the lanes `l` (inactive ones absent from `act`). -/
def reduce (op : RedOp) (sat : Bool) (t : Fmt) (l : List Nat) (act : List Nat) : Nat × Nat :=
  let red (f : Nat → Nat → Nat × Nat) : Nat × Nat := (tree f 10 (l.map (·, 0))).headD (0, 0)
  match op with
  | .add => if t.isInt then laneSat t sat ((act.map (opndI t)).foldl (· + ·) 0) else red (addCode t)
  | .max => red (pick t true)
  | .min => red (pick t false)

def execVred (r : Vec2) (sat : Bool) (op : RedOp) (t : Fmt) (s : State) : Out :=
  .next (s.readV r.a fun x s =>
    let m := s.cx.mask r.k
    let l := (List.range (lanes t)).map fun i => if mbit m i then lane t.width x i else redIdentity op t
    let act := ((List.range (lanes t)).filter (mbit m)).map (lane t.width x)
    let v := reduce op sat t l act
    s.pushV r.d (BitVec.ofNat 4096 (v.1 % 2 ^ t.width)) 8 v.2)

/-- a is greater than b in the order of R246. -/
def laneAbove (t : Fmt) (a b : Nat) : Bool :=
  if t.isInt then decide (opndI t b < opndI t a) else (decodeFlt t b).lt (decodeFlt t a)

/-- Index and value of the greatest of (index, lane) pairs; the lowest index wins a tie. -/
def argmaxOf (t : Fmt) (l : List (Nat × Nat)) : Nat × Nat :=
  match l with
  | [] => (0xFFFF, 0)
  | p :: r => r.foldl (fun b q => if laneAbove t q.2 b.2 then q else b) p

def execVargmax (r : Vec2) (t : Fmt) (s : State) : Out :=
  .next (s.readV r.a fun x s =>
    let l := ((List.range (lanes t)).filter (mbit (s.cx.mask r.k))).map fun i => (i, lane t.width x i)
    let nan := if t.isInt then none else l.find? (fun p => decodeFlt t p.2 == .nan)
    let v := match nan with
      | some p => (p.1, nanCode t)
      | none => argmaxOf t l
    s.pushV r.d (BitVec.ofNat 4096 (v.1 + v.2 * 2 ^ 32)) 10 (if nan.isSome then stNANP else 0))

/-- Inclusive prefix sums; `prev` is the last active result (R247). A first lane that is NaN gives the canonical NaN
(R143). -/
def scanGo (t : Fmt) (m : Mask) : List (Nat × Nat) → Option Nat → List (Nat × Nat)
  | [], _ => []
  | (i, x) :: r, prev =>
    if mbit m i then
      let c : Nat × Nat := match prev with
        | none => if !t.isInt && decodeFlt t x == .nan then (nanCode t, stNANP) else (x, 0)
        | some p => if t.isInt then ((p + x) % 2 ^ t.width, 0) else addCode t p x
      c :: scanGo t m r (some c.1)
    else (0, 0) :: scanGo t m r prev

def execVscanAdd (r : Vec2) (t : Fmt) (s : State) : Out :=
  .next (s.readV r.a fun x s =>
    let v := vecOf t.width (scanGo t (s.cx.mask r.k) ((List.range (lanes t)).map fun i => (i, lane t.width x i)) none)
    s.pushV r.d v.1 8 v.2)

-- Transcendental approximations (R248), latency 8

/-- A lane-wise transcendental (UNVERIFIED, log 7). -/
def transOp (r : Vec2) (t : Fmt) (f : Fmt → FV → Coded) (s : State) : State :=
  laneOp1 r t 8 (fun x => coded (f t (decodeFlt t x))) s

def execVexp2 (r : Vec2) (t : Fmt) (s : State) : Out := .next (transOp r t transExp2 s)
def execVlog2 (r : Vec2) (t : Fmt) (s : State) : Out := .next (transOp r t transLog2 s)
def execVrcp (r : Vec2) (t : Fmt) (s : State) : Out := .next (transOp r t transRcp s)
def execVrsqrt (r : Vec2) (t : Fmt) (s : State) : Out := .next (transOp r t transRsqrt s)
def execVtanh (r : Vec2) (t : Fmt) (s : State) : Out := .next (transOp r t transTanh s)

-- Mask operations (R252, R253)

/-- A mask result, latency 1. -/
def State.putMask (s : State) (d : Fin 8) (v : Mask) : State := s.push (.m d) (.m v) 1 0

def execMand (d a b : Fin 8) (s : State) : Out := .next (s.putMask d (s.cx.mask a &&& s.cx.mask b))
def execMor (d a b : Fin 8) (s : State) : Out := .next (s.putMask d (s.cx.mask a ||| s.cx.mask b))
def execMxor (d a b : Fin 8) (s : State) : Out := .next (s.putMask d (s.cx.mask a ^^^ s.cx.mask b))
def execMnot (d a : Fin 8) (s : State) : Out := .next (s.putMask d (~~~ s.cx.mask a))

/-- Set bits among the lowest L of a mask. -/
def setBits (l : Nat) (m : Mask) : List Nat := (List.range l).filter (mbit m)

def execMpop (d : Fin 32) (a : Fin 8) (t : Fmt) (s : State) : Out :=
  .next (s.pushS d (BitVec.ofNat 64 (setBits (lanes t) (s.cx.mask a)).length) 2 0)
def execMfirst (d : Fin 32) (a : Fin 8) (t : Fmt) (s : State) : Out :=
  .next (s.pushS d (BitVec.ofNat 64 ((setBits (lanes t) (s.cx.mask a)).headD (lanes t))) 2 0)

end Sys2Proof.Machine
end

