-- ==== Sys2Proof/Machine/VectorMem.lean ====
section
/-! DEFINITION. Machine/VectorMem.lean: tile-store access of slots 1 and 3: `vld`, `vst`, `vldx`, `vstx` (R249 to R251),
`ld.ts` and `st.ts` (R292). Reads sample in sc t + 1 and writes land later (R118). -/

namespace Sys2Proof.Machine

/-- A synchronous read of these relative offsets under mode m: LAYOUT/0x01 where the task's space checks tags (R432). -/
def State.checkTags (s : State) (m : Nat) (es : List Nat) (k : State → State) : State :=
  let x := s.cx
  let mem := (s.spire s.iss.sp).mem
  if x.res.lck then
    match es.find? (fun e => mem.touchedAt (physTs x.res.tsb m e) && mem.tagAt (physTs x.res.tsb m e) != m) with
    | some e => s.raise (layoutTag s.iss.slot e (mem.tagAt (physTs x.res.tsb m e)) m)
    | none => k s
  else k s

/-- Tile store bank of a physical offset: 64 banks of 64 KiB (R15). -/
def bankOf (p : Nat) : Nat := p / 0x10000

/-- An access to a bank that is still waking stalls the context (R35) (DEDUCED, log 92). -/
def State.awake (s : State) (m : Nat) (es : List Nat) (k : State → State) : State :=
  let x := s.spire s.iss.sp
  if x.waking.isEmpty then k s
  else match es.find? (fun e => x.waking.any (fun w => w.1 == bankOf (physTs s.cx.res.tsb m e))) with
    | some e => s.stallWith (.wake (bankOf (physTs s.cx.res.tsb m e)))
    | none => k s

/-- A tile-store event of the operation under issue, `delay` sc after issue. -/
def State.tsLater (s : State) (act : TsAct) (delay : Nat) : State :=
  if s.iss.bad then s else s.modCx (fun x => { x with tsw := x.tsw ++ [⟨act, delay, s.iss.slot, s.iss.num, x.res.tid, x.res.tsb⟩] })

/-- A write of (relative offset, byte) pairs under mode m; with no byte it writes nothing and sets no tag (R250). -/
def State.tsStore (s : State) (m : Nat) (l : List (Nat × Byte)) (delay : Nat) : State :=
  if l.isEmpty then s
  else
    let b := l.map (fun p => (physTs s.cx.res.tsb m p.1, p.2))
    s.tsLater (.bytes b (tagsOf m (b.map (·.1)))) delay

/-- BOUNDS/0x01 of the operation under issue. -/
def State.raiseTs (s : State) (e : Nat) : State := s.raise (boundsTs s.iss.slot (e % 2 ^ 64) s.cx.res.tsp)

/-- Active bytes of a `vld` or `vst`: byte j belongs to lane j div (granule / 8), granule 8 * 2^g bits (R250). -/
def activeBytes (m : Mask) (g : Nat) : List Nat := (List.range 512).filter (fun j => mbit m (j / 2 ^ g))

/-- The checks of R250 (DEDUCED, log 17) (DEDUCED, log 18). -/
def State.vecAccess (s : State) (f : VMem) (base : Entry) (k : Nat → List Nat → State → State) : State :=
  let e := base.toNat + 512 * f.imm
  let act := activeBytes (s.cx.mask f.k) f.g
  if e % 64 ≠ 0 ∨ act.any (fun j => !inTs s.cx.res.tsp (e + j) 1) then s.raiseTs e else k e act s

/-- Samples in sc t + 1, lands in t + 6; inactive bytes are 0. -/
def execVld (f : VMem) (s : State) : Out :=
  .next (s.readS f.s fun base s => s.vecAccess f base fun e act s =>
    s.awake f.swz (act.map (e + ·)) fun s => s.checkTags f.swz (act.map (e + ·)) fun s =>
      s.push (.v f.d) (.sampV ((List.range 512).map fun j =>
        if act.contains j then some (physTs s.cx.res.tsb f.swz (e + j)) else none)) 6 0)

/-- Lands in t + 2. -/
def execVst (f : VMem) (s : State) : Out :=
  .next (s.readS f.s fun base s => s.readV ⟨f.d, false⟩ fun v s => s.vecAccess f base fun e act s =>
    s.awake f.swz (act.map (e + ·)) fun s => s.tsStore f.swz (act.map fun j => (e + j, BitVec.ofNat 8 (lane 8 v j))) 2)

/-- Active elements of a gather or scatter: (lane, offset), for lanes below min(L, 128) (R251) (DEDUCED, log 17). -/
def State.idxAccess (s : State) (f : VIdx) (t : Fmt) (base : Entry) (b : Vec)
    (k : List (Nat × Nat) → State → State) : State :=
  let n := t.width / 8
  let l := ((List.range (min (lanes t) 128)).filter (mbit (s.cx.mask f.k))).map fun i => (i, base.toNat + lane 32 b i * n)
  match l.find? (fun p => p.2 % n != 0 || !inTs s.cx.res.tsp p.2 n) with
  | some p => s.raiseTs p.2
  | none => k l s

/-- Samples in sc t + 1, lands in t + 10; mode TSW. -/
def execVldx (f : VIdx) (t : Fmt) (s : State) : Out :=
  .next (s.readS f.s fun base s => s.readV f.b fun b s => s.idxAccess f t base b fun l s =>
    let n := t.width / 8
    let m := s.cx.sys.tsw
    let es := l.flatMap fun p => (List.range n).map (p.2 + ·)
    s.awake m es fun s => s.checkTags m es fun s =>
      s.push (.v f.d) (.sampV ((List.range 512).map fun j =>
        (l.find? (fun p => p.1 == j / n)).map fun p => physTs s.cx.res.tsb m (p.2 + j % n))) 10 0)

/-- Lands in t + 4; the highest lane's value stands. -/
def execVstx (f : VIdx) (t : Fmt) (s : State) : Out :=
  .next (s.readS f.s fun base s => s.readV f.b fun b s => s.readV ⟨f.d, false⟩ fun v s =>
    s.idxAccess f t base b fun l s =>
      let n := t.width / 8
      let es := l.flatMap fun p => (List.range n).map (p.2 + ·)
      s.awake s.cx.sys.tsw es fun s => s.tsStore s.cx.sys.tsw (l.flatMap fun p =>
        (List.range n).map fun j => (p.2 + j, BitVec.ofNat 8 (lane 8 v (p.1 * n + j)))) 4)

/-- The offset of a scalar access and its check (R292). -/
def State.scalarAccess (s : State) (base : Entry) (imm : Nat) (t : Fmt) (k : Nat → State → State) : State :=
  let n := t.width / 8
  let e := base.toNat + imm * n
  if e % n ≠ 0 ∨ !inTs s.cx.res.tsp e n then s.raiseTs e else k e s

/-- Samples in sc t + 1 and pushes put(value, t) in t + 4. -/
def execLdTs (d : Fin 32) (a : SrcS) (imm : Fin 256) (t : Fmt) (s : State) : Out :=
  .next (s.readS a fun base s => s.scalarAccess base imm t fun e s =>
    let m := s.cx.sys.tsw
    let es := (List.range (t.width / 8)).map (e + ·)
    s.awake m es fun s => s.checkTags m es fun s =>
      s.push (.s d) (.sampS (es.map fun o => some (physTs s.cx.res.tsb m o)) (isSigned t)) 4 0)

/-- Writes the low w bits of its value in t + 2. -/
def execStTs (p : Src2) (imm : Fin 256) (t : Fmt) (s : State) : Out :=
  .next (s.readS p.a fun base s => s.readS p.b fun v s => s.scalarAccess base imm t fun e s =>
    s.awake s.cx.sys.tsw ((List.range (t.width / 8)).map (e + ·)) fun s =>
      s.tsStore s.cx.sys.tsw (((List.range (t.width / 8)).zip (leBytes v.toNat (t.width / 8))).map fun q => (e + q.1, q.2)) 2)

-- Tile-store regions of the matrix engine

/-- One offset in each page that `n` bytes from `e` touch. -/
def pagesOf (e n : Nat) : List Nat := (List.range ((e + n + 0x3FFF) / 0x4000 - e / 0x4000)).map fun p => max e ((e / 0x4000 + p) * 0x4000)

/-- A tile-store region replaced whole: bytes listed page by page in physical order. -/
def SpireMem.putTile (x : SpireMem) (tsb m e : Nat) (b : List (Nat × Byte)) : SpireMem :=
  let ps := b.map fun p => (physTs tsb m p.1, p.2)
  let p0 := (tsb + e) / 0x4000 * 0x4000
  let n := (b.length + 0x8000) / 0x4000 * 0x4000
  let arr := ps.foldl (fun (a : Array Byte) p => a.setIfInBounds (p.1 - p0) p.2) (dense x.ts p0 n)
  let y := x.putBytes [] (tagsOf m (pagesOf e b.length |>.map (physTs tsb m)))
  { y with
    ts := putRange x.ts p0 n (fun k => arr.getD k 0)
    touched := (pagesOf e b.length).foldl (fun t o => Tab.set t ((tsb + o) / 0x4000) true) x.touched
    poison := if x.poison.isEmpty then [] else x.poison.filter (fun w =>
      !(w.1 == 1 && (List.range 8).all (fun j => ps.any (fun p => p.1 == w.2 + j)))) }

end Sys2Proof.Machine
end

