-- ==== Sys2Proof/Machine/Barrier.lean ====
section
/-! DEFINITION. Machine/Barrier.lean: barrier objects in the tile store (R122 to R125, R408): their fields, an arrival,
an expectation, a flip, and where an arrival finds its barrier (R139, R277). -/

namespace Sys2Proof.Machine

/-- A barrier object, Table 04-2. -/
structure Bar where
  arr : Nat
  exp : Nat
  arm : Bool
  ph : Bool
  ridx : Nat
  depth : Nat
  link : Nat
  res : Nat
deriving DecidableEq, Repr

/-- The barrier that two words hold; `res` keeps the reserved bits. -/
def Bar.of (w0 w1 : Nat) : Bar where
  arr := bits w0 0 32
  exp := bits w0 32 32
  arm := bit w1 63
  ph := bit w1 32
  ridx := bits w1 44 4
  depth := bits w1 40 4
  link := bits w1 4 18
  res := bits w1 48 15 * 2 ^ 48 + bits w1 33 7 * 2 ^ 33 + bits w1 22 10 * 2 ^ 22 + bits w1 0 4

def Bar.w0 (b : Bar) : Nat := b.exp * 2 ^ 32 + b.arr
def Bar.w1 (b : Bar) : Nat :=
  (if b.arm then 2 ^ 63 else 0) + b.ridx * 2 ^ 44 + b.depth * 2 ^ 40 + (if b.ph then 2 ^ 32 else 0) + b.link * 2 ^ 4 + b.res

/-- `flip` of R123. -/
def Bar.flip (b : Bar) : Bar := { b with arr := b.arr - b.exp, exp := 0, arm := false, ph := !b.ph }

/-- `arrive` of R123: the barrier, whether it flipped, whether ARR saturated (R408). -/
def Bar.arrive (b : Bar) (n : Nat) : Bar × Bool × Bool :=
  let a := min (b.arr + n) (2 ^ 32 - 1)
  let b1 := { b with arr := a }
  let f := b.arm && decide (b.exp ≤ a)
  (if f then b1.flip else b1, f, decide (2 ^ 32 ≤ b.arr + n))

/-- `expect` of R123: the same for EXP. -/
def Bar.expect (b : Bar) (n : Nat) : Bar × Bool × Bool :=
  let e := min (b.exp + n) (2 ^ 32 - 1)
  let b1 := { b with exp := e, arm := true }
  let f := decide (e ≤ b.arr)
  (if f then b1.flip else b1, f, decide (2 ^ 32 ≤ b.exp + n))

/-- A number of `n` bytes at physical offset `p`, mode 0. -/
def SpireMem.num (x : SpireMem) (p : Nat) : Nat → Nat
  | 0 => 0
  | n + 1 => (x.byteAt p).toNat + 256 * SpireMem.num x (p + 1) n

/-- The barrier at physical offset `p`. -/
def SpireMem.bar (x : SpireMem) (p : Nat) : Bar := Bar.of (x.num p 8) (x.num (p + 8) 8)

/-- A hardware update of a barrier: tags stay (R112 lists no barrier update), the operations of the phase are kept. -/
def SpireMem.setBar (x : SpireMem) (p : Nat) (b : Bar) (ops : List Nat) : SpireMem :=
  { x with
    ts := writeLE (writeLE x.ts p b.w0 8) (p + 8) b.w1 8
    phaseOps := if ops.isEmpty then Tab.del x.phaseOps p else Tab.set x.phaseOps p ops }

/-- Operations that have arrived in the present phase of the barrier at `p`. -/
def SpireMem.ops (x : SpireMem) (p : Nat) : List Nat := Tab.get x.phaseOps p []

/-- An arrival of `n` bytes by operation `op` (0 for none) at `p`, and whether ARR saturated. -/
def SpireMem.arriveAt (x : SpireMem) (p n op : Nat) : SpireMem × Bool :=
  let r := (x.bar p).arrive n
  (x.setBar p r.1 (if r.2.1 then [] else x.ops p ++ [op]), r.2.2)

/-- An expectation of `n` bytes at `p`, and whether EXP saturated. -/
def SpireMem.expectAt (x : SpireMem) (p n : Nat) : SpireMem × Bool :=
  let r := (x.bar p).expect n
  (x.setBar p r.1 (if r.2.1 then [] else x.ops p), r.2.2)

/-- BOUNDS/0x06 as a spire event (R408): field 0 is ARR, 1 is EXP. -/
def State.barSaturated (s : State) (sp off field : Nat) (b : Bool) : State :=
  if b then s.event sp (.mk' 4 6 0 [(0x40, 8, off), (0x48, 1, field)]) else s

/-- An arrival in a spire's own tile store (DEDUCED, log 44). -/
def State.arriveIn (s : State) (sp p off n op : Nat) : State :=
  let r := (s.spire sp).mem.arriveAt p n op
  (s.modSpire sp (fun x => { x with mem := r.1 })).barSaturated sp off 0 r.2

/-- An expectation in a spire's own tile store (DEDUCED, log 44). -/
def State.expectIn (s : State) (sp p off n : Nat) : State :=
  let r := (s.spire sp).mem.expectAt p n
  (s.modSpire sp (fun x => { x with mem := r.1 })).barSaturated sp off 1 r.2

/-- One arrival applied: in the store of the spire where the task now runs, in its image, or in the pages that stay
allocated to a task that has retired (R139, R277). -/
def State.applyArr (s : State) (a : Arr) : State :=
  match s.locate a.sp 8 a.tid with
  | some (n, j) => s.arriveIn n ((s.ctx n j).res.tsb + a.off) a.off a.n a.op
  | none =>
    match s.imageOf a.tid with
    | some i =>
      let r := i.mem.arriveAt a.off a.n a.op
      (s.modImage a.tid (fun x => (x.arriveAt a.off a.n a.op).1)).barSaturated a.sp a.off 0 r.2
    | none => s.arriveIn a.sp (a.tsb + a.off) a.off a.n a.op

/-- An arrival on its way to a barrier of spire `a.sp`: applied at the event `barrierArrival` (R123). -/
def State.sendArr (s : State) (a : Arr) : State :=
  (s.modSpire a.sp (fun x => { x with arrivals := x.arrivals ++ [a] })).later [.barrierArrival (Fin.ofNat 128 a.sp)]

/-- The barrier that an arrival meets in a spire's store, as (spire, physical offset); none while its task is saved. -/
def State.arrPlace (s : State) (a : Arr) : Option (Nat × Nat) :=
  match s.locate a.sp 8 a.tid with
  | some (n, j) => some (n, (s.ctx n j).res.tsb + a.off)
  | none => match s.imageOf a.tid with
    | some _ => none
    | none => some (a.sp, a.tsb + a.off)

/-- The barrier at `p` of spire `n` has met its one event of this sc (R123). -/
def State.barUsed (s : State) (n p : Nat) : Bool := (s.spire n).barDone.contains p
def State.useBar (s : State) (n p : Nat) : State := s.modSpire n (fun x => { x with barDone := p :: x.barDone })

/-- The arrival may be applied in this sc. -/
def State.mayArrive (s : State) (a : Arr) : Bool :=
  match s.arrPlace a with
  | some p => !s.barUsed p.1 p.2
  | none => true

/-- One arrival applied, and its barrier's event of this sc used up. -/
def State.takeArr (s : State) (a : Arr) : State :=
  match s.arrPlace a with
  | some p => (s.useBar p.1 p.2).applyArr a
  | none => s.applyArr a

/-- `barrierArrival`: the oldest arrival of the spire that its barrier may take in this sc is applied, those of tile copies before those of
the multicast network (R118, R123); the others wait for the next sc. -/
def execBarrierArrival (sp : Fin 128) (s : State) : Out :=
  let l := (s.spire sp).arrivals
  .next (match (l.filter (fun a => !a.mc) ++ l.filter (fun a => a.mc)).find? s.mayArrive with
    | none => s
    | some a => (s.modSpire sp (fun x => { x with arrivals := l.erase a })).takeArr a)

end Sys2Proof.Machine
end

