-- ==== Sys2Proof/Machine/ScalarFloat.lean ====
section
/-! DEFINITION. Machine/ScalarFloat.lean: the scalar float instructions (spec/07, R217 to R219): each forms its exact
value (R218), rounds it once under its code (R148, R149, R152) and sets FST bits in its landing sc. -/

namespace Sys2Proof.Machine

/-- The exact value of an operand (R203). -/
def opndF (t : Fmt) (x : Entry) : FV := decodeFlt t (x.toNat % 2 ^ t.width)
/-- Latency of a scalar float operation: 4 sc for f32, 6 for f64 (Table 06-7). -/
def fltLat (t : Fmt) : Nat := if t = .f64 then 6 else 4
/-- Latency of `fdiv` and `fsqrt`. -/
def fdivLat (t : Fmt) : Nat := if t = .f64 then 24 else 12

/-- A rounded result: idx is 0 (R218). -/
def State.pushF (s : State) (d : Fin 32) (t : Fmt) (m : Rm) (lat : Nat) (v : FVI) : State :=
  let c := finish t (s.rnd m 0) v
  (s.pushS d (BitVec.ofNat 64 c.code) lat c.st).drawn m

/-- A float operation of two sources; f is told the static rounding mode, which gives the sign of an exact zero sum. -/
def fltOp (r : Reg3) (m : Rm) (t : Fmt) (lat : Nat) (f : Rm → FV → FV → FVI) (s : State) : State :=
  s.bin r fun x y s => s.pushF r.d t m lat (f (s.cx.mode m) (opndF t x) (opndF t y))

def execFadd (r : Reg3) (m : Rm) (t : Fmt) (s : State) : Out := .next (fltOp r m t (fltLat t) FV.add s)
def execFsub (r : Reg3) (m : Rm) (t : Fmt) (s : State) : Out :=
  .next (fltOp r m t (fltLat t) (fun k x y => FV.add k x y.neg) s)
def execFmul (r : Reg3) (m : Rm) (t : Fmt) (s : State) : Out :=
  .next (fltOp r m t (fltLat t) (fun _ x y => x.mul y) s)
/-- R218: the addend is popped from d, +0 from s0; x * y + z is rounded once. -/
def execFma (r : Reg3) (m : Rm) (t : Fmt) (s : State) : Out :=
  .next (s.bin r fun x y s => s.popS r.d fun z s =>
    s.pushF r.d t m (fltLat t) (FV.fma (s.cx.mode m) (opndF t x) (opndF t y) (opndF t z)))
def execFdiv (r : Reg3) (m : Rm) (t : Fmt) (s : State) : Out :=
  .next (fltOp r m t (fdivLat t) (fun _ x y => x.div y) s)
def execFsqrt (r : Reg2) (m : Rm) (t : Fmt) (s : State) : Out :=
  .next (s.readS r.a fun x s => s.pushF r.d t m (fdivLat t) (opndF t x).sqrt)
/-- R218: the canonical NaN when either input is NaN; no status bit. -/
def execFmin (r : Reg3) (t : Fmt) (s : State) : Out :=
  .next (s.bin r fun x y s => s.pushS r.d (BitVec.ofNat 64 (fminCode t false x.toNat y.toNat)) (fltLat t) 0)
def execFmax (r : Reg3) (t : Fmt) (s : State) : Out :=
  .next (s.bin r fun x y s => s.pushS r.d (BitVec.ofNat 64 (fminCode t true x.toNat y.toNat)) (fltLat t) 0)
def execFcmp (r : Reg3) (cc : Cond) (t : Fmt) (s : State) : Out :=
  .next (s.bin r fun x y s => s.pushS r.d (if condHolds cc ((opndF t x).cmp (opndF t y)) then 1 else 0) (fltLat t) 0)
/-- R219: `convert` of R163; events of kinds 1, 3 and 4 with ELEM 0. -/
def execFcvt (r : Reg2) (src : Fmt) (sat : Bool) (m : Rm) (dst : Fmt) (s : State) : Out :=
  .next (s.readS r.a fun x s =>
    let c := convert (decodeVal src (x.toNat % 2 ^ src.width)) dst (s.rnd m 0) sat
    let e := if dst.isInt then putI dst (c.code : Nat) else BitVec.ofNat 64 c.code
    s.events (.fcvt r src sat m dst) (if c.kind = 0 then [] else [(0, c.kind)]) fun s =>
      (s.pushS r.d e (if src = .f64 ∨ dst = .f64 then 6 else 4) c.st).drawn m)
def execFcls (r : Reg2) (t : Fmt) (s : State) : Out :=
  .next (s.readS r.a fun x s => s.pushS r.d (BitVec.ofNat 64 (classMask t (x.toNat % 2 ^ t.width))) (fltLat t) 0)

end Sys2Proof.Machine
end

