-- ==== Sys2Proof/Machine/Control.lean ====
section
/-! DEFINITION. Machine/Control.lean: control transfer, the loop instruction, yield, tend, trap and brk, system register
access and duplicate checking (spec/07, R220 to R229; spec/06, R181, R182, R188; spec/19, R414 to R416). -/

namespace Sys2Proof.Machine

/-- An operation that a loop body must not contain raises ILLEGAL/0x06 inside one (R188) (DESIGN CHOICE, log 24). -/
def State.notInLoop (s : State) (k : State → State) : State := 
  if s.cx.inBody s.iss.off then s.illegal 6 else k s

/-- A control target: BOUNDS/0x03 when it is misaligned or at or beyond NLEN (R220) (DEDUCED, log 19). -/
def State.jumpTo (s : State) (v : Int) (k : Nat → State → State) : State :=
  if v < 0 ∨ v % 16 ≠ 0 ∨ (s.cx.res.nlen : Int) ≤ v then s.raise (.mk' 4 3 s.iss.slot [(0x40, 8, wrapN 32 v)]) else k v.toNat s

/-- The context's next bundle comes from `t` (R220). -/
def State.goTo (s : State) (t : Nat) : State := { s with iss := { s.iss with target := some t } }

/-- A relative target: the bundle's offset plus 16 times the immediate (R220) (DEDUCED, log 19). -/
def State.relative (s : State) (imm : Int) : Int := (s.iss.off : Int) + 16 * imm

def execBr (imm : Fin 1048576) (s : State) : Out :=
  .next (s.notInLoop fun s => s.jumpTo (s.relative (sextN 20 imm)) fun t s => s.goTo t)

/-- Table 07-10 on a signed entry. -/
def brTaken (c : BCond) (x : Int) : Bool :=
  match c with
  | .z => x == 0
  | .nz => x != 0
  | .ltz => decide (x < 0)
  | .gez => decide (0 ≤ x)
  | .gtz => decide (0 < x)
  | .lez => decide (x ≤ 0)

def execBrc (cc : BCond) (a : SrcS) (imm : Fin 16384) (s : State) : Out :=
  .next (s.notInLoop fun s => s.readS a fun x s =>
    if brTaken cc x.toInt then s.jumpTo (s.relative (sextN 14 imm)) fun t s => s.goTo t else s)

def execJmp (a : SrcS) (s : State) : Out :=
  .next (s.notInLoop fun s => s.readS a fun x s => s.jumpTo (x.toNat % 2 ^ 32 : Nat) fun t s => s.goTo t)

/-- R221: the target is checked before the return stack. -/
def execCall (imm : Fin 1048576) (s : State) : Out :=
  .next (s.notInLoop fun s => s.jumpTo (s.relative (sextN 20 imm)) fun t s =>
    if 16 ≤ s.cx.rstk.length then s.raise (.mk' 2 4 s.iss.slot [(0x40, 8, s.cx.rstk.length)])
    else (s.modCx (fun x => { x with rstk := .call (s.iss.off + 16) :: x.rstk })).goTo t)

def execRet (s : State) : Out :=
  .next (s.notInLoop fun s =>
    match s.cx.rstk with
    | .call t :: r => (s.modCx (fun x => { x with rstk := r })).goTo t
    | l => s.raise (.mk' 2 5 s.iss.slot [(0x40, 8, l.length)]))

/-- R222: `loop` inside a loop raises ILLEGAL/0x06; the trip count is popped; a body that reaches NLEN raises BOUNDS; a trip count of 0 skips the body (DEDUCED, log 20) (DESIGN CHOICE, log 24). -/
def execLoop (a : Fin 32) (n : Fin 64) (s : State) : Out :=
  .next (if s.cx.loop.isSome then s.illegal 6 else s.popS a fun x s =>
    let len := n.val + 1
    let fin := s.iss.off + 16 * (len + 1)
    let trips := x.toNat % 2 ^ 32
    if s.cx.res.nlen ≤ fin then s.raise (.mk' 4 3 s.iss.slot [(0x40, 8, fin)])
    else if trips = 0 then (s.modCx (fun y => { y with lb := 0, lc := 0 })).goTo fin
    else
      (s.modCx (fun y => { y with lb := trips, lc := 0, loop := some ⟨s.iss.off + 16, len, 0, y.depth⟩ })).modSpire s.iss.sp
        (fun y => { y with loopOwner := if y.loopOwner.isNone then some s.iss.c else y.loopOwner }))

/-- R57: the bundle completes, then the context waits for the contexts that were READY with it. -/
def execYield (s : State) : Out :=
  let s1 := s.commit
  let others := ((List.range 8).filter (fun k => k != s.iss.c && (s1.ctx s.iss.sp k).st == .ready))
  .next (s1.modCtx s.iss.sp s.iss.c (fun x => x.block (.yield others)))

/-- The context as it stood before the bundle. -/
def State.before (s : State) : Ctx :=
  match s.iss.pre with
  | some y => y.ctx s.iss.c
  | none => s.cx

/-- R224: with the outer pair valid before the bundle it raises CLOSURE/0x04; else an inline task ends, or the task retires (DEDUCED, log 57). An
inline task that a fork of the same bundle has just begun ends at once, and the forker goes on after the bundle. -/
def execTend (s : State) : Out :=
  let x := s.cx
  .next (
    if s.before.sys.opv then s.raise (causeO 11 4 s.iss.slot x.sys.cls 0 [(0x40, 8, x.sys.ocls.toNat)])
    else if x.depth = 0 then
      let s1 := s.commit
      s1.retire s.iss.sp s.iss.c
    else
      let r := s.endInline s.iss.sp s.iss.c
      match s.iss.inl with
      | some _ => ({ r.1 with iss := { r.1.iss with inl := none } } : State).commit
      | none => (r.1.goTo r.2).commit)

/-- R225: after its bundle the context freezes with SOFTWARE/0x01. -/
def execTrap (imm : Fin 1048576) (s : State) : Out := .next (s.trapAfter (.mk' 16 1 s.iss.slot [(0x40, 4, imm)]))

/-- A debugger holds the context's launch (R423). -/
def State.debugged (s : State) (x : Ctx) : Bool :=
  match s.slot x.res.ltwr x.res.lslot with
  | some l => l.l.dbg
  | none => false

/-- R225, R423: under a debugger the context enters HALT after its bundle, else it freezes with DEBUG/0x01 (DEDUCED, log 58). -/
def execBrk (imm : Fin 1048576) (s : State) : Out :=
  .next (if s.debugged s.cx then s.commit.modCtx s.iss.sp s.iss.c (fun x => { x with st := .halt })
    else s.trapAfter (.mk' 15 1 s.iss.slot [(0x40, 4, imm)]))

-- System registers (Table 06-6)

/-- The register of number n as `sysrd` reads it; none where the number is unassigned. -/
def State.sysRead (s : State) (n : Nat) : Option Nat :=
  let x := s.cx
  match n with
  | 0x000 => some x.sys.nvr
  | 0x001 => some (if x.sys.lwc then 1 else 0)
  | 0x002 => some x.sys.xlh.toNat
  | 0x003 => some x.sys.wgt
  | 0x004 => some x.sys.cls.toNat
  | 0x005 => some x.sys.ocls.toNat
  | 0x006 => some (x.sys.owgt + (if x.sys.opv then 2 ^ 63 else 0))
  | 0x007 => some x.sys.sid
  | 0x008 => some x.sys.pri
  | 0x009 => some x.sys.ftp
  | 0x00A => some x.sys.seed
  | 0x00B => some x.sys.sctr
  | 0x00C => some x.sys.rmd
  | 0x00D => some x.fst0
  | 0x00E => some x.sys.nxe
  | 0x00F => some x.sys.tsw
  | 0x010 => some x.res.tsb
  | 0x011 => some s.iss.sp
  | 0x012 => some x.sys.rol
  | 0x013 => some x.lc
  | 0x014 => some x.lb
  | 0x015 => some (s.spire s.iss.sp).cyc
  | 0x016 => some s.cfg.fuses.dhs
  | 0x017 => some x.sys.cvr
  | 0x018 => some s.cfg.pkn
  | 0x019 => some (x.res.ltwr * 256 + x.res.lslot)
  | n => if 0x020 ≤ n ∧ n ≤ 0x027 then some (x.tc.getD (n - 0x020) 0) else none

/-- The registers that `syswr` may name (RW in Table 06-6); LWC in SID 0 only (R182). -/
def Ctx.sysWritable (x : Ctx) (n : Nat) : Bool :=
  n == 0 || (n == 1 && x.sys.sid == 0) || n == 2 || (decide (9 ≤ n) && decide (n ≤ 15))

/-- The value lies in the register's range (R150, R182). -/
def sysInRange (n v : Nat) : Bool :=
  match n with
  | 0 => decide (5 ≤ v) && decide (v ≤ 7)
  | 1 => decide (v ≤ 1)
  | 9 => decide (1 ≤ v) && decide (v ≤ 16)
  | 11 => decide (v < 2 ^ 48)
  | 12 => decide (v ≤ 5)
  | 13 => decide (v < 32)
  | 14 => decide (v < 16)
  | 15 => decide (v < 8)
  | _ => true

/-- ILLEGAL/0x07 with the number and the value (Table 19-3). -/
def sysCause (slot n v : Nat) : Cause := .mk' 1 7 slot [(0x40, 8, n), (0x48, 8, v)]

/-- A system register set (R228 says when). -/
def Ctx.sysSet (x : Ctx) (n : Nat) (e : Entry) : Ctx :=
  let v := e.toNat
  { x with sys := match n with
    | 0 => { x.sys with nvr := v }
    | 1 => { x.sys with lwc := v == 1 }
    | 2 => { x.sys with xlh := e }
    | 9 => { x.sys with ftp := v }
    | 10 => { x.sys with seed := v }
    | 11 => { x.sys with sctr := v }
    | 12 => { x.sys with rmd := v }
    | 13 => { x.sys with fst := v }
    | 14 => { x.sys with nxe := v }
    | 15 => { x.sys with tsw := v }
    | _ => x.sys }

/-- R227: sampled in the issue sc, pushed 2 sc later. -/
def execSysrd (d : Fin 32) (n : Fin 1024) (s : State) : Out :=
  .next (match s.sysRead n with
    | some v => s.pushS d (BitVec.ofNat 64 v) 2 0
    | none => s.raise (sysCause s.iss.slot n 0))

/-- R182, R228: effective at the start of sc t + 1. -/
def execSyswr (a : SrcS) (n : Fin 1024) (s : State) : Out :=
  .next (s.readS a fun x s =>
    if s.cx.sysWritable n && sysInRange n x.toNat then s.modCx (fun y => { y with syswr := y.syswr ++ [(n.val, x)] })
    else s.raise (sysCause s.iss.slot n x.toNat))

/-- R229, R415, R416: above COV it only pops; a mismatch raises CHECK/0x01, which CHKN of the spire counts. -/
def execChk (p : Src2) (l : Fin 4) (s : State) : Out :=
  .next (s.readS p.a fun x s => s.readS p.b fun y s =>
    if s.cx.res.cov < l ∨ x = y then s
    else
      let n := min ((s.spire s.iss.sp).chkn + 1) (2 ^ 32 - 1)
      (s.raise (.mk' 13 1 s.iss.slot [(0x40, 8, x.toNat), (0x48, 8, y.toNat), (0x50, 4, l), (0x54, 4, n)])).modSpire s.iss.sp
        (fun z => { z with chkn := n }))

end Sys2Proof.Machine
end

