-- ==== Sys2Proof/Machine/Landing.lean ====
section
/-! DEFINITION. Machine/Landing.lean: what becomes of a spire's results in each sc: samples and landings (R118, R177 to
R180), deferred results (R178), tile-store writes (R118, R295 to R297), the ends of waits (R56, R57, R129) and stalls
(R52, R55), debug steps (R75). -/

namespace Sys2Proof.Machine

-- Samples (R118)

/-- The bytes of a sample, the first byte lowest. -/
def SpireMem.gather (x : SpireMem) (l : List (Option Nat)) : Nat :=
  ofBytes (l.map fun p => match p with
    | some p => x.byteAt p
    | none => 0)

/-- A sampled value, and the offset of a poisoned byte that the sample met (R441, R442). -/
def SpireMem.sample (x : SpireMem) (v : RVal) : RVal × Option Nat :=
  let bad (l : List (Option Nat)) : Option Nat := (l.filterMap id).find? (fun p => x.poisoned [p])
  match v with
  | .sampS l se => (.s (if se then BitVec.ofInt 64 (sextN (8 * l.length) (x.gather l)) else BitVec.ofNat 64 (x.gather l)), bad l)
  | .sampV l => (.v (BitVec.ofNat 4096 (x.gather l)), bad l)
  | v => (v, none)

/-- CHECK/0x02 of a tile-store word (Tables 20-1, 20-3). -/
def poisonTs (slot p : Nat) : Cause := .mk' 13 2 slot [(0x40, 1, 1), (0x48, 8, p)]

/-- Samples of context c taken; a poisoned one is discarded and its context freezes at the next boundary (R442). -/
def State.sampleCtx (s : State) (sp c : Nat) : State :=
  let x := s.ctx sp c
  let mem := (s.spire sp).mem
  let l := x.inflight.map fun f => (f, mem.sample f.val)
  let bad := l.filterMap fun p => p.2.2.map fun o => (p.1, o)
  let s1 := s.setCtx sp c { x with inflight := (l.filter (fun p => p.2.2.isNone)).map fun p => { p.1 with val := p.2.1 } }
  bad.foldl (fun s q => s.deferTrap sp c x.res.tid (poisonTs q.1.slot q.2) q.1.off) s1

-- Landings

/-- A value pushed to its register; none when the queue is full (R179) (DEDUCED, log 15). -/
def Ctx.land (x : Ctx) (d : Dest) (v : RVal) : Option Ctx :=
  match d, v with
  | .s q, .s e => if q = 0 then some x else if 4 ≤ (x.sOf q).length then none else some (x.setS q (x.sOf q ++ [e]))
  | .v q, .v e => if 2 ≤ (x.vOf q).length then none else some (x.setV q (x.vOf q ++ [e]))
  | .m k, .m e => some (if k = 0 then x else { x with masks := Tab.set x.masks k e })
  | _, _ => some x

/-- QUEUE/0x02 for a destination. -/
def overflowCause (slot : Nat) (d : Dest) : Cause :=
  match d with
  | .s q => .mk' 2 2 slot [(0x40, 1, 0), (0x41, 1, q)]
  | .v q => .mk' 2 2 slot [(0x40, 1, 1), (0x41, 1, q)]
  | .m k => .mk' 2 2 slot [(0x40, 1, 0), (0x41, 1, k)]

/-- A result of bundle n, slot k was issued before one of bundle m, slot j. -/
def issuedBefore (n k m j : Nat) : Bool := decide (n < m) || (n == m && decide (k < j))

/-- A deferred result may land: its value is there, its least time ends in this sc, and every earlier push into its register has landed:
those of `fl` and those of `before` have not (R178). -/
def Deferred.mayLand (e : Deferred) (fl : List Flight) (before : List Deferred) : Bool :=
  e.val.isSome && decide (e.least ≤ 1) && !before.any (fun d => d.dest == e.dest)
    && !fl.any (fun f => f.dest == e.dest && issuedBefore f.num f.slot e.num e.slot)

/-- A result that found its queue full (R179): slot, bundle offset, destination. -/
structure Overflow where
  slot : Nat
  off : Nat
  dest : Dest
deriving DecidableEq, Repr

/-- Deferred results that `sel` picks land in issue order while the fixed-latency results `fl` are still in flight; an overflow keeps the
rest (R178, R179). -/
def Ctx.landDeferred (sel : Deferred → Bool) (fl : List Flight) (x : Ctx) : List Deferred → List Deferred → Ctx × Option Overflow
  | [], keep => ({ x with deferred := keep.reverse }, none)
  | e :: r, keep =>
    if sel e && e.mayLand fl keep then
      match e.val with
      | some v =>
        match x.land e.dest v with
        | some y => Ctx.landDeferred sel fl y r keep
        | none => ({ x with deferred := keep.reverse ++ e :: r }, some ⟨e.slot, e.off, e.dest⟩)
      | none => Ctx.landDeferred sel fl x r (e :: keep)
    else Ctx.landDeferred sel fl x r (e :: keep)

/-- Results whose delay has run out land in issue order; a deferred result into the same register that was issued before one and may land
goes first (R177, R178). From an overflow on, every result stays (R179). The answer names the overflowing one (DEDUCED, log 15). -/
def Ctx.landAll (x : Ctx) : List Flight → List Flight → Ctx × Option Overflow
  | [], keep => ({ x with inflight := keep.reverse }, none)
  | f :: r, keep =>
    if f.delay = 0 then
      match x.landDeferred (fun e => e.dest == f.dest && issuedBefore e.num e.slot f.num f.slot) (keep ++ f :: r) x.deferred [] with
      | (z, some o) => ({ z with inflight := keep.reverse ++ f :: r }, some o)
      | (z, none) =>
        match z.land f.dest f.val with
        | some y => Ctx.landAll { y with sys := { y.sys with fst := stOr y.sys.fst f.fst } } r keep
        | none => ({ z with inflight := keep.reverse ++ f :: r }, some ⟨f.slot, f.off, f.dest⟩)
    else Ctx.landAll x r (f :: keep)

/-- System registers and format-table entries that took effect (R161, R182): entry e is listed under 1024 + e. FST as it now
stands, before the results of this sc land, is what a `sysrd` of this sc sees (R227). -/
def Ctx.applySys (x : Ctx) : Ctx :=
  let y := x.syswr.foldl (fun y p =>
    if p.1 < 1024 then y.sysSet p.1 p.2 else { y with ftab := Tab.set y.ftab (p.1 - 1024) p.2 }) x
  { y with syswr := [], fst0 := y.sys.fst }

/-- The context's exposed results advance in this sc: it runs, or it steps (R75, R404). -/
def Ctx.advances (x : Ctx) : Bool :=
  match x.st with
  | .ready => true
  | .wait => true
  | .stall => true
  | .halt => x.halting
  | _ => false

/-- One sc of a context's fixed-latency results. -/
def State.landCtx (s : State) (sp c : Nat) : State :=
  let s1 := s.sampleCtx sp c
  let x := (s1.ctx sp c).applySys
  if x.advances then
    let r := x.landAll (x.inflight.map fun f => { f with delay := f.delay - 1 }) []
    let s2 := s1.setCtx sp c r.1
    match r.2 with
    | none => s2
    | some f => s2.freeze sp c (overflowCause f.slot f.dest) false true f.off r.1.pc
  else s1.setCtx sp c x

/-- The contexts of a spire. -/
def ctxNums : List Nat := List.range 8

def execResultLanding (sp : Fin 128) (s : State) : Out := .next (ctxNums.foldl (fun s c => s.landCtx sp c) s)

/-- One sc of a context's deferred results. -/
def State.landDeferredCtx (s : State) (sp c : Nat) : State :=
  let x := s.ctx sp c
  if x.advances then
    let r := x.landDeferred (fun _ => true) x.inflight x.deferred []
    let s2 := s.setCtx sp c { r.1 with deferred := r.1.deferred.map fun e => { e with least := e.least - 1 } }
    match r.2 with
    | none => s2
    | some e => s2.freeze sp c (overflowCause e.slot e.dest) false true e.off r.1.pc
  else s

def execDeferredResultLanding (sp : Fin 128) (s : State) : Out :=
  .next (ctxNums.foldl (fun s c => s.landDeferredCtx sp c) s)

-- Tile-store writes

/-- One context's tile-store events of this sc: those whose sc has come, which leave, and the others, one sc older. An arrival waits for every
earlier write of its context and for the release rule, which `rel` gives for its bundle (R132, R297). -/
def splitTsw (rel : TsWrite → Bool) : List TsWrite → List TsWrite → List TsWrite × List TsWrite
  | [], keep => ([], keep.reverse)
  | w :: r, keep =>
    let due := w.delay == 0 && (match w.act with
      | .arrive _ _ => rel w && keep.all (fun v => match v.act with
        | .bytes _ _ => v.tid != w.tid
        | _ => true)
      | _ => true)
    if due then
      let p := splitTsw rel r keep
      (w :: p.1, p.2)
    else splitTsw rel r ({ w with delay := w.delay - 1 } :: keep)

/-- The engine's writes of this sc land, the second of the order of R118; poison moves with them (R257, R441). -/
def SpireMem.putEngine (x : SpireMem) (w : EngineWrite) : SpireMem :=
  let y := x.putTile w.tsb w.swz w.off w.bytes
  { y with poison := y.poison ++ w.bad.map (fun o => (1, physTs w.tsb w.swz o / 8 * 8)) }
def Spire.putDrain (x : Spire) : Spire := { x with mem := x.drain.foldl SpireMem.putEngine x.mem, drain := [] }

/-- The barrier that an event of a context's own counts at, if it is one. -/
def TsWrite.bar (w : TsWrite) : Option Nat :=
  match w.act with
  | .bytes _ _ => none
  | .expect p _ => some p
  | .arrive p _ => some p

/-- One tile-store event of a context takes effect; an expectation or arrival whose barrier has met another in this sc waits (R123). -/
def State.tsEffect (s : State) (sp c : Nat) (w : TsWrite) : State :=
  match w.bar with
  | some p =>
    if s.barUsed sp p then s.modCtx sp c (fun x => { x with
      tsw := x.tsw.takeWhile (fun v => decide (v.num ≤ w.num)) ++ w :: x.tsw.dropWhile (fun v => decide (v.num ≤ w.num)) })
    else
      let s1 := s.useBar sp p
      match w.act with
      | .expect _ n => s1.expectIn sp p (p - w.tsb) n
      | .arrive _ n => s1.arriveIn sp p (p - w.tsb) n 0
      | .bytes _ _ => s
  | none =>
    match w.act with
    | .bytes b tags => s.modSpire sp (fun x => { x with mem := x.mem.putBytes b tags })
    | _ => s

/-- `tsWriteLanding`, at the end of an sc: the writes of slot 1, the engine's, those of slot 3, then this spire's expectations and own arrivals
(R112, R118, R295 to R297). Writes of one slot land by context number, then in issue order (DESIGN CHOICE, log 101). -/
def execTsWriteLanding (sp : Fin 128) (s : State) : Out :=
  let live (x : Ctx) : Bool := x.st != .halt || x.halting
  let parts := ctxNums.map fun c =>
    let x := s.ctx sp c
    (c, if live x then splitTsw (fun w => !s.unperformed (towerOf sp) (s.spire sp).out w.tid w.num) x.tsw [] else ([], x.tsw))
  let s1 := parts.foldl (fun s p => s.modCtx sp p.1 (fun x => { x with tsw := p.2.2 })) (s.modSpire sp (fun x => { x with barDone := [] }))
  let due := parts.flatMap fun p => p.2.1.map fun w => (p.1, w)
  let writes (k : Nat) := due.filter (fun p => p.2.slot == k && p.2.bar.isNone)
  let go (s : State) (l : List (Nat × TsWrite)) : State := l.foldl (fun s p => s.tsEffect sp p.1 p.2) s
  let s2 := (go s1 (writes 0 ++ writes 1)).modSpire sp Spire.putDrain
  .next ((go (go s2 (writes 2 ++ writes 3)) (due.filter (fun p => p.2.bar.isSome))).sendOut sp)

-- Waits

/-- The value that `cnt.rd` and `waitc` read: a counter, or ARV of a window as its element 0 (R300). -/
def State.counterAt (s : State) (h : Entry) (ix : Nat) : Option Nat :=
  match s.liveOf h 1 with
  | some o => if ix < o.words then some (s.objRead o 0 (o.wordOff ix) 8) else none
  | none =>
    match s.liveOf h 4 with
    | some o => if ix = 0 then some (s.objRead o 0 0 8) else none
    | none => none

/-- The barriers that a wait reads, by their physical offsets. -/
def State.waitBars (s : State) (sp c : Nat) (w : WaitC) : List Nat :=
  let x := s.ctx sp c
  match w with
  | .barrier off _ _ => [x.res.tsb + off]
  | .ring off u _ =>
    let slot := off + 16 * (u % (((s.spire sp).mem.bar (x.res.tsb + off)).depth + 1))
    (x.res.tsb + off) :: (if inTs x.res.tsp slot 16 then [x.res.tsb + slot] else [])
  | _ => []
/-- A poisoned barrier that a wait reads (R442). -/
def State.waitPoison (s : State) (sp c : Nat) (w : WaitC) : Option Nat :=
  (s.waitBars sp c w).find? (fun p => (s.spire sp).mem.poisoned [p, p + 8])

/-- The condition of a wait; none where a ring's depth has come to reach beyond the allocation (R298). -/
def State.waitMet (s : State) (sp c : Nat) (w : WaitC) : Option Bool :=
  let x := s.ctx sp c
  let mem := (s.spire sp).mem
  match w with
  | .barrier off ph _ => some ((mem.bar (x.res.tsb + off)).ph == ph)
  | .ring off u _ =>
    let depth := (mem.bar (x.res.tsb + off)).depth + 1
    let slot := off + 16 * (u % depth)
    if inTs x.res.tsp slot 16 then some ((mem.bar (x.res.tsb + slot)).ph != (u / depth % 2 == 1)) else none
  | .counter h ix tgt => some (match s.counterAt h ix with
    | some v => decide (tgt ≤ v)
    | none => false)
  | .version h v => some (match s.obj (honum h) with
    | some o => hpkg h == s.cfg.pkn && o.gen == hgchk h && decide (v ≤ o.cver)
    | none => false)
  | .closure h => some (match s.liveOf h 3 with
    | some o => (s.clo o).st == 2
    | none => false)
  | .publish _ => some false
  | .yield l => some l.isEmpty
  | .remote _ => some false

/-- The landing rule of R56: fixed-latency results and tile-store writes of the slots that were issued before the wait bundle, the last
that the context issued, have landed (DEDUCED, log 16). -/
def Ctx.landed (x : Ctx) : Bool :=
  x.inflight.all (fun f => f.num == x.lastNum) && x.tsw.all (fun w => match w.act with
    | .bytes _ _ => w.num == x.lastNum || w.tid != x.res.tid
    | _ => true)

/-- A wait that is over: what remains is the landing rule. -/
def WaitC.over : WaitC := .yield []

/-- A context leaves WAIT once its wait is over and it has landed. -/
def Ctx.wake (x : Ctx) : Ctx :=
  if x.wait = some .over ∧ x.landed then { x with wait := none, st := if x.st = .wait then .ready else x.st } else x

/-- Offset of the bundle of a barrier wait, and the barrier it names. -/
def WaitC.boff : WaitC → Nat
  | .barrier _ _ b => b
  | .ring _ _ b => b
  | _ => 0
def WaitC.off : WaitC → Nat
  | .barrier off _ _ => off
  | .ring off _ _ => off
  | _ => 0

/-- One context's wait evaluated: a poisoned barrier freezes it (R442), as a ring that has come to reach beyond the allocation does. -/
def State.evalWait (s : State) (sp c : Nat) : State :=
  let x := s.ctx sp c
  match x.wait with
  | some w =>
    if x.st = .wait ∨ x.st = .halt then
      match s.waitPoison sp c w, s.waitMet sp c w with
      | some p, _ => s.freeze sp c (poisonTs 3 p) true true w.boff x.pc
      | none, some true => s.setCtx sp c ({ x with wait := some .over }.wake)
      | none, some false => s
      | none, none => s.freeze sp c (boundsTs 3 w.off x.res.tsp) true true w.boff x.pc
    else s
  | none => s

/-- The wait is a yield that still waits for others. -/
def WaitC.isYield : WaitC → Bool
  | .yield _ => true
  | _ => false

def execWaitSatisfied (sp : Fin 128) (s : State) : Out :=
  .next (ctxNums.foldl (fun s c => if ((s.ctx sp c).wait.map WaitC.isYield).getD true then s else s.evalWait sp c) s)

/-- R57: a yielding context waits for those of its list that are READY and have not issued since. -/
def execYieldReturn (sp : Fin 128) (s : State) : Out :=
  .next (ctxNums.foldl (fun s c => match (s.ctx sp c).wait with
    | some (.yield l) =>
      (s.modCtx sp c (fun x => { x with wait := some (.yield (l.filter (fun k => (s.ctx sp k).st == .ready))) })).evalWait sp c
    | _ => s) s)

/-- The context that issued a bundle is no longer waited for by yields (R57). -/
def State.issued (s : State) (sp c : Nat) : State :=
  ctxNums.foldl (fun s k => match (s.ctx sp k).wait with
    | some (.yield l) => if l.contains c then s.modCtx sp k (fun x => { x with wait := some (.yield (l.filter (· != c))) }) else s
    | _ => s) s

-- Stalls

/-- The request is a tile copy of a spire, or (`eng`) an operation of a copy engine complex. -/
def isCopy (eng : Bool) : Instr → Bool
  | .tld _ _ | .tst _ _ | .tstW _ _ | .tmc _ _ _ | .tgath _ _ | .tscat _ _ _ | .tfill _ _ _ => !eng
  | .tcopy _ _ _ => eng
  | _ => false

/-- Tile copies of a spire, or operations of a tower's copy engine complex, issued and not completed: under way, on their way to the HRU, there,
or held there; each counts once (R282). -/
def State.copies (s : State) (sp : Nat) (eng : Bool) : Nat :=
  let t := towerOf sp
  let mine (r : Req) : Bool := isCopy eng r.ins && (if eng then towerOf r.sp == t else r.sp == sp)
  let out := if eng then (List.range 32).flatMap (fun k => (s.spire (32 * t + k)).out) else (s.spire sp).out
  let reqs := s.aops.map (·.r) ++ out ++ (s.hru t).q ++ (s.hru t).miss.map (·.2.2.2)
  ((reqs.filter mine).map (·.tag)).eraseDups.length

/-- An `mbar` waits for the context's M-class operations and for their deferred results, those of slot 2 (R273). -/
def Spire.ownEngine (x : Spire) (c : Nat) : Bool :=
  x.engine.any (fun m => m.tid == (x.ctx c).res.tid) || (x.ctx c).deferred.any (fun e => e.slot == 2)

/-- The cause of a stall has cleared (R55, R186). -/
def State.cleared (s : State) (sp c : Nat) (k : StallC) : Bool :=
  let x := s.ctx sp c
  let y := s.spire sp
  match k with
  | .deferredQueue v q => !(if v then (x.vOf q).isEmpty else (x.sOf q).isEmpty) || !x.awaits (if v then .v q else .s q)
  | .busy l => !y.busy.any (fun b => l.contains (b.latch, b.n))
  | .engineFull => decide (y.engine.length < 4)
  | .copyFull eng => decide (s.copies sp eng < if eng then 256 else 64)
  | .flights n => decide (x.inflight.length + x.deferred.length + n ≤ 64)
  | .launchFull => true
  | .borrow => match x.split with
    | some p => p.answered
    | none => true
  | .insertion => s.releasable sp x s.fresh
  | .mbar => !y.ownEngine c
  | .missTable => (s.hru (towerOf sp)).accepts
  | .wake b => !y.waking.any (fun w => w.1 == b)
  | .acquire => x.acqs.isEmpty
  | .line => true
  | .entry h => !s.fab.items.any (fun i => i.flits.any (fun f => f.x.obj == h && f.h.kind == 9) && (match i.req with
    | some r => r.c == 8 && r.sp == towerOf sp * 32
    | none => false))

/-- `deferredTrap`: the oldest fault found for an operation of context c is taken at this bundle boundary (R403) (DEDUCED, log 60). -/
def execDeferredTrap (sp : Fin 128) (c : Fin 8) (s : State) : Out :=
  .next (match (s.ctx sp c).dtrap with
    | [] => s
    | p :: r => (s.modCtx sp c (fun x => { x with dtrap := r })).deferFault sp c p.tid p.cause p.boff)

end Sys2Proof.Machine
end

