-- ==== Sys2Proof/Machine/Issue.lean ====
section
/-! DEFINITION. Machine/Issue.lean: instruction fetch (R71, R108, R428), the selection of a context (R53, R54), the header
and the checks of a bundle in the order of R402, and the event `bundleIssue`, which loads the bundle whose slots `step`
then executes. -/

namespace Sys2Proof.Machine

-- Fetch

/-- What a fetch answers: the bundle's 128 bits; that its line is on its way (R186); or why the context freezes before it; `noFrame` is a frame
number that no HBM stack holds. -/
inductive Fetched
  | ok (w : Nat)
  | line
  | trap (k : Cause)
  | missing (t sub page : Nat) (e : Entry)
  | noFrame (f : Nat)
deriving DecidableEq, Repr

/-- The copy of version `v` that a reader in this package uses: the object itself, or the backing object of its replica
here (R94), each with the version it holds. -/
def State.replica (s : State) (h : Entry) (o : Obj) (v : Nat) : Entry × Obj :=
  if o.repl = 0 ∨ o.sdim ≠ 7 then (h, o)
  else
    match s.liveOf o.smaph 5 with
    | none => (h, o)
    | some m =>
      let hs := (List.range (o.repl + 1)).map fun j => BitVec.ofNat 64 (s.objRead m 0 (8 * j) 8)
      match hs.find? (fun b => hpkg b == s.cfg.pkn && (match s.obj (honum b) with
        | some p => p.gen == hgchk b && (p.cver == v || Tab.has p.retained v)
        | none => false)) with
      | some b => match s.obj (honum b) with
        | some p => (b, p)
        | none => (h, o)
      | none => (h, o)

/-- Where the code byte at offset `at_` of context x's code object is: its page map entry, from the HRU's cache or the map (R97), if the code object is
versioned, z8 and of rank 1 (R108) and the page stands in an HBM frame; else why the context freezes (R428) (DEDUCED, log 86). -/
def State.codePage (s : State) (sp : Nat) (x : Ctx) (at_ : Nat) : Except Fetched Entry :=
  let h := x.res.codeh
  if hpkg h ≠ s.cfg.pkn ∧ s.present (hpkg h) then .error (.missing (towerOf sp) 3 (at_ / 65536) 0)
  else
    match s.lookup (towerOf sp) 0 h with
    | .error k => .error (.trap k)
    | .ok o =>
      match o.checkRights 0 x.sys.sid rRD h with
      | .error k => .error (.trap k)
      | .ok _ =>
        if o.live then .error (.trap (o.kindCause 0 h))
        else if o.fmt ≠ .z8 then .error (.trap (fmtCause 0 h Fmt.z8.code o.fmtCode))
        else if o.rank ≠ 1 then .error (.trap (causeO 8 5 0 h 0 [(0x40, 4, 1), (0x44, 4, 1)]))
        else
          let b := s.replica h o x.sys.cvr
          let e := ((s.hru (towerOf sp)).cached b.1 x.sys.cvr (at_ / 65536)).getD (b.2.page x.sys.cvr (at_ / 65536))
          if peST e = 1 then (if 2 ^ 23 ≤ peFRAME e then .error (.noFrame (peFRAME e)) else .ok e)
          else .error (.missing (towerOf sp) (if peST e = 4 then 2 else if peST e = 2 ∨ peST e = 3 ∨ peST e = 5 then 3 else 1) (at_ / 65536) e)

/-- What a context of a stale translation freezes with (R439). -/
def State.staleCode (s : State) (x : Ctx) : Cause :=
  causeO 7 0x0B 0 x.res.codeh x.sys.cvr [(0x40, 4, x.res.tsvn), (0x44, 4, s.cfg.fuses.svn)]

/-- The bundle at native offset `off` of context x on spire `sp`: read from the pinned version of the code object through the instruction
cache (R71, R96, R108); a stale translation raises VERSION/0x0B (R439), poison CHECK/0x02 (R442) (DEDUCED, log 86). -/
def State.fetch (s : State) (sp : Nat) (x : Ctx) (off : Nat) : Fetched :=
  let at_ := x.res.noff + off
  if x.res.tsvn < s.cfg.fuses.svn then
    .trap (s.staleCode x)
  else match readLine (s.spire sp).icache x.sys.sid x.res.codeh x.sys.cvr at_ 16 with
    | some (w, false) => .ok w
    | _ => match s.codePage sp x at_ with
      | .error f => f
      | .ok e =>
        let a := frameAddr (peIL e) (peFRAME e) (at_ % 65536)
        if s.dramPoisoned [a, a + 8] then .trap (causeO 13 2 0 x.res.codeh x.sys.cvr [(0x40, 1, 8), (0x48, 8, a)])
        else .line

/-- The sector of the code byte at `at_` enters the instruction cache of the spire, and its page map entry the HRU's (R96, R97). -/
def State.fillCode (s : State) (sp : Nat) (x : Ctx) (at_ : Nat) : State :=
  match s.codePage sp x at_ with
  | .error _ => s
  | .ok e =>
    let a := frameAddr (peIL e) (peFRAME e) (at_ % 65536 / 256 * 256)
    let old := (s.spire sp).icache
    let c := match findLine old x.sys.sid x.res.codeh x.sys.cvr (lineOf at_) with
      | some l => if l.bad.isEmpty then old else { l with valid := l.valid.erase (secOf at_), bad := l.bad.filter (fun w => w / 256 != secOf at_) } :: old.erase l
      | none => old
    let b := match s.here x.res.codeh with
      | some o => (s.replica x.res.codeh o x.sys.cvr).1
      | none => x.res.codeh
    (s.modSpire sp (fun y => { y with
      icache := fillLine geoIc c x.sys.sid x.res.codeh x.sys.cvr at_ (dense s.mem a 256).toList
        ((s.poison.filter (fun w => decide (a ≤ w) && decide (w < a + 256))).map (· - a)) })).modHru (towerOf sp) (fun u =>
      u.learn [(b, x.sys.cvr, at_ / 65536, e)])

/-- The lines that a kernel header names are pinned on a spire that runs the kernel, and fetched where their pages are in HBM (R109, Table
06-15). -/
def State.pinKernel (s : State) (sp : Nat) (x : Ctx) (key : Nat) : State :=
  match s.here x.res.codeh with
  | none => s
  | some o =>
    let p := (s.replica x.res.codeh o x.sys.cvr).2
    let w := s.objRead p x.sys.cvr 0x18 8
    let offs := (List.range (min 32 (bits w 26 6))).map (fun k => x.res.noff + s.objRead p x.sys.cvr (bits w 32 32 + 4 * k) 4)
    offs.foldl (fun s at_ =>
      let s1 := s.modSpire sp (fun y => { y with icache := pinLine y.icache x.sys.sid x.res.codeh x.sys.cvr (lineOf at_) key })
      if (findLine (s1.spire sp).icache x.sys.sid x.res.codeh x.sys.cvr (lineOf at_)).isSome then
        (List.range 4).foldl (fun s k => s.fillCode sp x (lineOf at_ * 1024 + 256 * k)) s1
      else s1) s

-- Selection (R53, R54)

/-- The context may be selected: READY, or halted with a step to make and no wait pending (R75). -/
def Ctx.selectable (x : Ctx) : Bool := x.st == .ready || (x.st == .halt && x.stepping.isSome && !x.halting && x.wait.isNone)

/-- The last issuer goes on with its pass of a loop body (R54). -/
def Ctx.inPass (x : Ctx) : Bool :=
  x.st == .ready && x.inBody x.pc && (match x.loop with
    | some l => decide (0 < l.issued) && decide (l.issued < 64)
    | none => false)

/-- The context that issues in this sc. -/
def Spire.select (x : Spire) : Option Nat :=
  if (x.ctx x.last).inPass then some x.last
  else ((List.range 8).map (fun i => (x.last + 1 + i) % 8)).find? (fun c => (x.ctx c).selectable)

-- The header (Table 06-3)

/-- The header's fields, or those of a bundle without one (R172). -/
structure Header where
  headed : Bool
  word : Nat
  scope : Nat
  ports : Nat
  dup : Bool
  lends : List Nat
deriving DecidableEq, Repr

def Header.of (w : Nat) : Header :=
  if bits w 25 7 = 0x7F then ⟨true, w, bits w 22 3, bits w 19 3, bit w 18, [0, bits w 0 6, bits w 6 6, bits w 12 6]⟩
  else ⟨false, 0, 0, 0, false, [0, 0, 0, 0]⟩

/-- Slot k of a bundle. -/
def slotWord (w k : Nat) : Nat := w / 2 ^ (32 * k) % 2 ^ 32

-- R402 step 1: ILLEGAL of each slot

/-- ILLEGAL with the slot's word. -/
def illegalAt (slot sub w : Nat) (more : List (Nat × Nat × Nat)) : Cause := .mk' 1 sub slot ([(0x40, 4, w)] ++ more)

/-- The ILLEGAL subclass of a rejected word (Table 19-3) (DEDUCED, log 11). -/
def rejectCause (slot w : Nat) (r : Reject) : Cause :=
  match r with
  | .major => illegalAt slot 1 w []
  | .function => illegalAt slot 2 w []
  | .reserved m => illegalAt slot 3 w [(0x44, 4, m)]

/-- An operation that a loop body must not contain (R188). -/
def barredInLoop : Instr → Bool
  | .br _ => true
  | .brc _ _ _ => true
  | .jmp _ => true
  | .call _ => true
  | .ret => true
  | .loop _ _ => true
  | _ => false

/-- A system register number that the operation may not name (R182); the value is that of the queue's head, if any. -/
def State.sysIllegal (s : State) (i : Instr) : Option (Nat × Nat) :=
  match i with
  | .sysrd _ n => if (s.sysRead n).isNone then some (n.val, 0) else none
  | .syswr a n => if s.cx.sysWritable n then none else some (n.val, ((s.cx.sOf a.q).headD 0).toNat)
  | _ => none

/-- The captured format-table entry of an operation with `fmt=ft` (R161, R162). -/
def Ctx.badEntry (x : Ctx) (i : Instr) : Option (Nat × Entry) :=
  let uses : Bool := match i with
    | .mmaTs _ _ _ _ _ ft _ _ => ft
    | .mmaV _ _ _ _ _ ft _ => ft
    | .adrain _ _ _ _ _ ft _ _ => ft
    | .mmaH _ _ _ _ _ => true
    | .adrainh _ _ _ _ => true
    | _ => false
  let e := x.fentry x.ftIndex
  if uses && !fentryOk e.toNat then some (x.ftIndex, e) else none

/-- An `mma` whose entry's formats do not allow its K, its TA or its vector form (R260) (DEDUCED, log 12). -/
def Ctx.badShape (x : Ctx) (i : Instr) : Bool :=
  let f := FEnt.of (x.fentry x.ftIndex).toNat
  let t := (Fmt.ofCode f.afmt).getD .z8
  match i with
  | .mmaTs _ _ ta _ _ ft _ k => ft && (decide (kmaxOf t.width < 32 * (k.val + 1)) || (ta && t == .q4))
  | .mmaV _ _ _ _ _ ft _ => ft && t == .q4
  | .mmaH _ _ _ _ k => decide (kmaxOf t.width < 32 * (k.val + 1))
  | _ => false

/-- The ILLEGAL conditions of one slot, in order: encoding, lend bits, loop body, system register, format entry (DEDUCED, log 11). -/
def State.slotCheck (s : State) (h : Header) (k w : Nat) : Except Cause (Option SlotOp) :=
  let lend := h.lends.getD k 0
  match decodeSlot k w with
  | .error r => .error (rejectCause k w r)
  | .ok i =>
    if lend &&& (63 - lendMask i) ≠ 0 then .error (.mk' 1 4 k [(0x40, 4, h.word), (0x44, 4, w)])
    else if barredInLoop i && (s.cx.inBody s.iss.off || (match i with
      | .loop _ _ => s.cx.loop.isSome
      | _ => false)) then .error (illegalAt k 6 w [])
    else
      match s.sysIllegal i with
      | some p => .error (sysCause k p.1 p.2)
      | none =>
        match s.cx.badEntry i with
        | some p => .error (fentryCause k p.1 p.2)
        | none => if s.cx.badShape i then .error (illegalAt k 2 w []) else .ok (if i = .nop then none else some ⟨k, w, i⟩)

/-- All slots from k up. -/
def State.checkSlots (s : State) (h : Header) (w : Nat) : List Nat → Except Cause (List SlotOp)
  | [] => .ok []
  | k :: r =>
    if k = 0 ∧ h.headed then State.checkSlots s h w r
    else
      match s.slotCheck h k (slotWord w k) with
      | .error c => .error c
      | .ok o =>
        match State.checkSlots s h w r with
        | .error c => .error c
        | .ok l => .ok (o.toList ++ l)

-- R402 step 2: read ports

/-- Scalar and vector reads of slots 0 to 3. -/
def reads (l : List SlotOp) : List (Nat × Nat) :=
  (List.range 4).map fun k => match l.find? (fun o => o.slot == k) with
    | some o => portsOf o.ins
    | none => (0, 0)

/-- ILLEGAL/0x05 of the first slot whose reads exceed its allotment (R184). -/
def portCheck (h : Header) (l : List SlotOp) : Option Cause :=
  let a := allotment h.ports
  let v := a.2
  let r := reads l
  match (List.range 4).find? (fun k => decide (a.1.getD k 0 < (r.getD k (0, 0)).1) || decide (v.getD k 0 < (r.getD k (0, 0)).2)) with
  | none => none
  | some k => some (.mk' 1 5 k ([(0x40, 4, h.word)] ++ (List.range 4).map (fun j => (0x48 + j, 1, (r.getD j (0, 0)).1))
      ++ (List.range 4).map (fun j => (0x4C + j, 1, (r.getD j (0, 0)).2))))

-- R402 step 3: queues

/-- What the reads of a bundle meet first: a trap, or a stall. -/
inductive QCheck
  | fine
  | trap (k : Cause)
  | stall (k : StallC)
deriving DecidableEq, Repr

/-- One read against the queues as the reads before it left them (R176, R179, R180). A read of an empty queue stalls or underflows before its landing window is
tested (DESIGN CHOICE, log 106). -/
def Ctx.oneRead (x : Ctx) (slot : Nat) (v : Bool) (q : Nat) (peek : Bool) : QCheck × Ctx :=
  let d : Dest := if v then .v q else .s q
  let n := if v then (x.vOf q).length else (x.sOf q).length
  let det := [(0x40, 1, if v then 1 else 0), (0x41, 1, q)]
  if !v && q = 0 then (.fine, x)
  else if n = 0 then (if x.awaits d then .stall (.deferredQueue v q) else .trap (.mk' 2 1 slot det), x)
  else
    match (if x.sys.lwc then x.pendingOn d else none) with
    | some delay => (.trap (.mk' 2 3 slot (det ++ [(0x48, 8, delay)])), x)
    | none => (.fine, if peek then x else if v then x.setV q ((x.vOf q).drop 1) else x.setS q ((x.sOf q).drop 1))

/-- The reads of a bundle in order. -/
def Ctx.readAll (x : Ctx) : List (Nat × Src) → QCheck × Ctx
  | [] => (.fine, x)
  | (k, .s a) :: r => match x.oneRead k false a.q a.peek with
    | (.fine, y) => Ctx.readAll y r
    | p => p
  | (k, .v a) :: r => match x.oneRead k true a.q a.peek with
    | (.fine, y) => Ctx.readAll y r
    | p => p

/-- `qdrop` after every read (R216). -/
def Ctx.dropAll (x : Ctx) : List SlotOp → QCheck
  | [] => .fine
  | o :: r => match o.ins with
    | .qdrop a vec n =>
      if x.depthOf a vec < n + 1 then
        (if x.awaits (if vec then .v a else .s a) then .stall (.deferredQueue vec a)
         else .trap (.mk' 2 1 o.slot [(0x40, 1, if vec then 1 else 0), (0x41, 1, a)]))
      else Ctx.dropAll (x.dropQ a vec (n + 1)) r
    | _ => Ctx.dropAll x r

/-- R402 step 3, and the limit of 64 results in flight (R405). -/
def Ctx.queueCheck (x : Ctx) (l : List SlotOp) : QCheck :=
  match x.readAll (l.flatMap fun o => (sourcesOf o.ins).map fun a => (o.slot, a)) with
  | (.fine, y) =>
    match y.dropAll l with
    | .fine =>
      let n := (l.map fun o => resultsOf o.ins).foldl (· + ·) 0
      if 64 < x.inflight.length + x.deferred.length + n then .stall (.flights n) else .fine
    | q => q
  | (q, _) => q

-- The event

/-- Operations that act after every other slot's reads: `qdepth`, then the removals, then `trap`, `brk`, `yield` and a `tend` that
ends its task (R215, R216, R223 to R225). -/
def isDepth : Instr → Bool
  | .qdepth _ _ _ => true
  | _ => false
def isQueueOp : Instr → Bool
  | .qdrop _ _ _ => true
  | .qdepth _ _ _ => true
  | .qclr _ _ => true
  | _ => false
def isLast (opv : Bool) : Instr → Bool
  | .trap _ => true
  | .brk _ => true
  | .yield => true
  | .tend => !opv
  | _ => false

/-- The order in which a bundle's slots take effect. -/
def slotOrder (opv : Bool) (l : List SlotOp) : List SlotOp :=
  let normal := l.filter fun o => !isQueueOp o.ins && !isLast opv o.ins
  normal ++ (l.filter fun o => isDepth o.ins) ++ (l.filter fun o => isQueueOp o.ins && !isDepth o.ins) ++ (l.filter fun o => isLast opv o.ins)

/-- The spire issues: powered, not held, not stopped, with a place for a trap record (R76, R410, R463). -/
def State.mayIssue (s : State) (sp : Nat) : Bool :=
  let x := s.spire sp
  s.enabled sp && !x.stopped && decide (x.held.length < 16) && !s.cfg.thermal

/-- The bundle loaded for the slots. -/
def State.load (s : State) (sp : Nat) (h : Header) (l : List SlotOp) : State :=
  { s with iss := { s.iss with
      headed := h.headed
      hword := h.word
      scope := h.scope
      dup := h.dup
      todo := slotOrder s.cx.sys.opv l
      pre := some (s.spire sp) } }

/-- A bundle begins: the context, its offset and the bundle's number, no slot yet. -/
def State.begin (s : State) (sp c : Nat) : State :=
  let x := s.ctx sp c
  { s with
    fresh := s.fresh + 1
    iss := { Issue.reset with active := true, sp := sp, c := c, off := x.pc, next := x.pc + 16, sctr0 := x.sys.sctr, num := s.fresh } }

/-- The operation is memory-class: it reads or writes a tile store, an object or a completion target (R117). -/
def memClass (slot : Nat) : Instr → Bool
  | .vld _ | .vst _ | .vldx _ _ | .vstx _ _ => true
  | .mmaTs _ _ _ _ _ _ _ _ | .mmaH _ _ _ _ _ | .latLd _ _ _ _ | .latLdh _ _ | .aload _ _ _ | .adrain _ _ _ _ _ _ _ _ | .adrainh _ _ _ _
  | .fmtLd _ _ _ => true
  | _ => slot == 3

/-- The bundle `w` of the context under issue checked, R402 steps 1 to 3, and loaded; one with a memory-class operation waits for the context's
acquires (R131) (DEDUCED, log 102). -/
def State.accept (s : State) (sp w : Nat) : State :=
  let h := Header.of (slotWord w 0)
  if h.headed ∧ 6 ≤ h.scope then s.raise (illegalAt 0 2 h.word [])
  else
    match s.checkSlots h w [0, 1, 2, 3] with
    | .error k => s.raise k
    | .ok l =>
      match portCheck h l with
      | some k => s.raise k
      | none =>
        match s.cx.queueCheck l with
        | .trap k => s.raise k
        | .stall k => s.stallWith k
        | .fine => if !s.cx.acqs.isEmpty && l.any (fun o => memClass o.slot o.ins) then s.stallWith .acquire else s.load sp h l

/-- The operation `o` under issue, with the slots `r` still to come (R168, R173). -/
def State.atSlot (s : State) (o : SlotOp) (r : List SlotOp) : State :=
  { s with iss := { s.iss with
      slot := o.slot
      word := o.word
      lend := (if s.iss.headed then (Header.of s.iss.hword).lends.getD o.slot 0 else 0)
      bad := false
      todo := r } }

/-- The service record of a page (R425) (DEDUCED, log 47). -/
def State.servicePage (s : State) (t sub : Nat) (h : Entry) (ver page : Nat) (e : Entry) (held : Nat) : State :=
  s.eventHru t (causeO 6 sub 0 h ver [(0x40, 8, page), (0x48, 8, e.toNat), (0x50, 8, held)])

-- READY and STALL at the start of an sc (R52, R55)

/-- Accumulator tiles and latches that an M-class operation reads or writes, as (is latch, absolute number); `lend` is slot 2's (R55, R187). -/
def Ctx.engineTouch (x : Ctx) (lend : Nat) (i : Instr) : List (Bool × Nat) :=
  let d (k : Fin 32) : Bool × Nat := (false, x.res.accB + bits lend 4 2 * 32 + k)
  let a (k : Fin 32) : Bool × Nat := (false, x.res.accB + bits lend 2 2 * 32 + k)
  let l (k : Fin 4) : Bool × Nat := (true, x.res.latB + k)
  match i with
  | .mmaTs t _ _ n _ _ _ _ => [d t, l n]
  | .mmaV t _ _ n _ _ _ => [d t, l n]
  | .mmaH t _ n _ _ => [d t, l n]
  | .latLd n _ _ _ => [l n]
  | .latLdh n _ => [l n]
  | .latClr n => [l n]
  | .aclr t => [d t]
  | .aload t _ _ => [d t]
  | .amovV _ t _ => [a t]
  | .astat _ t => [a t]
  | .astatClr t _ => [d t]
  | .adrain t _ _ _ _ _ _ _ => [d t]
  | .adrainh t _ _ _ => [d t]
  | _ => []

/-- The operation enters the engine's queue (R187). -/
def entersEngine (o : SlotOp) : Bool := o.slot == 2 && (match o.ins with
  | .mbar => false
  | _ => true)

/-- Why a context's next bundle cannot issue, if R55 withholds READY: a busy tile or latch, a full engine, a queue that a deferred result will
fill, no room for its results, an acquire (R131), its line not in the instruction cache. A bundle that traps does not stall. -/
def State.blocked (s : State) (sp c : Nat) : Option StallC :=
  let x := s.ctx sp c
  match s.fetch sp x x.pc with
  | .ok w =>
    let h := Header.of (slotWord w 0)
    match (s.begin sp c).checkSlots h w [0, 1, 2, 3] with
    | .error _ => none
    | .ok l =>
      let touch := l.flatMap fun o => if o.slot = 2 then x.engineTouch (h.lends.getD 2 0) o.ins else []
      if (s.spire sp).busy.any (fun b => touch.contains (b.latch, b.n)) then some (.busy touch)
      else if l.any entersEngine && decide (4 ≤ (s.spire sp).engine.length) then some .engineFull
      else match x.queueCheck l with
        | .stall k => some k
        | .trap _ => none
        | .fine => if !x.acqs.isEmpty && l.any (fun o => memClass o.slot o.ins) then some .acquire else none
  | .line => some .line
  | _ => none

/-- The line that a context waits for arrives. -/
def State.lineArrives (s : State) (sp c : Nat) : State :=
  let x := s.ctx sp c
  if x.st = .stall ∧ x.stall = some .line then s.fillCode sp x (x.res.noff + x.pc) else s

/-- Stalls that have cleared end (R52); a debug step that is over posts DEBUG/0x03 (R75, R412). -/
def State.unstall (s : State) (sp c : Nat) : State :=
  let x := s.ctx sp c
  let s1 := match x.stall with
    | some k => if x.st = .stall ∧ s.cleared sp c k then s.setCtx sp c { x with st := .ready, stall := none } else s
    | none => s
  let y := s1.ctx sp c
  if y.st = .halt ∧ y.halting then
    let s2 := s1.setCtx sp c { y with halting := false, stepping := if y.stepping = some 0 then none else y.stepping }
    if y.stepping = some 0 then
      s2.post sp (s2.recordOf sp c y (.mk' 15 3 0 [(0x40, 8, y.nstep)]) false false false true y.pc y.pc)
    else s2
  else s1

/-- READY is withheld from a context whose next bundle must stall (R55). -/
def State.withhold (s : State) (sp c : Nat) : State :=
  if (s.ctx sp c).st = .ready then
    match s.blocked sp c with
    | some k => s.modCtx sp c (fun x => { x with st := .stall, stall := some k })
    | none => s
  else s

def execStallCleared (sp : Fin 128) (s : State) : Out :=
  .next (ctxNums.foldl (fun s c => ((s.lineArrives sp c).unstall sp c).withhold sp c) s)

/-- `bundleIssue`: the spire `cur` selects a context and loads its next bundle; nothing issues where no context may. -/
def execBundleIssue (s : State) : Out :=
  let sp := s.cur
  if s.mayIssue sp then
    match (s.spire sp).select with
    | none => .next s
    | some c =>
      let s1 := (s.begin sp c).issued sp c
      let x := s.ctx sp c
      match s.fetch sp x x.pc with
      | .noFrame f => .fault (.noSuchFrame f)
      | .trap k => .next (s1.raise k)
      | .line => .next (s1.stallWith .line)
      | .missing t sub page e =>
        .next ((s1.raise (causeO 6 sub 0 x.res.codeh x.sys.cvr [(0x40, 8, page), (0x48, 8, e.toNat)])).servicePage t sub
          x.res.codeh x.sys.cvr page e 0)
      | .ok w => .next (s1.accept sp w)
  else .next s

end Sys2Proof.Machine
end

