-- ==== Sys2Proof/Machine/XIssue.lean ====
section
/-! DEFINITION. Machine/XIssue.lean: what slot 3 does at issue: records and descriptors sampled from the tile store (R281,
R304), the checks of tile copies (R278 to R282), barriers and waits (R294 to R298), live words (R299 to R301), object and
closure instructions (R314 to R317), fabric, row and near-bank instructions (R318 to R327). What the HRU finds later is in
Hru.lean. -/

namespace Sys2Proof.Machine

-- Records (R304)

/-- LAYOUT/0x06 with the record's offset and the word's index. -/
def fieldCause (off word : Nat) : Cause := .mk' 8 6 3 [(0x40, 8, off), (0x48, 1, word)]

/-- A record of `n` words at offset `off`, aligned to its size, sampled under mode 0 (R281, R304, R432). Poisoned bytes drop
the operation, and the context freezes at the next boundary (R442). -/
def State.record (s : State) (off : Entry) (n : Nat) (k : List Entry → State → State) : State :=
  let e := off.toNat
  let es := (List.range (8 * n)).map (e + ·)
  let x := s.cx
  if e % (8 * n) ≠ 0 ∨ !inTs x.res.tsp e (8 * n) then s.raiseTs e
  else s.awake 0 es fun s => s.checkTags 0 es fun s =>
    let mem := (s.spire s.iss.sp).mem
    if mem.poisoned (es.map (physTs x.res.tsb 0)) then
      s.deferTrap s.iss.sp s.iss.c x.res.tid (poisonTs 3 (x.res.tsb + e)) s.iss.off
    else k (mem.words x.res.tsb e n) s

/-- The first word of a record that is bad, as LAYOUT/0x06 (DEDUCED, log 33). -/
def State.fields (s : State) (off : Entry) (bad : List (Nat × Bool)) (k : State → State) : State :=
  match bad.find? (fun p => p.2) with
  | some p => s.raise (fieldCause off.toNat p.1)
  | none => k s

/-- Bits of a word outside the mask of its fields are set. -/
def outside (w mask : Nat) : Bool := w &&& (2 ^ 64 - 1 - mask) != 0
/-- A mask of `n` bits from `lo` up. -/
def maskAt (lo n : Nat) : Nat := (2 ^ n - 1) * 2 ^ lo

/-- The target fields of a record: kind, index, handle (Table 10-1): unused ones zero, a barrier offset aligned and below
0x40_0000, a counter or future named. The answer says which of the two words is bad. -/
def targetBad (tk tix th : Nat) : Bool × Bool :=
  ((tk == 0 && tix != 0) || (tk == 1 && (tix % 16 != 0 || decide (0x400000 ≤ tix))),
    (decide (tk < 2) && th != 0) || (decide (2 ≤ tk) && th == 0))

/-- A request with a deferred result. -/
def State.ask (s : State) (i : Instr) (d : Fin 32) (a b : Entry) (eidx : Nat) (words : List Entry) (k : State → State) : State :=
  if !(s.hru (towerOf s.iss.sp)).accepts then s.stallWith .missTable
  else
    let tag := s.fresh
    k ((s.newId.expect (.s d) 8 tag).request i a b eidx words tag)

/-- A request that acquires: until it has been performed the context's later memory-class operations wait (R126, R128, R131, R135). -/
def State.acquires (s : State) (acq : Bool) (tag : Nat) : State :=
  if acq && !s.iss.bad then s.modCx (fun x => { x with acqs := x.acqs ++ [tag] }) else s

/-- The ordering code acquires (Table 04-4). -/
def acqOrd (o : Ord4) : Bool := o == .acq || o == .acqrel

/-- A request with a deferred result that acquires if `acq` says so. -/
def State.askAcq (s : State) (acq : Bool) (i : Instr) (d : Fin 32) (a b : Entry) (eidx : Nat) (words : List Entry) : State :=
  s.ask i d a b eidx words (fun t => t.acquires acq s.fresh)

/-- A request that answers nothing. -/
def State.tell (s : State) (i : Instr) (a b : Entry) (eidx : Nat) (words : List Entry) : State :=
  (s.request i a b eidx words s.fresh).newId

/-- The pin of a handle that a request captures at issue: 0 for none, 1 and the version, 2 for a pin still under way. -/
def Ctx.capture (x : Ctx) (h : Entry) : List Entry :=
  match x.pins.find? (fun p => p.h == h) with
  | some p => if p.v < 2 ^ 32 then [1, BitVec.ofNat 64 p.v] else [2, 0]
  | none => [0, 0]

/-- The draft-set entry of a handle that a request captures at issue: 1 and the draft's version, 2 for one still under way, 0
for none. -/
def Ctx.captureDraft (x : Ctx) (h : Entry) : List Entry :=
  match x.drafts.find? (fun p => p.1 == h) with
  | some p => if p.2 < 2 ^ 32 then [1, BitVec.ofNat 64 p.2] else [2, 0]
  | none => [0, 0]

/-- The launch that a request's task belonged to at issue, captured as one word. -/
def launchWord (x : Ctx) : Entry := BitVec.ofNat 64 (x.res.ltwr * 256 + x.res.lslot)

-- Tile copies

/-- What a tile copy uses of its descriptor: an object side, a tile-store tile at T, any tile-store tile, an index list, a
second object, receivers, the fill pattern. -/
structure CopyUse where
  obj : Bool
  tile : Bool
  ts : Bool
  list : Bool
  obj2 : Bool
  mc : Bool
  fill : Bool
deriving DecidableEq, Repr

/-- Tables 10-1 and 10-3. -/
def copyUse : Instr → CopyUse
  | .tld _ _ => ⟨true, true, true, false, false, false, false⟩
  | .tst _ _ => ⟨true, true, true, false, false, false, false⟩
  | .tstW _ _ => ⟨true, true, true, false, false, false, false⟩
  | .tmc _ _ o => ⟨o, !o, true, false, false, true, false⟩
  | .tcopy _ _ _ => ⟨true, false, false, false, true, false, false⟩
  | .tgath _ _ => ⟨true, true, true, true, false, false, false⟩
  | .tscat _ _ _ => ⟨true, true, true, true, false, false, false⟩
  | .tfill _ _ o => ⟨o, !o, !o, false, false, false, true⟩
  | _ => ⟨false, false, false, false, false, false, false⟩

/-- A descriptor's values (R279). -/
structure TDesc where
  w : List Entry
  stage : Nat
  ix : Entry
deriving DecidableEq, Repr

def TDesc.at_ (d : TDesc) (k lo n : Nat) : Nat := bits (wordAt d.w k) lo n
def TDesc.obj (d : TDesc) : Entry := d.w.getD 0 0
def TDesc.rows (d : TDesc) : Nat := d.at_ 4 32 13
def TDesc.cols (d : TDesc) : Nat := d.at_ 4 0 13
def TDesc.fmtCode (d : TDesc) : Nat := d.at_ 4 16 5
def TDesc.fmt (d : TDesc) : Fmt := (Fmt.ofCode d.fmtCode).getD .z8
def TDesc.width (d : TDesc) : Nat := d.fmt.width
/-- Dense pitch and pitch. -/
def TDesc.dense (d : TDesc) : Nat := 16 * cdiv (d.cols * d.width) 128
def TDesc.pitch (d : TDesc) : Nat := if d.at_ 5 48 16 = 0 then d.dense else 16 * d.at_ 5 48 16
def TDesc.step (d : TDesc) : Nat := 256 * d.at_ 5 32 16 * d.stage
def TDesc.swz (d : TDesc) : Nat := d.at_ 5 24 3
def TDesc.base (d : TDesc) : Nat := d.at_ 5 0 22 + d.step
def TDesc.tk (d : TDesc) : Nat := d.at_ 6 62 2
def TDesc.tix (d : TDesc) : Nat := d.at_ 6 0 32
def TDesc.th (d : TDesc) : Entry := d.w.getD 7 0
def TDesc.bar (d : TDesc) : Nat := d.tix + 16 * d.stage
def TDesc.mcm (d : TDesc) : Nat := d.at_ 12 56 8
def TDesc.aux (d : TDesc) : Nat := d.at_ 12 0 22
/-- Receivers' base D of a `tmc`. -/
def TDesc.mbase (d : TDesc) : Nat := d.aux + d.step
/-- Bytes of a row, scale bytes of a row, and bytes from the tile's base to its end. -/
def TDesc.rowBytes (d : TDesc) : Nat := cdiv (d.cols * d.width) 8
def TDesc.rowScales (d : TDesc) : Nat := if d.fmt = .q4 then d.cols / 32 else 0
def TDesc.span (d : TDesc) : Nat :=
  max ((d.rows - 1) * d.pitch + d.rowBytes) (if d.fmt = .q4 then d.rows * d.pitch + d.rows * d.rowScales else 0)
/-- Origin of the object tile, and of the `tcopy` destination. -/
def TDesc.origin (d : TDesc) : List Nat := indices d.ix (d.w.getD 2 0) (d.w.getD 3 0)
def TDesc.origin2 (d : TDesc) : List Nat := indices (d.w.getD 9 0) (d.w.getD 10 0) (d.w.getD 11 0)

/-- The words of a descriptor that R281 step 2 finds bad, in ascending order (DEDUCED, log 36). -/
def TDesc.bad (d : TDesc) (u : CopyUse) : List (Nat × Bool) :=
  let w (k : Nat) : Nat := wordAt d.w k
  let tgt := targetBad d.tk d.tix d.th.toNat
  let needs32 := d.fmt = .q4 ∨ d.width = 8
  let w4 := outside (w 4) (maskAt 32 13 + maskAt 16 5 + maskAt 0 13) || (Fmt.ofCode d.fmtCode).isNone
    || d.rows == 0 || decide (4096 < d.rows) || d.cols == 0 || decide (4096 < d.cols)
    || (decide needs32 && d.cols % 32 != 0) || (u.fill && u.tile && d.fmt == .q4)
  let w5 := outside (w 5) (maskAt 32 32 + maskAt 24 3 + maskAt 0 22) || (!u.ts && w 5 != 0)
    || (u.ts && !u.tile && d.at_ 5 0 22 != 0) || d.at_ 5 0 22 % 16 != 0
    || (d.at_ 5 48 16 != 0 && decide (16 * d.at_ 5 48 16 < d.dense))
  let w6 := outside (w 6) (maskAt 62 2 + maskAt 0 32) || tgt.1
  let w12 := outside (w 12) ((if u.mc then maskAt 56 8 else 0) + (if u.mc || u.list then maskAt 0 22 else 0))
    || (u.mc && (d.mcm == 0 || d.aux % 16 != 0)) || (u.list && d.aux % 4 != 0)
  [(0, !u.obj && w 0 != 0), (1, !u.obj && w 1 != 0), (2, !u.obj && w 2 != 0), (3, !u.obj && w 3 != 0), (4, w4), (5, w5),
    (6, w6), (7, tgt.2), (8, !u.obj2 && w 8 != 0), (9, !u.obj2 && w 9 != 0), (10, !u.obj2 && w 10 != 0),
    (11, !u.obj2 && w 11 != 0), (12, w12), (13, !u.fill && w 13 != 0), (14, w 14 != 0), (15, w 15 != 0)]

/-- The tile-store regions of R281 step 3 as (offset, bytes). -/
def TDesc.regions (d : TDesc) (u : CopyUse) : List (Nat × Nat) :=
  (if u.tile then [(d.base, d.span)] else []) ++ (if u.list then [(d.aux, 4 * d.rows)] else [])
    ++ (if d.tk = 1 && !u.mc then [(d.bar, 16)] else [])

/-- A tile copy is checked in its issue sc and becomes a request; a full copy queue stalls it (R281, R282). -/
def copyOp (i : Instr) (p : Src2) (st : Nat) (eng : Bool) (s : State) : State :=
  s.readS p.a fun off s => s.readS p.b fun ix s => s.record off 16 fun w s =>
    let d : TDesc := ⟨w, st, if p.b.q = 0 then w.getD 1 0 else ix⟩
    let u := copyUse i
    s.fields off (d.bad u) fun s =>
      match (d.regions u).find? (fun r => !inTs s.cx.res.tsp r.1 r.2) with
      | some r => s.raiseTs r.1
      | none =>
        if (if eng then 256 else 64) ≤ s.copies s.iss.sp eng then s.stallWith (.copyFull eng)
        else s.awake d.swz ((if u.tile then pagesOf d.base d.span else []) ++ (if u.list then pagesOf d.aux (4 * d.rows) else [])) fun s =>
          let x := s.cx
          s.tell i d.obj d.ix st (w ++ x.capture d.obj ++ x.captureDraft (if u.obj2 then w.getD 8 0 else d.obj)
            ++ [BitVec.ofNat 64 x.res.tsb, BitVec.ofNat 64 x.res.tsp, if x.res.lck then 1 else 0,
              launchWord x])

def execTld (p : Src2) (st : Fin 16) (s : State) : Out := .next (copyOp (.tld p st) p st false s)
def execTst (p : Src2) (st : Fin 16) (s : State) : Out := .next (copyOp (.tst p st) p st false s)
def execTstW (p : Src2) (st : Fin 16) (s : State) : Out := .next (copyOp (.tstW p st) p st false s)
def execTmc (p : Src2) (st : Fin 16) (obj : Bool) (s : State) : Out := .next (copyOp (.tmc p st obj) p st false s)
def execTcopy (p : Src2) (st : Fin 16) (red : Red) (s : State) : Out := .next (copyOp (.tcopy p st red) p st true s)
def execTgath (p : Src2) (st : Fin 16) (s : State) : Out := .next (copyOp (.tgath p st) p st false s)
def execTscat (p : Src2) (st : Fin 16) (red : Red) (s : State) : Out := .next (copyOp (.tscat p st red) p st false s)
def execTfill (p : Src2) (st : Fin 16) (obj : Bool) (s : State) : Out := .next (copyOp (.tfill p st obj) p st false s)

-- Object elements and barriers

/-- R293: the element is read at the HRU; its pin is captured. -/
def execLdo (d : Fin 32) (p : Src2) (o : Ord4) (s : State) : Out :=
  .next (s.readS p.a fun h s => s.readS p.b fun ix s => s.askAcq (acqOrd o) (.ldo d p o) d h ix 0 (s.cx.capture h))

/-- `n` barriers at an offset: BOUNDS/0x01 unless aligned and inside (R294). -/
def State.barriers (s : State) (off : Entry) (n : Nat) (k : Nat → State → State) : State :=
  let e := off.toNat
  if e % 16 ≠ 0 ∨ !inTs s.cx.res.tsp e (16 * n) then s.raiseTs e
  else s.awake 0 ((List.range n).map (fun k => e + 16 * k)) fun s => k e s

/-- R295: written in sc t + 2 with tag 0. -/
def execBarInit (a : SrcS) (n : Fin 16) (s : State) : Out :=
  .next (s.readS a fun off s => s.barriers off (n + 1) fun e s =>
    s.tsStore 0 ((List.range (n + 1)).flatMap fun k =>
      let b : Bar := ⟨0, 0, false, false, k, n, bits e 4 18, 0⟩
      ((List.range 16).zip (leBytes b.w0 8 ++ leBytes b.w1 8)).map fun q => (e + 16 * k + q.1, q.2)) 2)

/-- R296: applied in sc t + 2. -/
def execBarExp (p : Src2) (imm : Fin 256) (s : State) : Out :=
  .next (s.readS p.a fun off s => s.readS p.b fun n s => s.barriers off 1 fun e s =>
    s.tsLater (.expect (s.cx.res.tsb + e) (n.toNat % 2 ^ 32 + 256 * imm)) 2)

/-- Local number of a spire within its dome. -/
def localOf (sp : Nat) : Nat := sp % 8

/-- R297: in its own store no earlier than t + 2; elsewhere by the multicast network, as a release. -/
def execBarArr (p : Src2) (mask : Fin 256) (s : State) : Out :=
  .next (s.readS p.a fun off s => s.readS p.b fun n s => s.barriers off 1 fun e s =>
    let own := bit mask (localOf s.iss.sp)
    let s1 := if own then s.tsLater (.arrive (s.cx.res.tsb + e) (n.toNat % 2 ^ 32)) 2 else s
    let rest := mask.val - (if own then 2 ^ localOf s.iss.sp else 0)
    if rest = 0 then s1
    else (s1.request (.barArr p mask) off n rest [BitVec.ofNat 64 s.cx.res.tsb, BitVec.ofNat 64 s.cx.res.tsp, launchWord s.cx] s1.fresh).newId)

/-- R298: WAIT until PH equals p. -/
def execWaitb (a : SrcS) (ph : Bool) (s : State) : Out :=
  .next (s.readS a fun off s => s.barriers off 1 fun e s => s.modCx (fun x => x.block (.barrier e ph s.iss.off)))

/-- R298: the base is sampled at issue; the whole ring must lie inside. -/
def execRingWait (p : Src2) (s : State) : Out :=
  .next (s.readS p.a fun off s => s.readS p.b fun u s => s.barriers off 1 fun e s =>
    let b := (s.spire s.iss.sp).mem.bar (s.cx.res.tsb + e)
    if b.ridx ≠ 0 then s.raise (.mk' 8 0x0A 3 [(0x40, 8, e)])
    else if !inTs s.cx.res.tsp e (16 * (b.depth + 1)) then s.raiseTs e
    else s.modCx (fun x => x.block (.ring e u.toNat s.iss.off)))

-- Live words (R299 to R301)

def execCntAdd (p : Src2) (o : Ord4) (e : Fin 16) (s : State) : Out :=
  .next (s.readS p.a fun h s => s.readS p.b fun n s => s.tell (.cntAdd p o e) h n (s.eidx e) [])
def execCntRd (d : Fin 32) (a : SrcS) (o : Ord4) (e : Fin 16) (s : State) : Out :=
  .next (s.readS a fun h s => s.askAcq true (.cntRd d a o e) d h 0 (s.eidx e) [])
/-- The wait begins once the home has checked the request (R300, R305). -/
def execWaitc (p : Src2) (e : Fin 16) (s : State) : Out :=
  .next (s.readS p.a fun h s => s.readS p.b fun n s =>
    let tag := s.fresh
    (s.tell (.waitc p e) h n (s.eidx e) []).modCx (fun x => x.block (.remote tag)))
def execAtom (d : Fin 32) (a : SrcS) (b : Fin 32) (op : AtomOp) (o : Ord4) (e : Fin 16) (s : State) : Out :=
  .next (s.readS a fun h s => s.popS b fun v s => s.askAcq (acqOrd o) (.atom d a b op o e) d h v (s.eidx e) [])
def execAtomCas (d : Fin 32) (p : Src2) (o : Ord4) (e : Fin 16) (s : State) : Out :=
  .next (s.readS p.a fun h s => s.readS p.b fun v s => s.askAcq (acqOrd o) (.atomCas d p o e) d h v (s.eidx e) [])

-- Futures but for `fut.wait` (R310, R312)

def execFutNew (a : SrcS) (e : Fin 16) (s : State) : Out :=
  .next (s.readS a fun h s => s.tell (.futNew a e) h 0 (s.eidx e) [])
def execFutRes (p : Src2) (po : Bool) (e : Fin 16) (s : State) : Out :=
  .next (s.readS p.a fun h s => s.readS p.b fun v s => s.tell (.futRes p po e) h v (s.eidx e) [])
/-- Two deferred results into d, VAL and the word at 0x08 (R312). -/
def execFutRd (d : Fin 32) (a : SrcS) (o : Ord4) (e : Fin 16) (s : State) : Out :=
  .next (s.readS a fun h s =>
    if !(s.hru (towerOf s.iss.sp)).accepts then s.stallWith .missTable
    else
      let tag := s.fresh
      (((s.newId.newId.expect (.s d) 8 tag).expect (.s d) 8 (tag + 1)).request (.futRd d a o e) h 0 (s.eidx e) [] tag).acquires (acqOrd o) tag)

-- Closures (R314)

def execQOpen (p : Src2) (s : State) : Out :=
  .next (s.readS p.a fun h s => s.readS p.b fun w s =>
    if s.cx.sys.opv then s.raise (causeO 11 2 3 h 0 [])
    else if w = 0 ∨ 2 ^ 32 ≤ w.toNat then s.raise (causeO 11 5 3 h 0 [(0x40, 8, w.toNat)])
    else (s.modCx (fun x => { x with sys := { x.sys with
        ocls := x.sys.cls, owgt := x.sys.wgt, opv := true, cls := h, wgt := w.toNat } })).tell (.qOpen p) h w 0 [])

/-- The outer pair comes back (R66, R314). -/
def Ctx.restoreOuter (x : Ctx) : Ctx :=
  { x with sys := { x.sys with cls := x.sys.ocls, wgt := x.sys.owgt, ocls := 0, owgt := 0, opv := false } }

def execQRet (s : State) : Out :=
  .next (let x := s.cx
    if !x.sys.opv then s.raise (causeO 11 3 3 x.sys.cls 0 [])
    else (s.addReturn s.iss.sp x.sys.cls x.sys.wgt).modCx Ctx.restoreOuter)

def execWaitq (a : SrcS) (s : State) : Out :=
  .next (s.readS a fun h s =>
    let tag := s.fresh
    (s.tell (.waitq a) h 0 0 []).modCx (fun x => x.block (.remote tag)))

-- Objects (R315 to R317)

/-- A VERSION cause found at issue, with the versions that the entry shows. -/
def State.versionCause (s : State) (sub : Nat) (h : Entry) : Cause :=
  match s.here h with
  | some o => o.verCause sub 3 h []
  | none => causeO 7 sub 3 h 0 []

def Ctx.hasDraft (x : Ctx) (h : Entry) : Bool := x.drafts.any (fun d => d.1 == h)
def Ctx.hasPin (x : Ctx) (h : Entry) : Bool := x.pins.any (fun p => p.h == h)

/-- The draft set takes the entry at issue, under the request's number; its version comes from the home (R101) (DEDUCED, log 38). -/
def execObjOpenw (d : Fin 32) (a : SrcS) (s : State) : Out :=
  .next (s.readS a fun h s =>
    if s.cx.hasDraft h || decide (4 ≤ s.cx.drafts.length) then s.raise (s.versionCause 2 h)
    else
      let tag := s.fresh
      s.ask (.objOpenw d a) d h 0 0 [] (fun s => s.modCx (fun x => { x with drafts := x.drafts ++ [(h, 2 ^ 32 + tag)] })))
/-- The context waits until the publish is done (R103). -/
def execObjPub (d : Fin 32) (a : SrcS) (s : State) : Out :=
  .next (s.readS a fun h s =>
    if !s.cx.hasDraft h then s.raise (s.versionCause 5 h)
    else s.ask (.objPub d a) d h 0 0 (s.cx.captureDraft h) (fun s => s.modCx (fun x => x.block (.publish h))))
/-- The draft-set entry is cleared at issue. -/
def execObjAbandon (a : SrcS) (s : State) : Out :=
  .next (s.readS a fun h s =>
    if !s.cx.hasDraft h then s.raise (s.versionCause 5 h)
    else (s.tell (.objAbandon a) h 0 0 (s.cx.captureDraft h)).modCx
      (fun x => { x with drafts := x.drafts.filter (fun d => d.1 != h) }))
/-- The pin set takes the entry at issue, under the request's number; its version comes from the home (DEDUCED, log 38). -/
def execObjPin (d : Fin 32) (p : Src2) (s : State) : Out :=
  .next (s.readS p.a fun h s => s.readS p.b fun v s =>
    if s.cx.hasPin h || decide (16 ≤ s.cx.pins.length) then s.raise (s.versionCause 7 h)
    else
      let tag := s.fresh
      s.ask (.objPin d p) d h v 0 [] (fun s => (s.modCx (fun x => { x with pins := x.pins ++ [⟨h, 2 ^ 32 + tag, x.depth⟩] })).acquires true tag))
def execObjUnpin (a : SrcS) (s : State) : Out :=
  .next (s.readS a fun h s =>
    match s.cx.pins.find? (fun p => p.h == h) with
    | none => s.raise (s.versionCause 8 h)
    | some p => (s.tell (.objUnpin a) h (BitVec.ofNat 64 p.v) 0 []).modCx
        (fun x => { x with pins := x.pins.filter (fun q => q.h != h) }))
/-- The record of Table 11-6; a barrier is named by its spire and absolute offset (R316). -/
def execObjSub (p : Src2) (del : Bool) (s : State) : Out :=
  .next (s.readS p.a fun h s => s.readS p.b fun off s => s.record off 2 fun w s =>
    let w1 := wordAt w 1
    let tk := bits w1 62 2
    let bad1 := bits w1 54 8 != 0 || tk == 0 || tk == 3 || (tk == 1 && bits w1 0 32 % 16 != 0) || (tk == 2 && bits w1 32 22 != 0)
    s.fields off [(0, (tk == 1 && wordAt w 0 != 0) || (tk == 2 && wordAt w 0 == 0)), (1, bad1)] fun s =>
      s.tell (.objSub p del) h off 0 (w ++ [BitVec.ofNat 64 s.iss.sp, BitVec.ofNat 64 s.cx.res.tsb]))
def execObjVer (d : Fin 32) (a : SrcS) (sel : VerSel) (s : State) : Out :=
  .next (s.readS a fun h s => s.ask (.objVer d a sel) d h 0 0 (s.cx.capture h) id)
def execObjDesc (d : Fin 32) (a : SrcS) (k : Fin 16) (s : State) : Out :=
  .next (s.readS a fun h s => s.ask (.objDesc d a k) d h 0 k [] id)
/-- A prefetch has no architected effect (R317) (DESIGN CHOICE, log 26). -/
def execObjPref (p : Src2) (_mig : Bool) (_n : Fin 64) (s : State) : Out :=
  .next (s.readS p.a fun _ s => s.readS p.b fun _ s => s)
def execWaitv (p : Src2) (s : State) : Out :=
  .next (s.readS p.a fun h s => s.readS p.b fun v s =>
    let tag := s.fresh
    (s.tell (.waitv p) h v 0 []).modCx (fun x => x.block (.remote tag)))

-- Fabric (R321, R322)

/-- R321: the table number's high bits raise ILLEGAL/0x09. The issuing task's launch is fixed here, and its slot held for the table (DEDUCED, log 107). -/
def execRelLd (d : Fin 32) (p : Src2) (s : State) : Out :=
  .next (s.readS p.a fun h s => s.readS p.b fun t s =>
    if 64 ≤ t.toNat then s.raise (illegalOperand s t)
    else
      let x := s.cx.res
      s.ask (.relLd d p) d h t 0 [BitVec.ofNat 64 x.ltwr, BitVec.ofNat 64 x.lslot] (fun s =>
        if h = 0 then s else s.modSlot x.ltwr x.lslot (fun y => { y with tables := y.tables + 1 })))
where
  /-- ILLEGAL/0x09 with the slot's word and the operand. -/
  illegalOperand (s : State) (v : Entry) : Cause := .mk' 1 9 3 [(0x40, 4, s.iss.word), (0x48, 8, v.toNat)]

/-- The calendar word, Table 11-9: slots of 512 ns, calendar cycles of 4,096 ns. -/
def State.calendar (s : State) : Nat := s.fab.ns / 4096 % 2 ^ 52 * 2 ^ 12 + s.fab.ns / 512 % 8 * 2 ^ 9 + s.fab.ns % 512

/-- R322: sampled in the issue sc, a deferred result. -/
def execSlotRd (d : Fin 32) (s : State) : Out :=
  .next (let tag := s.fresh
    (s.newId.expect (.s d) 8 tag).modCx (fun x => x.answer tag (.s (BitVec.ofNat 64 s.calendar))))

/-- A barrier that a record names as its target lies within the allocation (R110) (DEDUCED, log 37). -/
def State.targetFits (s : State) (tk tix : Nat) (k : State → State) : State :=
  if tk = 1 ∧ !inTs s.cx.res.tsp tix 16 then s.raiseTs tix else k s

-- Rows (R323 to R327)

/-- Sources that a row operation uses. -/
def rowUses : RowOp → Nat
  | .copy => 1
  | .not => 1
  | .fill => 0
  | .and => 2
  | .or => 2
  | .xor => 2
  | .maj => 3

/-- The record's bad words (Table 11-10); STAT must be zero. -/
def rowBad (op : RowOp) (w : List Entry) : List (Nat × Bool) :=
  let v (k : Nat) : Nat := wordAt w k
  let tgt := targetBad (bits (v 9) 62 2) (bits (v 9) 0 32) (v 10)
  let src (j : Nat) : List (Nat × Bool) :=
    [(2 + 2 * j, decide (rowUses op ≤ j) && v (2 + 2 * j) != 0),
      (3 + 2 * j, outside (v (3 + 2 * j)) (if j < rowUses op then maskAt 0 33 else 0))]
  [(1, outside (v 1) (maskAt 0 32))] ++ src 0 ++ src 1 ++ src 2 ++
    [(8, outside (v 8) ((if op = .fill then maskAt 32 1 else 0) + maskAt 0 17) || bits (v 8) 0 17 == 0 || decide (65536 < bits (v 8) 0 17)),
      (9, outside (v 9) (maskAt 62 2 + maskAt 0 32) || tgt.1), (10, tgt.2), (11, v 11 != 0), (12, v 12 != 0), (13, v 13 != 0),
      (14, v 14 != 0), (15, v 15 != 0)]

def execDrOp (p : Src2) (fast : Bool) (op : RowOp) (s : State) : Out :=
  .next (s.readS p.a fun off s => s.readS p.b fun o s =>
    if 2 ^ 32 ≤ o.toNat then s.raise (.mk' 1 9 3 [(0x40, 4, s.iss.word), (0x48, 8, o.toNat)])
    else s.record off 16 fun w s => s.fields off (rowBad op w) fun s =>
      s.targetFits (bits (wordAt w 9) 62 2) (bits (wordAt w 9) 0 32) fun s =>
      let tb := BitVec.ofNat 64 s.cx.res.tsb
      s.tell (.drOp p fast op) off o 0 (w ++ s.cx.captureDraft (w.getD 0 0) ++
        [2, 4, 6].flatMap (fun k => s.cx.capture (w.getD k 0) ++ s.cx.captureDraft (w.getD k 0)) ++ [tb]))

/-- The near-bank record's bad words (Table 11-11); `kind` is 0 load, 1 run, 2 acc. -/
def nbBad (kind : Nat) (w : List Entry) : List (Nat × Bool) :=
  let v (k : Nat) : Nat := wordAt w k
  let tgt := targetBad (bits (v 2) 62 2) (bits (v 2) 0 32) (v 3)
  let f := v 12
  [(1, outside (v 1) (maskAt 0 32)), (2, outside (v 2) (maskAt 62 2 + maskAt 0 32) || tgt.1), (3, tgt.2)] ++
    ((List.range 8).map fun j => (4 + j, kind != 1 && v (4 + j) != 0)) ++
    [(12, outside f (if kind = 0 then maskAt 8 6 + maskAt 0 6 else if kind = 1 then maskAt 0 6 else maskAt 20 1 + maskAt 16 4)
        || (kind == 0 && decide (63 < bits f 0 6 + bits f 8 6))),
      (13, outside (v 13) (if kind = 1 then 0 else maskAt 0 22) || (kind != 1 && bits (v 13) 0 22 % 16 != 0)), (14, v 14 != 0), (15, v 15 != 0)]

/-- A near-bank instruction: its record, for `nb.load` also the image, sampled in the issue sc. -/
def nbOp (i : Instr) (kind : Nat) (a : SrcS) (s : State) : State :=
  s.readS a fun off s => s.record off 16 fun w s => s.fields off (nbBad kind w) fun s =>
    s.targetFits (bits (wordAt w 2) 62 2) (bits (wordAt w 2) 0 32) fun s =>
    let tso := bits (wordAt w 13) 0 22
    let n := if kind = 0 then bits (wordAt w 12) 8 6 + 1 else 0
    let x := s.cx
    let img := (List.range (8 * n)).map (tso + ·)
    let dest := if kind = 2 then 1024 else 0
    if !inTs x.res.tsp tso (8 * n + dest) && kind != 1 then s.raiseTs tso
    else s.awake 0 img fun s => s.checkTags 0 img fun s =>
      s.tell i (w.getD 0 0) off kind (w ++ x.capture (w.getD 0 0) ++ x.captureDraft (w.getD 0 0) ++
        [BitVec.ofNat 64 x.res.tsb] ++ (s.spire s.iss.sp).mem.words x.res.tsb tso n)

def execNbLoad (a : SrcS) (s : State) : Out := .next (nbOp (.nbLoad a) 0 a s)
def execNbRun (a : SrcS) (s : State) : Out := .next (nbOp (.nbRun a) 1 a s)
def execNbAcc (a : SrcS) (s : State) : Out := .next (nbOp (.nbAcc a) 2 a s)

end Sys2Proof.Machine
end

