-- ==== Sys2Proof/Machine/Task.lean ====
section
/-! DEFINITION. Machine/Task.lean: the start of a task (R39, R51, R110, R113, R277), task descriptors and deques (R58 to
R60, R64), the weight split at issue and its borrow (R67), `fork` (R306 to R308) and its inline run (R61). -/

namespace Sys2Proof.Machine

-- Allocation

/-- Ranges (first, count) do not overlap. -/
def apart (a n b m : Nat) : Bool := m == 0 || decide (a + n ≤ b) || decide (b + m ≤ a)

/-- The lowest base that leaves `n` units free of the used ranges; the device fixes no rule (DESIGN CHOICE, log 9). -/
def firstFit (used : List (Nat × Nat)) (n total : Nat) : Option Nat :=
  if n = 0 then some 0
  else
    let ok := ((0, 0) :: used).filterMap fun u =>
      let b := u.1 + u.2
      if b + n ≤ total ∧ used.all (fun v => apart b n v.1 v.2) then some b else none
    ok.foldl (fun a b => match a with
      | some c => some (min c b)
      | none => some b) none

/-- An operation of task `tid`, or a delivery that chose it as its receiver, still reads or writes its stores (R277). -/
def State.outstanding (s : State) (tid : Nat) : Bool :=
  s.aops.any (fun a => a.r.tid == tid || a.recv.any (fun v => v.2.1 == tid)) || s.rows.any (fun a => a.r.tid == tid) || s.colls.any (fun a => a.r.tid == tid)
    || s.nbus.any (fun p => p.2.queue.any (fun q => q.r.tid == tid) || (match p.2.cur with
      | some q => q.r.tid == tid
      | none => false))
    || s.spires.any (fun p => p.2.engine.any (fun m => m.tid == tid) || p.2.out.any (fun r => r.tid == tid)
      || p.2.arrivals.any (fun a => a.tid == tid) || p.2.ctxs.any (fun q => q.2.tsw.any (fun w => w.tid == tid)))
    || s.towers.any (fun p => p.2.hru.q.any (fun r => r.tid == tid) || p.2.hru.miss.any (fun q => q.2.2.2.tid == tid))
    || s.fab.items.any (fun i => match i.req with
      | some r => r.tid == tid
      | none => false)

/-- What running tasks and lingering operations hold on a spire. -/
def State.held (s : State) (sp : Nat) : List TaskRes :=
  ((s.spire sp).ctxs.filter (fun p => p.2.st != .free)).map (fun p => p.2.res)
    ++ (s.spire sp).linger.filter (fun r => s.outstanding r.tid)

/-- The launch's declared pages, tiles and latches (Table 02-1). -/
def Launch.tsp (l : Launch) : Nat := bits (wordAt l.words 6) 8 9
def Launch.acc (l : Launch) : Nat := bits (wordAt l.words 6) 24 8
def Launch.lat (l : Launch) : Nat := bits (wordAt l.words 6) 32 3

/-- Bases at which a spire can take a task of a launch: pages, tiles, latches; no envelope covers a failed bank (R464) (DESIGN CHOICE, log 9). -/
def State.room (s : State) (sp : Nat) (l : Launch) : Option (Nat × Nat × Nat) :=
  let h := s.held sp
  let failed := (s.spire sp).failed.map (fun b => (4 * b, 4))
  match firstFit (h.map (fun r => (r.tsb / 0x4000, r.tsp)) ++ failed) l.tsp 256,
      firstFit (h.map (fun r => (r.accB, r.accN))) l.acc 128, firstFit (h.map (fun r => (r.latB, r.latN))) l.lat 4 with
  | some a, some b, some c => some (a, b, c)
  | _, _, _ => none

/-- Entries of a table whose key lies in a range are dropped. -/
def dropRange {α : Type} (t : List (Nat × α)) (a n : Nat) : List (Nat × α) :=
  t.filter (fun p => !(decide (a ≤ p.1) && decide (p.1 < a + n)))

/-- Pages read as zero and are untouched, tiles read +0 with clear status, latches are cleared (R39, R110, R432). -/
def SpireMem.clearAlloc (x : SpireMem) (r : TaskRes) : SpireMem :=
  { x with
    ts := dropRange x.ts r.tsb (r.tsp * 0x4000)
    phaseOps := dropRange x.phaseOps r.tsb (r.tsp * 0x4000)
    tag := dropRange x.tag (r.tsb / 0x4000) r.tsp
    touched := dropRange x.touched (r.tsb / 0x4000) r.tsp
    acc := dropRange x.acc (r.accB * accWords) (r.accN * accWords)
    accSt := dropRange x.accSt r.accB r.accN
    lat := dropRange x.lat (r.latB * latBytes) (r.latN * latBytes)
    latSc := dropRange x.latSc (r.latB * latScBytes) (r.latN * latScBytes)
    poison := x.poison.filter (fun w =>
      !(w.1 == 1 && decide (r.tsb ≤ w.2) && decide (w.2 < r.tsb + r.tsp * 0x4000))
      && !(w.1 == 2 && decide (r.accB * accWords ≤ w.2) && decide (w.2 < (r.accB + r.accN) * accWords))
      && !(w.1 == 3 && decide (r.latB * latBytes ≤ w.2) && decide (w.2 < (r.latB + r.latN) * latBytes))) }

/-- Gated banks that an allocation covers begin to wake (R35) (DEDUCED, log 92). -/
def Spire.wakeFor (x : Spire) (r : TaskRes) : Spire :=
  let hit := x.gated.filter (fun b => !apart (4 * b) 4 (r.tsb / 0x4000) r.tsp)
  { x with gated := x.gated.filter (fun b => !hit.contains b), waking := x.waking ++ hit.map (fun b => (b, 0)) }

/-- The LCK bit of a space, from the bitmap that the HRU of tower t names (R431) (DEDUCED, log 48). -/
def State.lckBit (s : State) (t sid : Nat) : Bool :=
  let h := s.hru t
  h.lcke && bit (cellGet s.mem (h.lckb + sid / 8)).toNat (sid % 8)

/-- The initial format table: the entries that the arbiter has read from the launch's FTH object, else the reset values (R39; DEDUCED, log 8). -/
def ftEntries (l : Launch) : Tab Entry := (List.range l.ft.length).zip l.ft

/-- The version that a task's descriptor or placement fixes (R71). -/
def State.codeVersion (s : State) (l : Launch) (now : Nat) : Nat :=
  let v := bits (wordAt l.words 2) 32 32
  if v ≠ 0 then v
  else match s.here (l.words.getD 1 0) with
    | some o => o.cver
    | none => now

/-- What one task starts with beside its launch. -/
structure Start where
  ltwr : Nat
  lslot : Nat
  tc : List Nat
  args : List Entry
  wgt : Nat
  cls : Entry
  cver : Nat
  entry : Nat
  rol : Nat
deriving DecidableEq, Repr

/-- A TASK STARTS in context c of spire sp (R39), FROZEN where its translation is stale or its future was poisoned
(R436, R439) (DEDUCED, log 32). -/
def State.startTask (s : State) (sp c : Nat) (l : Launch) (d : Start) (base : Nat × Nat × Nat) (why : Option Cause) : State :=
  let w (k : Nat) : Nat := wordAt l.words k
  let tid := s.fresh
  let res : TaskRes :=
    { tsb := base.1 * 0x4000, tsp := l.tsp, accB := base.2.1, accN := l.acc, latB := base.2.2, latN := l.lat, ltwr := d.ltwr,
      lslot := d.lslot, codeh := l.words.getD 1 0, noff := l.noff, nlen := l.nlen, tsvn := l.tsvn, cov := bits (w 0) 32 2,
      lck := s.lckBit (towerOf sp) l.sid, tid := tid, order := tid }
  let sys : SysRegs :=
    { SysRegs.reset with
      nvr := bits (w 0) 36 4, lwc := l.lwci, xlh := l.words.getD 27 0, wgt := d.wgt, cls := d.cls, sid := l.sid,
      pri := bits (w 0) 24 3, ftp := bits (w 6) 0 5, rol := d.rol, cvr := d.cver }
  let x0 := s.ctx sp c
  let x : Ctx :=
    { Ctx.reset with
      st := .ready, sys := sys, res := res, tc := d.tc, pc := d.entry, ftab := ftEntries l
      sq := ((List.range d.args.length).zip d.args).map (fun p => (p.1 + 1, [p.2]))
      tsw := x0.tsw
      dtrap := x0.dtrap }
  let s1 := { s with fresh := s.fresh + 1 }
  let s2 := ((s1.modSpire sp (fun y =>
    ({ y with mem := y.mem.clearAlloc res, linger := y.linger.filter (fun r => s.outstanding r.tid) }.setCtx c x).wakeFor res)).pinCode
      res.codeh d.cver).pinKernel sp x (64 * d.ltwr + d.lslot)
  let stale := causeO 7 0x0B 0 res.codeh d.cver [(0x40, 4, l.tsvn), (0x44, 4, s.cfg.fuses.svn)]
  match (if l.tsvn < s.cfg.fuses.svn then some stale else why) with
  | none => s2
  | some k => s2.freeze sp c k false false d.entry d.entry

/-- A descriptor's task starts (R39, R51); its version was pinned at the descriptor's creation, which ends here. -/
def State.startDesc (s : State) (sp c : Nat) (l : Launch) (d : Desc) (base : Nat × Nat × Nat) : State :=
  (s.startTask sp c l ⟨d.ltwr, d.lslot, d.tc, d.args, d.wgt, d.clsh, d.cver, d.entry, d.rol⟩ base
    (if d.pois then some (.mk' 10 2 0 [(0x40, 8, d.pdet)]) else none)).unpinCode (l.words.getD 1 0) d.cver

-- Deques (R58, R59)

/-- The launch that a descriptor belongs to. -/
def State.launchOf (s : State) (t l : Nat) : Option Launch := (s.slot t l).map (·.l)

/-- A new descriptor exists: its task counts for its slot, and pins its code version (R48, R71). -/
def State.descMade (s : State) (d : Desc) : State :=
  match s.launchOf d.ltwr d.lslot with
  | some l => (s.taskMade d.ltwr d.lslot).pinCode (l.words.getD 1 0) d.cver
  | none => s

/-- Entries of the deque of spire sp, the inserts of this sc among them (R59). -/
def State.dequeLen (s : State) (sp : Nat) : Nat := (s.spire sp).deque.length + (s.inserts.filter (fun p => p.1 == sp)).length

/-- The deque of spire sp has room for an entry (R58). -/
def State.hasRoom (s : State) (sp : Nat) : Bool := decide (s.dequeLen sp < 256)

/-- A continuation or release-table push: the tail of its deque, else its tower's holding list, else upstream of it
(R62 to R64) (DEDUCED, log 49). One whose spire is fused off stands in that spire's deque, where nothing takes it (DESIGN CHOICE, log 97). -/
def State.pushTail (s : State) (sp : Nat) (d : Desc) : State :=
  let t := towerOf sp
  let a := s.arb t
  if s.hasRoom sp && !a.holding.any (fun h => h.sp == sp) then s.modSpire sp (fun x => { x with deque := x.deque ++ [d] })
  else if a.holding.length < 4096 ∧ a.upstream = [] then s.modArb t (fun a => { a with holding := a.holding ++ [⟨sp, d⟩] })
  else s.modArb t (fun a => { a with upstream := a.upstream ++ [⟨sp, d⟩] })

/-- An entry has left a deque: held pushes may enter it (R64). -/
def State.dequeLeft (s : State) (t : Nat) : State :=
  if (s.arb t).holding.isEmpty then s else s.later [.holdingListInsert (Fin.ofNat 4 t)]

/-- `holdingListInsert`: the oldest held push whose deque has room is inserted at its tail; the list refills (R64). -/
def execHoldingListInsert (t : Fin 4) (s : State) : Out :=
  let a := s.arb t
  .next (match a.holding.find? (fun h => s.hasRoom h.sp) with
    | none => s
    | some h =>
      let rest := a.holding.erase h
      (s.modSpire h.sp (fun x => { x with deque := x.deque ++ [h.d] })).modArb t (fun a =>
        { a with holding := rest ++ a.upstream.take 1, upstream := a.upstream.drop 1 }))

/-- A spire that may take work: powered and issuing (R76). -/
def State.takes (s : State) (sp c : Nat) : Bool := s.mayIssue sp && (s.ctx sp c).st == .free

/-- `dequePop`: a free context takes its own deque's head entry if its resources fit (R51). -/
def execDequePop (sp : Fin 128) (c : Fin 8) (s : State) : Out :=
  .next (match (s.spire sp).deque with
    | [] => s
    | d :: r =>
      match (if s.takes sp c then s.launchOf d.ltwr d.lslot else none) with
      | none => s
      | some l =>
        match s.room sp l with
        | none => s
        | some b => ((s.modSpire sp (fun x => { x with deque := r })).startDesc sp c l d b).dequeLeft (towerOf sp))

/-- Victims of a thief in the order of R18: the dome ring, then the other domes of the tower. -/
def victims (sp : Nat) : List Nat :=
  let dome := sp / 8
  (List.range 7).map (fun i => 8 * dome + (sp % 8 + 1 + i) % 8)
    ++ (List.range 3).flatMap (fun i => (List.range 8).map (fun k => 8 * (4 * (dome / 4) + (dome % 4 + 1 + i) % 4) + k))

/-- A descriptor's reach lets spire `thief` take it from spire `v` (Table 02-6). -/
def reaches (d : Desc) (thief v : Nat) : Bool :=
  if thief / 8 = v / 8 then d.sreach == 1 || d.sreach == 2 else d.sreach == 2 && thief / 32 == v / 32

-- The weight split of a slot operation (R67, R307)

/-- The share that a split gives: a share of 2^32 or more traps at issue; CLS = 0 gives 0 and splits nothing; a share that
the weight cannot cover borrows first, while the context stalls; a refused borrow leaves the operation undone and traps at
the next boundary. `req` is the request, `k` takes the share (DEDUCED, log 52). -/
def State.splitShare (s : State) (req : Nat) (k : Nat → State → State) : State :=
  let x := s.cx
  if 2 ^ 32 ≤ req then s.raise (causeO 11 6 s.iss.slot x.sys.cls 0 [(0x40, 8, req)])
  else if x.sys.cls = 0 then k 0 s
  else
    let s1 := s.modCx (fun y => { y with split := none })
    match splitPlain x.sys.wgt req with
    | some p => k p.1 (s1.modCx (fun y => { y with sys := { y.sys with wgt := p.2 } }))
    | none =>
      match x.split with
      | some q =>
        if q.refused then
          s1.deferTrap s.iss.sp s.iss.c x.res.tid (causeO 11 6 s.iss.slot x.sys.cls 0 [(0x40, 8, if req = 0 then x.sys.wgt / 2 else req)]) s.iss.off
        else s.stallWith .borrow
      | none =>
        let t := s.stallWith .borrow
        (t.modCtx s.iss.sp s.iss.c (fun y => { y with split := some ⟨req, false, false⟩ })).later
          [.borrow (Fin.ofNat 128 s.iss.sp) (Fin.ofNat 8 s.iss.c)]

/-- The answer of the home reaches the splitting context: weight granted, or a refusal. -/
def Ctx.borrowed (x : Ctx) (a : Option Nat) : Ctx :=
  match x.split, a with
  | some p, some n => { x with split := some { p with answered := true }, sys := { x.sys with wgt := x.sys.wgt + n } }
  | some p, none => { x with split := some { p with answered := true, refused := true } }
  | none, _ => x

-- Forks (R306 to R308)

/-- The words of a fork or continuation record that R304 finds bad. -/
def forkBad (w : List Entry) (noTarget : Bool) : List (Nat × Bool) :=
  let v (k : Nat) : Nat := wordAt w k
  [(0, outside (v 0) (maskAt 0 32)), (1, v 1 != 0),
    (2, outside (v 2) (maskAt 50 2 + maskAt 0 7) || bits (v 2) 50 2 == 3 || (noTarget && bits (v 2) 0 7 != 0)), (3, v 3 != 0)]

/-- Tile coordinate and arguments of a record. -/
def recTc (w : List Entry) : List Nat := (List.range 8).map (fun k => bits (wordAt w (4 + k / 2)) (32 * (k % 2)) 32)
def recArgs (w : List Entry) : List Entry := (List.range 4).map (fun k => w.getD (8 + k) 0)

/-- The spires that a placement target stands for (R307). -/
def targetSpires (pk : Place) (own tgt : Nat) : List Nat :=
  match pk with
  | .own => [own]
  | .spire => [tgt]
  | .dome => if tgt < 16 then (List.range 8).map (fun k => 8 * tgt + k) else []
  | .tower => if tgt < 4 then (List.range 32).map (fun k => 32 * tgt + k) else []

/-- The enabled spire of the list whose deque holds the fewest entries, the lowest-numbered on a tie (DEDUCED, log 49). -/
def State.fewest (s : State) (l : List Nat) : Option Nat :=
  (l.filter (fun n => s.enabled n)).foldl (fun a n => match a with
    | none => some n
    | some m => if s.dequeLen n < s.dequeLen m then some n else some m) none

/-- An entry check of a fork or continuation: BOUNDS/0x03 (R307). -/
def State.entryCheck (s : State) (w : List Entry) (k : State → State) : State :=
  let e := bits (wordAt w 0) 0 32
  if e % 16 ≠ 0 ∨ s.cx.res.nlen ≤ e then s.raise (.mk' 4 3 s.iss.slot [(0x40, 8, e)]) else k s

/-- The descriptor that a record and a share make (R307). -/
def State.descOf (s : State) (w : List Entry) (share : Nat) : Desc :=
  let x := s.cx
  { cver := (match s.launchOf x.res.ltwr x.res.lslot with
      | some l => s.codeVersion l x.sys.cvr
      | none => x.sys.cvr)
    entry := bits (wordAt w 0) 0 32
    clsh := x.sys.cls
    sreach := bits (wordAt w 2) 50 2
    pois := false
    ltwr := x.res.ltwr
    lslot := x.res.lslot
    wgt := share
    tc := recTc w
    args := recArgs w
    pdet := 0
    rol := 0 }

/-- The inline run of a descriptor (R61): the return stack takes the forker's coordinate, weight, closure, code version
and return offset, which the end of the bundle settles; the next bundle is its entry. The descriptor's arguments are pushed as results of
latency 1, behind what queues 1 to 4 hold (DESIGN CHOICE, log 96). -/
def State.runInline (s : State) (d : Desc) : State :=
  let x := s.cx
  if 16 ≤ x.rstk.length then s.raise (.mk' 2 4 s.iss.slot [(0x40, 8, x.rstk.length)])
  else if 64 < x.inflight.length + x.deferred.length + 4 then s.stallWith (.flights 4)
  else
    let s1 := (s.modCx (fun y => { y with
      rstk := .fork y.tc y.sys.wgt y.sys.cls y.sys.cvr s.iss.next :: y.rstk
      tc := d.tc
      sys := { y.sys with wgt := d.wgt, cls := d.clsh, cvr := d.cver } })).pinCode x.res.codeh d.cver
    let s2 := ((List.range 4).zip d.args).foldl (fun s p => s.push (.s (p.1 + 1)) (.s p.2) 1 0) s1
    { s2 with iss := { s2.iss with inl := some d.entry } }

/-- A fork's descriptor: the owner pushes it at the head of its own deque, or, for another placement, it is a tail insert, made when the owners' pushes and pops of
this sc are over (R59, R307). -/
def State.insertDesc (s : State) (own : Bool) (n : Nat) (d : Desc) : State :=
  if own then s.modSpire n (fun x => { x with deque := d :: x.deque }) else { s with inserts := s.inserts ++ [(n, d)] }

/-- The tail inserts of the sc, in the order in which they were made (R59). -/
def State.insertTails (s : State) : State :=
  { s.inserts.foldl (fun s p => s.modSpire p.1 (fun x => { x with deque := x.deque ++ [p.2] })) s with inserts := [] }

/-- R307, R308: the insertion is a release, which waits for the context's earlier bundles alone; an inline run waits for nothing. -/
def execFork (p : Src2) (pk : Place) (s : State) : Out :=
  .next (s.readS p.a fun off s => s.readS p.b fun q s => s.record off 16 fun w s =>
    s.fields off (forkBad w (pk == .own) ++ [(12, wordAt w 12 != 0), (13, wordAt w 13 != 0), (14, wordAt w 14 != 0), (15, wordAt w 15 != 0)])
      fun s => s.entryCheck w fun s =>
        let tgt := bits (wordAt w 2) 0 7
        match s.fewest (targetSpires pk s.iss.sp tgt) with
        | none => s.raise (.mk' 4 7 3 [(0x40, 1, tgt), (0x41, 1, match pk with
            | .own => 0
            | .spire => 1
            | .dome => 2
            | .tower => 3)])
        | some n =>
          if s.hasRoom n && !s.releasable s.iss.sp s.cx s.iss.num then s.stallWith .insertion
          else s.splitShare q.toNat fun share s =>
            let d := s.descOf w share
            if !s.hasRoom n then s.runInline d
            else (s.insertDesc (pk == .own) n d).descMade d)

end Sys2Proof.Machine
end

