-- ==== Sys2Proof/Machine/Link.lean ====
section
/-! DEFINITION. Machine/Link.lean: what a package sends to others: items that await a response or an acknowledgement
(R358, R359, R450), the segments of a commit (R352), the words of LIVE and HRU messages, and what a package caches of objects
homed elsewhere (R97). -/

namespace Sys2Proof.Machine

-- Flits

def FlitHdr.zero : FlitHdr := ⟨0, 0, 0, 0, 0, false, false, 0, 0, 0, 0, 0, 0⟩
def XferHdr.zero : XferHdr := ⟨0, 0, 0, 0, 0, 0, 0, 0, 0⟩

/-- A flit as its creator queues it; HDST names this package until a path is chosen, the other fields of the hop are filled when it is
sent (R353, R354). -/
def State.newFlit (s : State) (peer kind : Nat) (x : XferHdr) (data : List Byte) : Flit :=
  ⟨{ FlitHdr.zero with hdst := s.cfg.pkn, esrc := s.cfg.pkn, edst := peer, kind := kind, len := 32 + data.length }, x, data, 0, true, 0⟩

/-- The segments of a list of bytes: 192 to each. -/
def chunks (n : Nat) : Nat → List Byte → List (List Byte)
  | 0, _ => []
  | k + 1, l => if l.isEmpty then [] else l.take n :: chunks n k (l.drop n)

/-- The segments of a commit within one sector (R352): its bytes in ascending offset, a 32-byte mask in segment 0. -/
def commitSegs (b : List (Nat × Byte)) : List (List Byte) :=
  let sorted := (List.range 256).filterMap (fun k => (b.find? (fun p => p.1 % 256 == k)).map (fun p => (k, p.2)))
  let mask := leBytes (sorted.foldl (fun m p => m + 2 ^ p.1) 0) 32
  let data := sorted.map (·.2)
  (mask ++ data.take 160) :: chunks 192 2 (data.drop 160)

/-- The bytes of a commit's segments, in order (R352). -/
def segBytes (segs : List (List Byte)) : List (Nat × Byte) :=
  match segs with
  | [] => []
  | first :: rest =>
    let mask := ofBytes (first.take 32)
    ((List.range 256).filter (fun k => bit mask k)).zip (first.drop 32 ++ rest.flatten)

/-- Words as bytes and back: the payload of LIVE and HRU messages (DESIGN CHOICE, log 21). -/
def wordBytes (l : List Entry) : List Byte := l.flatMap (fun w => leBytes w.toNat 8)
def bytesWords (n : Nat) (b : List Byte) : List Entry := (List.range n).map (fun k => BitVec.ofNat 64 (ofBytes ((b.drop (8 * k)).take 8)))

-- Items (R450)

/-- The stream's next SSEQ: a stream is keyed by object, source package and source tower (R359). -/
def State.takeSseq (s : State) (t : Nat) (h : Entry) : State × Nat :=
  let n := match s.fab.sseq.find? (fun p => p.1 == h && p.2.1 == t) with
    | some p => p.2.2
    | none => 1
  ({ s with fab := { s.fab with
      sseq := (h, t, n + 1) :: s.fab.sseq.filter (fun p => !(p.1 == h && p.2.1 == t)) } }, n)

/-- Peer q has been declared unreachable (R451). -/
def State.unreachable (s : State) (q : Nat) : Bool := (Tab.get s.fab.peers q .reset).unreachable

/-- An item enters (its RTAG names the source tower in its upper two bits, log 21): its flits join the outbound queue; `op` and `req` say what waits for it, `bytes` what it commits. A
new access toward an unreachable peer is abandoned by its first `resendTimer` (R451). -/
def State.sendItem (s : State) (t peer kind : Nat) (x : XferHdr) (segs : List (List Byte)) (stream : Bool) (op : Option Nat)
    (req : Option Req) (bytes : Nat) : State :=
  let p := if stream then s.takeSseq t x.obj else (s, 0)
  let s1 := p.1
  let rtag := t % 4 * 2 ^ 14 + s1.fab.rtag % 2 ^ 14
  let fl := ((List.range segs.length).zip segs).map fun q =>
    s1.newFlit peer kind { x with segi := if stream then q.1 else x.segi, segn := if stream then segs.length else x.segn, rtag := rtag, sseq := p.2 } q.2
  let it : Item := ⟨fl, peer, rtag, p.2, s1.fab.ns, s1.fab.ns, 1, op, req, bytes, []⟩
  let s2 := { s1 with fab := { s1.fab with rtag := (s1.fab.rtag + 1) % 2 ^ 14, outq := s1.fab.outq ++ fl, items := s1.fab.items ++ [it] } }
  if s.unreachable peer then s2.later [.resendTimer (peer * 2 ^ 16 + rtag)] else s2

/-- A flit that awaits nothing: a response or an acknowledgement. -/
def State.sendBare (s : State) (f : Flit) : State := { s with fab := { s.fab with outq := s.fab.outq ++ [f] } }

/-- The item that a response answers; it leaves the list. -/
def State.takeItem (s : State) (peer rtag : Nat) : Option (Item × State) :=
  (s.fab.items.find? (fun i => i.peer == peer && i.rtag == rtag)).map fun i =>
    (i, { s with fab := { s.fab with items := s.fab.items.filter (fun j => !(j.peer == peer && j.rtag == rtag)) } })

-- LIVE messages: the operation code of Table 13-3 and the words after the transfer header (log 21)

/-- A request of another package stands in this one's HRU as a request of spire 128 + package. -/
def Req.away (r : Req) : Bool := decide (128 ≤ r.sp)
/-- A request that this package makes for itself, not for a context. -/
def Req.own (r : Req) : Bool := r.c == 8 && !r.away
/-- Such a request from tower t, for space `sid`. -/
def ownReq (i : Instr) (t sid : Nat) (a b : Entry) (eidx : Nat) (words : List Entry) : Req := ⟨i, 32 * t, 8, 0, sid, 0, 3, 0, a, b, eidx, words, 0⟩

/-- Home tower of a versioned object (R477). -/
def homeOf (h : Entry) : Nat := honum h % 4

/-- Codes of OPC in LIVE flits. -/
def liveOpc : Instr → Nat
  | .ldo _ _ _ => 0
  | .cntAdd _ _ _ => 1
  | .cntRd _ _ _ _ => 2
  | .waitc _ _ => 2
  | .atom _ _ _ _ _ _ => 3
  | .atomCas _ _ _ _ => 4
  | .futNew _ _ => 5
  | .futRes _ _ _ => 5
  | .futRd _ _ _ _ => 5
  | _ => 6

/-- The operation within a code: the `atom` code, the future or closure operation (DESIGN CHOICE, log 21). -/
def liveSub : Instr → Nat
  | .atom _ _ _ op _ _ => op.code
  | .futNew _ _ => 0
  | .futRes _ p _ => if p then 2 else 1
  | .futRd _ _ _ _ => 3
  | .qOpen _ => 0
  | .weightReturn => 1
  | .borrow _ _ => 2
  | .waitq _ => 3
  | .launchActivate _ => 4
  | .releaseStepPush => 4
  | .cpQueueLaunch _ _ => 6
  | .fcvt _ _ _ _ _ => 5
  | .vcvt _ _ _ _ _ _ _ => 5
  | .vpack _ _ _ _ _ _ _ => 5
  | .adrain _ _ _ _ _ _ _ _ => 5
  | .adrainh _ _ _ _ => 5
  | _ => 0

/-- A request to another package's home (DESIGN CHOICE, log 21). -/
def State.sendLive (s : State) (t : Nat) (r : Req) (h : Entry) (stream : Bool) : State :=
  let w0 := BitVec.ofNat 64 (liveSub r.ins + r.sid * 2 ^ 16 + r.eidx * 2 ^ 32)
  s.sendItem t (hpkg h) 6 { XferHdr.zero with obj := h, opc := liveOpc r.ins } [wordBytes ([w0, r.a, r.b] ++ r.words.take 2)] stream none
    (some r) 0

-- What is known of objects homed elsewhere (R97)

/-- A page map entry of package q as this package uses it: q's own frames are remote, this package's are near. -/
def State.nearEntry (s : State) (q : Nat) (e : Entry) : Entry :=
  let put (st pkg : Nat) (rl : Bool) : Entry :=
    BitVec.ofNat 64 (st * 2 ^ 61 + (if peIL e then 2 ^ 60 else 0) + (if peSH e then 2 ^ 59 else 0) + (if rl then 2 ^ 58 else 0)
      + pkg * 2 ^ 48 + peFRAME e)
  match peST e with
  | 1 => put 3 q false
  | 2 => put 3 q true
  | 3 => if pePKG e = s.cfg.pkn then put (if peRL e then 2 else 1) 0 false else e
  | _ => e

/-- The object table entry of a remote handle, if HRU t holds it with the rights of `sid`. -/
def State.remoteObj (s : State) (t sid : Nat) (h : Entry) : Option Obj :=
  let u := s.hru t
  match u.cached h (2 ^ 32) 0, u.cached h (2 ^ 32 + 1) sid with
  | some _, some r =>
    let pages := u.tlb.filter (fun p => p.1 == h && decide (p.2.1 < 2 ^ 32))
    some { w := (List.range 16).map (fun k => (u.cached h (2 ^ 32) k).getD 0)
           maps := pages.foldl (fun m p => Tab.set m p.2.1 (Tab.set (Tab.get m p.2.1 []) p.2.2.1 p.2.2.2)) []
           retained := []
           rights := [(sid, r.toNat)]
           subs := []
           closing := none
           publisher := none
           joined := []
           await := []
           prims := []
           taken := [] }
  | _, _ => none

/-- An HRU request (Table 13-2, kind 0x9): OPC 0 asks for an entry and the rights of a space, 1 for a page map entry. -/
def State.askHru (s : State) (t : Nat) (r : Req) (h : Entry) (opc ver page : Nat) : State :=
  s.sendItem t (hpkg h) 9 { XferHdr.zero with obj := h, ver := ver, opc := opc, off := page * 65536 }
    [wordBytes [BitVec.ofNat 64 r.sid]] false none (some r) 0

-- Held accesses (R425, R426)

/-- An access held for a page (or, under version 2^32, for an entry or a pool): one service record for each page; joins
before the record has entered the trap queue are counted in it (DEDUCED, log 47). -/
def State.holdReq (s : State) (t : Nat) (r : Req) (sub : Nat) (h : Entry) (ver page : Nat) (e : Entry) : State :=
  let same (q : Entry × Nat × Nat × Req) : Bool := q.1 == h && q.2.1 == ver && q.2.2.1 == page
  let n := ((s.hru t).miss.filter same).length
  let s1 := s.modHru t (fun u => { u with miss := u.miss ++ [(h, ver, page, r)] })
  if n = 0 then s1.servicePage t sub h ver page e 1
  else s1.modHru t (fun u => { u with held := u.held.map (fun k =>
      if k.tcls = 6 ∧ k.obj = h ∧ k.ver = ver ∧ k.spne ∧ k.detail.any (fun d => d == (0x40, 8, page)) then
        { k with detail := k.detail.map (fun d => if d.1 = 0x50 then (0x50, 8, n + 1) else d) }
      else k) })

/-- An access held for an empty pool: MISSING/sub with the tower (Table 20-1). -/
def State.holdPool (s : State) (t : Nat) (r : Req) (sub pool : Nat) : State :=
  let n := ((s.hru t).miss.filter (fun q => q.1 == 0 && q.2.1 == sub && q.2.2.1 == pool)).length
  let s1 := s.modHru t (fun u => { u with miss := u.miss ++ [(0, sub, pool, r)] })
  if n = 0 then s1.eventHru t (.mk' 6 sub 0 [(0x40, 1, pool)]) else s1

/-- An access that waits for an answer of another package; nothing is posted. -/
def State.holdQuiet (s : State) (t : Nat) (r : Req) (h : Entry) (ver page : Nat) : State :=
  s.modHru t (fun u => { u with miss := u.miss ++ [(h, ver, page, r)] })

/-- A request waits for the object table entry of a handle that another package homes (R97). -/
def State.askEntry (s : State) (t : Nat) (r : Req) (h : Entry) : State := (s.holdQuiet t r h (2 ^ 32) 0).askHru t r h 0 0 0

/-- The event that goes on with an operation: a fetch of the engine, a commit, or the deliveries of its receivers. -/
def AOp.event (a : AOp) : List Instr :=
  match a.r.ins with
  | .mmaH _ _ _ _ _ => [.mmaHFetchArrival (Fin.ofNat 128 a.r.sp)]
  | .latLdh _ _ => [.mmaHFetchArrival (Fin.ofNat 128 a.r.sp)]
  | _ => if a.recv.isEmpty then [.sectorCommit a.id] else a.recv.map (fun (v : Nat × Nat × Nat × Nat) => .multicastDelivery a.id (Fin.ofNat 128 v.1))

/-- Held accesses chosen by `f` are retried oldest first (R427): a tile copy goes on, any other request is served anew. -/
def State.retryHeld (s : State) (t : Nat) (f : Entry → Nat → Nat → Bool) : State :=
  let l := (s.hru t).miss.filter (fun q => f q.1 q.2.1 q.2.2.1)
  let s1 := s.modHru t (fun u => { u with miss := u.miss.filter (fun q => !f q.1 q.2.1 q.2.2.1) })
  l.foldl (fun s q =>
    let r := q.2.2.2
    match (if 128 ≤ r.sp then none else s.aops.find? (fun a => a.id == r.tag)) with
    | some a => s.later a.event
    | none => (s.modHru t (fun u => { u with q := u.q ++ [r] })).later [.l2Miss (Fin.ofNat 4 t)]) s1

end Sys2Proof.Machine
end

