-- ==== Sys2Proof/Machine/Live.lean ====
section
/-! DEFINITION. Machine/Live.lean: live words at their home HRU (R126, R130, R299 to R301), futures and continuations (R62,
R127, R310 to R312), requests to closures (R65, R67, R314), the events `borrow`, `borrowAnswer` and `weightReturn`, `fut.wait`,
and how a request ends: its result, a deferred fault, or a wait for a page. -/

namespace Sys2Proof.Machine

/-- What a home answers: a fault, a page, a pool or an object table entry of another package to wait for, or the state after the operation with
two result words. -/
inductive LiveAns
  | ask (h : Entry)
  | fail (k : Cause)
  | held (sub page : Nat) (e : Entry)
  | pool (tower : Nat)
  | done (s : State) (v w : Entry)
deriving DecidableEq, Repr

/-- The object is homed on a present package other than this one. -/
def State.elsewhere (s : State) (h : Entry) : Bool := hpkg h != s.cfg.pkn && s.present (hpkg h)

/-- The needed rights; with RM when the access crosses packages (Table 03-5) (DEDUCED, log 40). -/
def needs (r : Nat) (away : Bool) : Nat := if away then r ||| rRM else r

/-- A live word of one of `kinds`, checked in the order RIGHTS, LAYOUT, BOUNDS (R299); `k` takes its object and offset (DEDUCED, log 35). -/
def State.liveWord (s : State) (t sid : Nat) (away : Bool) (h : Entry) (need : Nat) (kinds : List Nat) (e : Nat)
    (k : Obj → Nat → LiveAns) : LiveAns :=
  match s.lookup t 3 h with
  | .error c => .fail c
  | .ok o =>
    match o.checkRights 3 sid (needs need away) h with
    | .error c => .fail c
    | .ok _ =>
      if !o.live || !kinds.contains o.lkind then .fail (o.kindCause 3 h)
      else if o.words ≤ e then .fail (ixCause 3 h (BitVec.ofNat 64 e) 0 0)
      else
        let off := o.wordOff e
        match o.locate 0 off with
        | .mem a =>
          if s.dramPoisoned [a] || (o.lkind == 2 && s.dramPoisoned [a + 8]) then .fail (causeO 13 2 3 h 0 [(0x40, 1, 5), (0x48, 8, a)])
          else k o off
        | .held sub p x => .held sub p x
        | _ => .held 1 (off / 65536) (o.page 0 (off / 65536))

/-- A format code and an operand as `put` pushes them (R203). -/
def putPat (t : Fmt) (v : Nat) : Entry := if isSigned t then BitVec.ofInt 64 (sextN t.width v) else BitVec.ofNat 64 (v % 2 ^ t.width)

/-- The value that `atom` writes (R301). -/
def atomNew (op : AtomOp) (t : Fmt) (old v : Nat) : Nat :=
  match op with
  | .add => if t.isInt then (old + v) % 2 ^ t.width else (addCode t old v).1
  | .min => (pick t false old v).1
  | .max => (pick t true old v).1
  | .and => old &&& v
  | .or => old ||| v
  | .xor => old ^^^ v
  | .swap => v

/-- Formats that `atom` and `atom.cas` accept (R301). -/
def atomFmt (op : AtomOp) (t : Fmt) : Bool :=
  t.isInt || ((op == .add || op == .min || op == .max || op == .swap) && (t == .f32 || t == .f64))
def casFmt (t : Fmt) : Bool := t != .q4 && decide (t.width ≤ 32)

-- Futures

/-- The fields of a future's state word (Table 04-3). -/
structure Fut where
  val : Nat
  st : Nat
  nreg : Nat
  chead : Nat
deriving DecidableEq, Repr

def State.fut (s : State) (o : Obj) (off : Nat) : Fut :=
  let w := s.objRead o 0 (off + 8) 8
  ⟨s.objRead o 0 off 8, bits w 62 2, bits w 56 6, bits w 0 32⟩
def State.setFut (s : State) (o : Obj) (off : Nat) (f : Fut) : State :=
  (s.liveWriteLE o off f.val 8).liveWriteLE o (off + 8) (f.st * 2 ^ 62 + f.nreg * 2 ^ 56 + f.chead) 8

/-- A resolution reaches the continuations chained on future (h, e): each loses one from its join count; one that reaches zero
is pushed and its pool entry is free again (R62, R311). -/
def State.joinConts (s : State) (h : Entry) (e : Nat) (poison : Bool) (val : Nat) : State :=
  [0, 1, 2, 3].foldl (fun s t =>
    let step (c : Cont) : Cont :=
      if c.nexts.contains (h, e) then
        { c with
          join := c.join - 1
          nexts := c.nexts.filter (fun n => n != (h, e))
          d := if poison then { c.d with pois := true, pdet := val } else c.d }
      else c
    let l := (s.hru t).conts.map step
    let ready := l.filter (fun c => c.join == 0)
    let s1 := s.modHru t (fun u => { u with
      conts := l.filter (fun c => c.join != 0)
      cpool := u.cpool ++ ready.map (fun c => c.ix) })
    ready.foldl (fun s c => s.pushTail c.sp c.d) s1) s

/-- A resolution of an EMPTY or WAITING future (Table 02-7). -/
def State.resolve (s : State) (h : Entry) (o : Obj) (e off v : Nat) (poison : Bool) : State :=
  (s.setFut o off ⟨v, if poison then 3 else 2, 0, 0⟩).joinConts h e poison v

/-- A future word for an operation: a remote home is refused (R62). -/
def State.futWord (s : State) (t sid : Nat) (h : Entry) (need e : Nat) (k : Obj → Nat → LiveAns) : LiveAns :=
  if hpkg h ≠ s.cfg.pkn then .fail (causeO 10 3 3 h 0 [(0x40, 1, hpkg h)])
  else s.liveWord t sid false h need [2] e k

/-- `fut.res`, and a completion that resolves a future (R310, R285). -/
def State.futResolve (s : State) (t sid : Nat) (h : Entry) (e : Nat) (v : Entry) (poison : Bool) : LiveAns :=
  s.futWord t sid h rWR e fun o off =>
    let f := s.fut o off
    if 2 ≤ f.st then .fail (causeO 10 1 3 h 0 [(0x40, 8, f.val), (0x48, 8, v.toNat)])
    else .done (s.resolve h o e off v.toNat poison) 0 0

/-- Home tower of a future's word. -/
def State.futTower (s : State) (h : Entry) (e : Nat) : Nat :=
  match s.here h with
  | some o => o.homeTower (o.wordOff e)
  | none => 0

/-- A continuation is registered on FH0 and FH1 (R311): refused where one is poisoned or full, held where FH0's home has no
pool entry, pushed at once where every future is resolved. It takes the first of the free pool entries (DESIGN CHOICE, log 103). -/
def State.futRegister (s : State) (t sid sp : Nat) (d : Desc) (fs : List (Entry × Nat)) : LiveAns :=
  let rec check : List (Entry × Nat) → Option LiveAns
    | [] => none
    | (h, e) :: r =>
      match s.futWord t sid h rWR e (fun o off =>
          let f := s.fut o off
          if f.st = 3 then .fail (causeO 10 2 3 h 0 [(0x40, 8, f.val)])
          else if f.st = 1 ∧ 63 ≤ f.nreg then .fail (causeO 10 4 3 h 0 [])
          else .done s 0 0) with
      | .done _ _ _ => check r
      | x => some x
  match check fs with
  | some x => x
  | none =>
    let waiting := fs.filter (fun p => match s.here p.1 with
      | some o => decide ((s.fut o (o.wordOff p.2)).st < 2)
      | none => false)
    if waiting.isEmpty then .done (s.pushTail sp d) 0 0
    else
      let ft := match fs with
        | p :: _ => s.futTower p.1 p.2
        | [] => t
      match (s.hru ft).cpool with
      | [] => .pool ft
      | ix :: rest =>
        let s1 := s.modHru ft (fun u => { u with cpool := rest, conts := u.conts ++ [⟨ix, d, waiting.length, sp, waiting⟩] })
        .done (waiting.foldl (fun s p => match s.here p.1 with
          | some o =>
            let off := o.wordOff p.2
            let f := s.fut o off
            s.setFut o off ⟨f.val, 1, f.nreg + 1, if f.nreg = 0 then ix else f.chead⟩
          | none => s) s1) 0 0

-- Operations at the home

/-- The borrow of a launch of weight W and n tasks at its closure's home (R68): max(W0, n − W); the answer is the weight after it. -/
def State.borrowLaunch (s : State) (h : Entry) (w n : Nat) : State × Nat :=
  match s.liveOf h 3 with
  | none => (s, w)
  | some o =>
    let c := s.clo o
    let b := max c.w0 (n - w)
    (s.setClo o { c with issued := c.issued + b, borrows := c.borrows + 1 }, w + b)

/-- The closure of a launch queued by the host or a keep core: opened when NEW, else raised by LWGT; none where R68 refuses. -/
def State.openFor (s : State) (c : Entry) (lwgt : Nat) : Option State :=
  if c = 0 then some s
  else match s.liveOf c 3 with
    | none => none
    | some o =>
      let x := s.clo o
      if x.st = 2 ∨ (x.st = 0 ∧ lwgt = 0) then none
      else if x.st = 0 then some (s.setClo o ⟨lwgt, 0, 0, 1, lwgt⟩)
      else some (s.setClo o { x with issued := x.issued + lwgt })

/-- One live operation performed at its home, asked for by this package or by another (`away`) (DEDUCED, log 35) (DESIGN CHOICE, log 45). -/
def State.liveServe (s : State) (t : Nat) (away : Bool) (r : Req) : LiveAns :=
  let rd (o : Obj) (off n : Nat) : Nat := s.objRead o 0 off n
  match r.ins with
  | .cntAdd _ _ _ => s.liveWord t r.sid away r.a rWR [1] r.eidx fun o off =>
      .done (s.liveWriteLE o off (min (rd o off 8 + r.b.toNat) (2 ^ 64 - 1)) 8) 0 0
  | .cntRd _ _ _ _ => s.liveWord t r.sid away r.a rRD [1, 4] r.eidx fun o off => .done s (BitVec.ofNat 64 (rd o off 8)) 0
  | .waitc _ _ => s.liveWord t r.sid away r.a rRD [1, 4] r.eidx fun o off => .done s (BitVec.ofNat 64 (rd o off 8)) 0
  | .atom _ _ _ op _ _ => s.liveWord t r.sid away r.a rWR [0] r.eidx fun o off =>
      let f := o.fmt
      if !atomFmt op f then .fail (fmtsCause 3 r.a o.fmtCode)
      else
        let old := rd o off (f.width / 8)
        .done (s.liveWriteLE o off (atomNew op f old (r.b.toNat % 2 ^ f.width)) (f.width / 8)) (putPat f old) 0
  | .atomCas _ _ _ _ => s.liveWord t r.sid away r.a rWR [0] r.eidx fun o off =>
      let f := o.fmt
      if !casFmt f then .fail (fmtsCause 3 r.a o.fmtCode)
      else
        let old := rd o off (f.width / 8)
        .done (if old = bits r.b.toNat 0 f.width then s.liveWriteLE o off (bits r.b.toNat 32 f.width) (f.width / 8) else s)
          (putPat f old) 0
  | .futNew _ _ => s.liveWord t r.sid away r.a rWR [2] r.eidx fun o off =>
      if (s.fut o off).st = 1 then .fail (causeO 10 5 3 r.a 0 []) else .done (s.setFut o off ⟨0, 0, 0, 0⟩) 0 0
  | .futRes _ p _ => s.futResolve t r.sid r.a r.eidx r.b p
  | .futRd _ _ _ _ => s.liveWord t r.sid away r.a rRD [2] r.eidx fun o off =>
      .done s (BitVec.ofNat 64 (rd o off 8)) (BitVec.ofNat 64 (rd o (off + 8) 8))
  | .qOpen _ => s.liveWord t r.sid away r.a rWR [3] 0 fun o _ =>
      let c := s.clo o
      if c.st ≠ 0 then .fail (causeO 11 7 3 r.a 0 [(0x40, 8, c.st)])
      else .done (s.setClo o ⟨r.b.toNat, 0, 0, 1, r.b.toNat⟩) 0 0
  | .waitq _ => s.liveWord t r.sid away r.a rRD [3] 0 fun o _ => .done s (BitVec.ofNat 64 (s.clo o).st) 0
  | .weightReturn => .done (s.closureReturn r.a r.b.toNat) 0 0
  | .borrow _ _ =>
      match s.borrowAt r.a (r.b.toNat % 2 ^ 32) (r.b.toNat / 2 ^ 32) with
      | (s1, some n) => .done s1 (BitVec.ofNat 64 n) 0
      | (s1, none) => .done s1 0 0
  | .cpQueueLaunch _ _ => match s.openFor r.a r.b.toNat with
    | some s1 => .done s1 0 0
    | none => .fail (causeO 11 8 0 r.a 0 [(0x40, 8, r.a.toNat)])
  | .launchActivate _ => .done (s.borrowLaunch r.a r.b.toNat (wordAt r.words 0)).1
      (BitVec.ofNat 64 (s.borrowLaunch r.a r.b.toNat (wordAt r.words 0)).2) 0
  | _ => .done s 0 0

-- Release steps (R63, R320)

/-- Entries of a release table at a step. -/
def State.stepEntries (s : State) (rtid rstep : Nat) : List (Nat × Desc) :=
  match s.relTabs.find? (fun p => p.1 == rtid) with
  | some (_, t) => t.entries.filterMap fun e => if e.1 = rstep then some e.2 else none
  | none => []

/-- A step's entries pushed to the tails of their deques, sharing weight `w` as R68 shares a launch's; a code version of 0 is the current
one (Table 11-8). -/
def State.pushStep (s : State) (rtid rstep : Nat) (h : Entry) (w : Nat) : State :=
  let l := s.stepEntries rtid rstep
  ((List.range l.length).zip l).foldl (fun s p =>
    let d := p.2.2
    let v := if d.cver ≠ 0 then d.cver else match s.launchOf d.ltwr d.lslot with
      | some x => match s.here (x.words.getD 1 0) with
        | some o => o.cver
        | none => 0
      | none => 0
    let e : Desc := { d with cver := v, clsh := h, wgt := if h = 0 then 0 else w / l.length + (if p.1 = 0 then w % l.length else 0) }
    (s.pushTail p.2.1 e).descMade e) s

/-- One of a collective's release pushes is made; the collective goes on (R396). -/
def State.relMade (s : State) (run : Nat) : State :=
  { s with colls := s.colls.map (fun (a : CollRun) => if a.id = run then { a with rels := a.rels - 1 } else a) }.later [.collStep run]

/-- The borrow for the first push has been answered, or has failed: the next one's turn comes (R320). -/
def State.relNext (s : State) : State :=
  let l := s.relq.drop 1
  { s with relq := l }.later (l.map (fun _ => .releaseStepPush))

-- How a request ends

/-- The deferred results of a request that failed do not land. -/
def Ctx.dropResults (x : Ctx) (tag n : Nat) : Ctx := { x with deferred := x.deferred.filter (fun e => decide (e.tag < tag) || decide (tag + n ≤ e.tag)) }

/-- A change to the context of a task, running or saved. -/
def State.modTask (s : State) (sp c tid : Nat) (f : Ctx → Ctx) : State :=
  match s.locate sp c tid with
  | some (n, j) => s.modCtx n j f
  | none => s.mapImages (fun i => if i.valid && i.ctx.res.tid == tid then { i with ctx := f i.ctx } else i)

/-- An acquire has been performed: what its task issues may go on (R131, R133). -/
def Ctx.performed (x : Ctx) (tag : Nat) : Ctx := if x.acqs.isEmpty then x else { x with acqs := x.acqs.filter (· != tag) }

/-- A request has failed: what it holds goes back, and its context takes the deferred fault (R283, R305, R314, R436). -/
def State.failReq (s : State) (r : Req) (k : Cause) : State :=
  let s1 := s.modTask r.sp r.c r.tid (fun x =>
    let y := x.dropResults r.tag (match r.ins with
      | .futRd _ _ _ _ => 2
      | _ => 1)
    let y := y.performed r.tag
    match r.ins with
    | .qOpen _ => if y.sys.opv ∧ y.sys.cls = r.a then y.restoreOuter else y
    | .objPub _ _ => { y with wait := if y.wait = some (.publish r.a) then some .over else y.wait }
    | .objOpenw _ _ => { y with drafts := y.drafts.filter (fun d => d.2 != 2 ^ 32 + r.tag) }
    | .objPin _ _ => { y with pins := y.pins.filter (fun p => p.v != 2 ^ 32 + r.tag) }
    | _ => { y with wait := if y.wait = some (.remote r.tag) then some .over else y.wait })
  let s2 := match r.ins with
    | .relLd _ _ => if r.a = 0 then s1 else (s1.modSlot (wordAt r.words 0) (wordAt r.words 1) (fun y => { y with tables := y.tables - 1 })).later
        [.launchRetire (Fin.ofNat 4 (wordAt r.words 0)) (Fin.ofNat 64 (wordAt r.words 1))]
    | .futWait _ =>
      let s2 := s1.addReturn r.sp (r.words.getD 17 0) (wordAt r.words 18)
      match s.launchOf (wordAt r.words 19) (wordAt r.words 20) with
      | some l => (s2.unpinCode (l.words.getD 1 0) (wordAt r.words 16)).taskGone (wordAt r.words 19) (wordAt r.words 20)
      | none => s2
    | _ => s1
  s2.deferTrap r.sp r.c r.tid { k with slot := r.slot } r.off

/-- A drain to an object whose appends have been performed may now signal its target (R167). -/
def State.appended (s : State) (r : Req) : State :=
  match r.ins with
  | .adrainh _ _ _ _ => s.later [.sectorCommit (r.tag - 1)]
  | _ => s

/-- A control message whose launch has waited goes on: `code` 0, 1 with its closure opened, 2 refused (R68). -/
def State.launching (s : State) (m : CpMsg) (rec : List Entry) (sid code : Nat) : State :=
  { s with cfg := { s.cfg with launching := s.cfg.launching ++ [(m, sid, code)] } }.later [.cpQueueLaunch m rec]

/-- A request served again in a later sc. -/
def State.again (s : State) (t : Nat) (r : Req) : State := s.modHru t (fun u => { u with q := u.q ++ [r] })

/-- A request's results reach its task; a wait whose request has been checked reads its word here, a remote one that is met
ends and one that is not asks again (R300, R314, R315). -/
def State.finishReq (s : State) (t : Nat) (r : Req) (v w : Entry) : State :=
  let become (c : WaitC) : State :=
    s.modTask r.sp r.c r.tid (fun x => { x with wait := if x.wait = some (.remote r.tag) then some c else x.wait })
  let ended (met : Bool) (c : WaitC) : State :=
    if hpkg r.a = s.cfg.pkn then become c else if met then become .over else s.again t r
  let s := s.modTask r.sp r.c r.tid (fun x => x.performed r.tag)
  match r.ins with
  | .cntRd _ _ _ _ | .atom _ _ _ _ _ _ | .atomCas _ _ _ _ | .ldo _ _ _ => s.answer r.sp r.c r.tid r.tag (.s v)
  | .futRd _ _ _ _ => (s.answer r.sp r.c r.tid r.tag (.s v)).answer r.sp r.c r.tid (r.tag + 1) (.s w)
  | .waitc _ _ => ended (decide (r.b.toNat ≤ v.toNat)) (.counter r.a r.eidx r.b.toNat)
  | .waitv _ => ended (decide (r.b.toNat ≤ v.toNat)) (.version r.a r.b.toNat)
  | .waitq _ => ended (v.toNat == 2) (.closure r.a)
  | .borrow _ _ => s.modTask r.sp r.c r.tid (fun x => x.borrowed (if v = 0 then none else some v.toNat))
  | .launchActivate _ => s.modArb t (fun a => { a with
      pend := a.pend.map (fun (l : Launch) => if l.id = r.tag then { l with bor := false, wgt := v.toNat } else l) })
  | .releaseStepPush => ((s.pushStep (wordAt r.words 1) (wordAt r.words 2) r.a v.toNat).relMade (wordAt r.words 3)).relNext
  | .cpQueueLaunch m rec => s.launching m rec r.sid 1
  | _ => s

/-- The answer of a home to a request of this package. -/
def State.endReq (s : State) (t : Nat) (r : Req) (ver : Nat) (a : LiveAns) : State :=
  match a with
  | .fail k => s.failReq r k
  | .held sub p e => s.holdReq t r sub r.a ver p e
  | .pool n => s.holdPool n r 5 n
  | .ask h => s.askEntry t r h
  | .done s1 v w => s1.finishReq t r v w

/-- An access of one context to a remote word waits for its earlier ones to the same object, whichever of its 64-byte granules they name (R130): those
under way, and those that have not been sent. -/
def State.granuleBusy (s : State) (t : Nat) (r : Req) : Bool :=
  let before (q : Req) : Bool := q.tid == r.tid && q.a == r.a && decide (q.tag < r.tag)
  s.fab.items.any (fun i => match i.req with
    | some q => q.tid == r.tid && q.a == r.a
    | none => false) || (s.hru t).q.any before || (s.hru t).miss.any (fun q => before q.2.2.2)

/-- A live operation: at its home here, or sent to its home (R130, R358); updates travel in the object's stream (R359). -/
def State.liveRequest (s : State) (t : Nat) (r : Req) : State :=
  if s.elsewhere r.a then
    if s.granuleBusy t r then s.again t r
    else s.sendLive t r r.a true
  else s.endReq t r 0 (s.liveServe t false r)

/-- One completion on a counter (R126, R285): here, or at its home. -/
def State.bump (s : State) (t : Nat) (r : Req) (h : Entry) (ix n : Nat) : State :=
  let q : Req := { r with ins := .cntAdd ⟨⟨0, false⟩, ⟨0, false⟩⟩ .rlx 0, a := h, b := BitVec.ofNat 64 n, eidx := ix, words := [] }
  if s.elsewhere h then s.sendLive t q h true
  else match s.liveServe t false q with
    | .done s1 _ _ => s1
    | .fail k => s.deferTrap r.sp r.c r.tid k r.off
    | _ => s

-- The target of an operation (R121, R285)

/-- The object behind a handle for space `sid` at the HRU of tower t; none while another package has to be asked for it. -/
def State.objFor (s : State) (t sid slot : Nat) (h : Entry) : Except Cause (Option Obj) :=
  if s.elsewhere h then
    match s.remoteObj t sid h with
    | none => .ok none
    | some o =>
      if o.cls = 0 then .error (causeO 5 2 slot h 0 [])
      else if o.gen ≠ hgchk h then .error (causeO 5 3 slot h 0 [(0x40, 4, o.gen)])
      else match o.malformed with
        | some k => .error (causeO 8 2 slot h 0 [(0x40, 1, k)])
        | none => .ok (some o)
  else (s.lookup t slot h).map some

/-- A counter target that another package homes, by its entry (R283). -/
def State.targetAway (s : State) (t sid : Nat) (th : Entry) (tix : Nat) : Option LiveAns :=
  match s.objFor t sid 3 th with
  | .error k => some (.fail k)
  | .ok none => some (.ask th)
  | .ok (some o) =>
    match o.checkRights 3 sid (needs rWR true) th with
    | .error k => some (.fail k)
    | .ok _ =>
      if !o.live || o.lkind != 1 then some (.fail (o.kindCause 3 th))
      else if o.words ≤ tix then some (.fail (ixCause 3 th (BitVec.ofNat 64 tix) 0 0))
      else none

/-- A completion target's checks (R283): a counter or future with WR; a future homed here (DEDUCED, log 37). -/
def State.targetCheck (s : State) (t sid : Nat) (tk : Nat) (th : Entry) (tix : Nat) : Option LiveAns :=
  if tk < 2 then none
  else if tk = 2 ∧ s.elsewhere th then s.targetAway t sid th tix
  else
    match (if tk = 2 then s.liveWord t sid false th rWR [1] tix (fun _ _ => .done s 0 0)
      else s.futWord t sid th rWR tix (fun _ _ => .done s 0 0)) with
    | .done _ _ _ => none
    | x => some x

/-- A signal of `n` bytes, by operation `op` of request r: an arrival, or an addition; a future waits for the end. -/
def State.signal (s : State) (t : Nat) (r : Req) (tsb tk bar : Nat) (th : Entry) (tix n op : Nat) : State :=
  if n = 0 then s
  else if tk = 1 then s.sendArr ⟨r.sp, r.tid, tsb, bar, n, op, false⟩
  else if tk = 2 then s.bump t r th tix n
  else s

/-- The end of an operation: a future target is resolved with VAL, or poisoned. -/
def State.signalEnd (s : State) (t : Nat) (r : Req) (tk : Nat) (th : Entry) (tix : Nat) (val : Entry) (poison : Bool) : State :=
  if tk = 3 then
    match s.futResolve t r.sid th tix val poison with
    | .done s1 _ _ => s1
    | .fail k => s.deferTrap r.sp r.c r.tid k r.off
    | _ => s
  else s

-- Borrows and weight returns

/-- The request that a borrow of context c sends to the closure's home. -/
def borrowReq (s : State) (sp c : Nat) : Req :=
  let x := s.ctx sp c
  ⟨.borrow (Fin.ofNat 128 sp) (Fin.ofNat 8 c), sp, c, x.res.tid, x.sys.sid, x.pc, 3, 0, x.sys.cls,
    BitVec.ofNat 64 (x.sys.wgt + (match x.split with
      | some p => p.req * 2 ^ 32
      | none => 0)), 0, [], s.fresh⟩

/-- `borrow`: the closure's home grants or refuses; it alone holds W0 (R67). -/
def execBorrow (sp : Fin 128) (c : Fin 8) (s : State) : Out :=
  let x := s.ctx sp c
  .next (match x.split with
    | none => s
    | some p =>
      if p.answered then s
      else if s.elsewhere x.sys.cls then ({ s with fresh := s.fresh + 1 }).sendLive (towerOf sp) (borrowReq s sp c) x.sys.cls true
      else
        let r := s.borrowAt x.sys.cls x.sys.wgt p.req
        ({ r.1 with borrows := r.1.borrows ++ [(x.res.tid, r.2.getD 0)] }).later [.borrowAnswer sp c])

/-- `borrowAnswer`: the oldest answer reaches its task, which splits when its bundle issues again (R67) (DEDUCED, log 52). -/
def execBorrowAnswer (sp : Fin 128) (c : Fin 8) (s : State) : Out :=
  .next (match s.borrows with
    | [] => s
    | (tid, n) :: r => ({ s with borrows := r }).modTask sp c tid (fun x => x.borrowed (if n = 0 then none else some n)))

/-- `weightReturn`: returned weight reaches its closure (R65, R69, R437). -/
def execWeightReturn (s : State) : Out :=
  .next (match s.wret with
    | [] => s
    | (h, w) :: r =>
      let s1 := { s with wret := r }
      if s.elsewhere h then
        s1.sendItem 0 (hpkg h) 6 { XferHdr.zero with obj := h, opc := 6 } [wordBytes [1, h, BitVec.ofNat 64 w]] true none none 0
      else s1.closureReturn h w)

-- `fut.wait` at issue (R306, R311)

def execFutWait (p : Src2) (s : State) : Out :=
  .next (s.readS p.a fun off s => s.readS p.b fun q s => s.record off 16 fun w s =>
    s.fields off (forkBad w true ++
        [(14, outside (wordAt w 14) (maskAt 16 10 + maskAt 0 10) || (w.getD 13 0 == 0 && bits (wordAt w 14) 16 10 != 0)), (15, wordAt w 15 != 0)]) fun s =>
      s.entryCheck w fun s => s.splitShare q.toNat fun share s =>
        let d := s.descOf w share
        (s.tell (.futWait p) off q 0 (w ++ [BitVec.ofNat 64 d.cver, d.clsh, BitVec.ofNat 64 share, BitVec.ofNat 64 d.ltwr,
          BitVec.ofNat 64 d.lslot])).descMade d)

/-- The registration at the homes. -/
def State.serveFutWait (s : State) (t : Nat) (r : Req) : LiveAns :=
  let w := r.words
  let f0 := w.getD 12 0
  let f1 := w.getD 13 0
  let i0 := bits (wordAt w 14) 0 10
  let i1 := bits (wordAt w 14) 16 10
  if f0 = 0 ∨ (f0 = f1 ∧ i0 = i1) then .fail (causeO 10 6 3 f0 0 [])
  else
    s.futRegister t r.sid r.sp
      { cver := wordAt w 16, entry := bits (wordAt w 0) 0 32, clsh := w.getD 17 0, sreach := bits (wordAt w 2) 50 2, pois := false
        ltwr := wordAt w 19, lslot := wordAt w 20, wgt := wordAt w 18, tc := recTc w, args := recArgs w, pdet := 0, rol := 0 }
      ((f0, i0) :: (if f1 = 0 then [] else [(f1, i1)]))

end Sys2Proof.Machine
end

