-- ==== Sys2Proof/Machine/Copy.lean ====
section
/-! DEFINITION. Machine/Copy.lean: tile copies after their issue (R276 to R291, R468): the HRU's checks, the cells of a tile and
where each lies, the sector commits, multicast deliveries, completion signals and the end of an operation. -/

namespace Sys2Proof.Machine

-- Where things are

/-- Where an element of a version is: DRAM here, a zero page, a page that is not ready, a frame of another package, nothing
because it lies beyond an extent; or what must first be asked for: an entry, a page map entry, an entry of a shard map. -/
inductive Spot
  | mem (a : Nat)
  | zero
  | beyond
  | held (h : Entry) (ver sub page : Nat) (e : Entry)
  | remote (pkg : Nat) (h : Entry) (ver off : Nat)
  | askObj (h : Entry)
  | askPage (h : Entry) (ver page : Nat)
  | askShard (h : Entry) (k : Nat)
deriving DecidableEq, Repr

/-- Handle k of a shard map: read here, or from what HRU t caches of it (log 21). -/
def State.shardEntry (s : State) (t : Nat) (m : Entry) (k : Nat) : Option Entry :=
  if s.elsewhere m then (s.hru t).cached m (2 ^ 33) k
  else match s.liveOf m 5 with
    | some o => some (BitVec.ofNat 64 (s.objRead o 0 (8 * k) 8))
    | none => some 0

/-- The backing object of an element (R93, R94): its handle and the index tuple within it. A read prefers the replica on
this package when it holds the version; a write goes to the primary. -/
def State.backing (s : State) (t : Nat) (h : Entry) (o : Obj) (ver : Nat) (ix : List Nat) (write : Bool) :
    Except Spot (Entry × List Nat) :=
  if o.sdim = 7 ∧ o.repl = 0 then .ok (h, ix)
  else
    let q := cdiv (o.ext o.sdim) (max 1 o.scnt)
    let i := ix.getD o.sdim 0
    let k := if o.sdim = 7 then 0 else i / max 1 q
    let ix' := if o.sdim = 7 then ix else ix.set o.sdim (i % max 1 q)
    let rec near : List Nat → Except Spot (Option Entry)
      | [] => .ok none
      | j :: r =>
        match s.shardEntry t o.smaph (k * (o.repl + 1) + j) with
        | none => .error (.askShard o.smaph (k * (o.repl + 1) + j))
        | some b =>
          match s.here b with
          | some p => if p.holds ver then .ok (some b) else near r
          | none => near r
    match (if write then .ok none else near (List.range (o.repl + 1))) with
    | .error e => .error e
    | .ok (some b) => .ok (b, ix')
    | .ok none =>
      match s.shardEntry t o.smaph (k * (o.repl + 1)) with
      | none => .error (.askShard o.smaph (k * (o.repl + 1)))
      | some b => .ok (b, ix')

/-- Byte `off` of a version of an object seen from HRU t, by the page map entry that it holds, or by the map (R89, R97). -/
def State.byteSpot (s : State) (t : Nat) (h : Entry) (o : Obj) (ver off : Nat) : Spot :=
  let p := off / 65536
  let known := (s.hru t).cached h ver p
  if s.elsewhere h ∧ o.live then .remote (hpkg h) h 0 off
  else if s.elsewhere h ∧ known.isNone then .askPage h ver p
  else match locEntry (known.getD (o.page ver p)) off with
    | .mem a => .mem a
    | .zero => .zero
    | .held sub p e => .held h ver sub p e
    | .remote q _ => .remote q h ver off

/-- Where a write of byte `off` of a draft or a live object goes: to the home, which applies it (R98), or to the frame that the map names. -/
def State.writeSpot (s : State) (h : Entry) (o : Obj) (ver off : Nat) : Spot :=
  if s.elsewhere h then .remote (hpkg h) h ver off
  else match o.locate ver off with
    | .mem a => .mem a
    | .zero => .zero
    | .held sub p e => .held h ver sub p e
    | .remote q _ => .remote q h ver off

/-- HRU t keeps the page map entry by which a published version was read here; an absent page and one in transit are not kept (R95, R97). -/
def State.learnPage (s : State) (t : Nat) (h : Entry) (o : Obj) (ver off : Nat) : State :=
  let p := off / 65536
  let e := o.page ver p
  if s.elsewhere h || o.live || ver == o.dver || peST e == 0 || peST e == 4 || ((s.hru t).cached h ver p).isSome then s
  else s.modHru t (fun u => u.learn [(h, ver, p, e)])

/-- The object that a backing handle names, as tower t sees it; none where it is gone, or must first be asked for. -/
def State.backObj (s : State) (t sid : Nat) (h : Entry) (o : Obj) (b : Entry) : Option Obj :=
  if b = h then some o else if s.elsewhere b then s.remoteObj t sid b else s.here b

/-- Where an element stands, or with `scale` the scale byte of its block: its backing object, its byte offset and linear index there (R88, R93);
none where it lies beyond an extent. -/
def State.place (s : State) (t sid : Nat) (h : Entry) (o : Obj) (ver : Nat) (ix : List Nat) (scale write : Bool) :
    Except Spot (Option (Entry × Obj × Nat × Nat)) :=
  if !o.inExt ix then .ok none
  else match s.backing t h o ver ix write with
    | .error p => .error p
    | .ok (b, jx) => match s.backObj t sid h o b with
      | none => if s.elsewhere b then .error (.askObj b) else .ok none
      | some p => .ok (some (b, p, if scale then p.scalePlane + p.linear jx / 32 else p.offset jx, p.linear jx))

/-- The place of an element that is read. -/
def State.spot (s : State) (t sid : Nat) (h : Entry) (o : Obj) (ver : Nat) (ix : List Nat) (scale write : Bool) : Spot :=
  match s.place t sid h o ver ix scale write with
  | .error p => p
  | .ok none => .beyond
  | .ok (some q) => if write then s.writeSpot q.1 q.2.1 ver q.2.2.1 else s.byteSpot t q.1 q.2.1 ver q.2.2.1

-- The task's own store, running, saved, or lingering (R139, R277)

/-- The tile store that holds a task's pages, and the physical offset of its first byte. -/
def State.store (s : State) (sp c tid tsb : Nat) : SpireMem × Nat :=
  match s.locate sp c tid with
  | some (n, j) => ((s.spire n).mem, (s.ctx n j).res.tsb)
  | none => match s.imageOf tid with
    | some i => (i.mem, 0)
    | none => ((s.spire sp).mem, tsb)

/-- That store changed; f takes the store and the task's base. -/
def State.modStore (s : State) (sp c tid tsb : Nat) (f : SpireMem → Nat → SpireMem) : State :=
  match s.locate sp c tid with
  | some (n, j) => s.modSpire n (fun x => { x with mem := f x.mem (s.ctx n j).res.tsb })
  | none => match s.imageOf tid with
    | some _ => s.modImage tid (fun x => f x 0)
    | none => s.modSpire sp (fun x => { x with mem := f x.mem tsb })

-- Cells

/-- The cells of a tile: rows ascending, then the scale plane of q4. -/
def TDesc.cells (d : TDesc) : List Cell :=
  ((List.range d.rows).flatMap fun r => (List.range d.cols).map fun c => ⟨r, c, false⟩) ++
    (List.range d.rows).flatMap fun r => (List.range d.rowScales).map fun c => ⟨r, c, true⟩

/-- Tile-store offset of a cell of a tile at base T (R279). -/
def TDesc.tsOff (d : TDesc) (base : Nat) (x : Cell) : Nat :=
  if x.scale then base + d.rows * d.pitch + x.r * (d.cols / 32) + x.c else base + x.r * d.pitch + x.c * d.width / 8

/-- Bits of a cell. -/
def TDesc.cellBits (d : TDesc) (x : Cell) : Nat := if x.scale then 8 else d.width
/-- Bytes it lies in. -/
def TDesc.cellBytes (d : TDesc) (x : Cell) : Nat := (d.cellBits x + 7) / 8

/-- An operation's descriptor. -/
def Req.desc (r : Req) : TDesc := ⟨r.words.take 16, r.eidx, r.b⟩

/-- The index list, read under mode SWZ (R290). -/
def State.listOf (s : State) (a : AOp) : List Nat :=
  let d := a.r.desc
  let m := s.store a.r.sp a.r.c a.r.tid a.tsb
  (List.range d.rows).map fun r => m.1.readTs m.2 d.swz (d.aux + 4 * r) 4

/-- The operation takes dimension 1 from its index list. -/
def hasList : Instr → Bool
  | .tgath _ _ => true
  | .tscat _ _ _ => true
  | _ => false

/-- What a read of the index list meets: a tag of another mode where the space checks tags, or poison (R432, R442). -/
def State.listBad (s : State) (a : AOp) : Option Cause :=
  let d := a.r.desc
  let m := s.store a.r.sp a.r.c a.r.tid a.tsb
  let ps := physRange m.2 d.swz d.aux (4 * d.rows)
  if !hasList a.r.ins then none
  else match (if a.lck then m.1.badTag d.swz ps else none) with
    | some p => some (layoutTag 3 d.aux (m.1.tagAt p) d.swz)
    | none => if m.1.poisoned ps then some (poisonTs 3 (m.2 + d.aux)) else none

/-- Object index tuple of a cell from an origin (R279, R290). -/
def AOp.cellIx (a : AOp) (origin : List Nat) (x : Cell) : List Nat :=
  let i1 := if hasList a.r.ins then a.list.getD x.r 0 else origin.getD 1 0 + x.r
  (origin.set 0 (origin.getD 0 0 + (if x.scale then 32 * x.c else x.c))).set 1 i1

/-- The destination is an object; which handle, version and origin. -/
def AOp.dst (a : AOp) : Option (Entry × List Nat) :=
  let d := a.r.desc
  match a.r.ins with
  | .tst _ _ => some (d.obj, d.origin)
  | .tstW _ _ => some (d.obj, d.origin)
  | .tscat _ _ _ => some (d.obj, d.origin)
  | .tfill _ _ o => if o then some (d.obj, d.origin) else none
  | .tcopy _ _ _ => some (d.w.getD 8 0, d.origin2)
  | .adrainh _ _ _ _ => some (d.obj, d.origin)
  | _ => none

/-- The source is an object. -/
def AOp.src (a : AOp) : Option (Entry × List Nat) :=
  let d := a.r.desc
  match a.r.ins with
  | .tld _ _ => some (d.obj, d.origin)
  | .tgath _ _ => some (d.obj, d.origin)
  | .tcopy _ _ _ => some (d.obj, d.origin)
  | .tmc _ _ o => if o then some (d.obj, d.origin) else none
  | .mmaH _ _ _ _ _ => some (d.obj, d.origin)
  | .latLdh _ _ => some (d.obj, d.origin)
  | _ => none

/-- The reduction applied at the destination. -/
def AOp.red (a : AOp) : Red :=
  match a.r.ins with
  | .tcopy _ _ r => r
  | .tscat _ _ r => r
  | _ => .copy

/-- R291: the code of red(c, x). -/
def redCode (op : Red) (f : Fmt) (c x : Nat) : Nat :=
  match op with
  | .copy => x
  | .add => if f.isInt then (c + x) % 2 ^ f.width else (addCode f c x).1
  | .max => (pick f true c x).1
  | .min => (pick f false c x).1

/-- Formats that a reducing update accepts. -/
def redFmt (f : Fmt) : Bool := f != .e4m3 && f != .e5m2 && f != .q4

/-- Tile-store base of the destination of a tile-store operation: D of a multicast, else T. -/
def AOp.tsBase (a : AOp) : Nat :=
  match a.r.ins with
  | .tmc _ _ _ => a.r.desc.mbase
  | _ => a.r.desc.base

-- The plan: the cells of each commit

/-- A remote live source is read run by run (R468): the run of a cell, which no commit crosses. -/
def State.runOf (s : State) (t : Nat) (a : AOp) (x : Cell) : Nat :=
  match a.src with
  | none => 0
  | some (h, origin) =>
    if !s.elsewhere h then 0
    else match s.remoteObj t a.r.sid h with
      | none => 0
      | some o =>
        if !o.live then 0
        else
          let off := o.offset (a.cellIx origin x)
          1 + x.r * 2 ^ 40 + off / 256 * 2 + (if 192 ≤ off % 256 then 1 else 0)

/-- Where a cell is written: the tile store (handle 0) or a backing object, with the byte offset there; none where nothing is written (R93, R284). -/
def State.dstOf (s : State) (t : Nat) (a : AOp) (x : Cell) : Except Spot (Option (Entry × Nat)) :=
  match a.dst with
  | none => .ok (some (0, a.r.desc.tsOff a.tsBase x))
  | some (h, origin) =>
    match s.objFor t a.r.sid 3 h with
    | .error _ => .ok none
    | .ok none => .error (.askObj h)
    | .ok (some o) =>
      match s.place t a.r.sid h o a.dstVer (a.cellIx origin x) x.scale true with
      | .error p => .error p
      | .ok q => .ok (q.map (fun q => (q.1, q.2.2.1)))

/-- Each cell that is written, under the key of its commit: backing object, sector, run. -/
def State.keyed (s : State) (t : Nat) (a : AOp) : List Cell → Except Spot (List ((Entry × Nat × Nat) × Cell))
  | [] => .ok []
  | x :: r =>
    match s.dstOf t a x with
    | .error p => .error p
    | .ok o => match State.keyed s t a r with
      | .error p => .error p
      | .ok l => .ok (match o with
        | some w => ((w.1, w.2 / 256, s.runOf t a x), x) :: l
        | none => l)

/-- The commits of an operation: each the cells of one aligned 256-byte sector of the tile store or of one backing object (and of one run); a
tile that spans shards is split (R93); or what must first be asked for (DESIGN CHOICE, log 42). -/
def State.planOf (s : State) (t : Nat) (a : AOp) : Except Spot (List (List Cell)) :=
  match s.keyed t a a.r.desc.cells with
  | .error p => .error p
  | .ok keyed =>
    let keys := (keyed.map (·.1)).eraseDups
    .ok (keys.map fun k => (keyed.filter (fun p => p.1 == k)).map (·.2))

-- Validation (R283)

/-- An operation's continuation after its object is known, a fault, or an answer to wait for. -/
inductive Check
  | fine
  | fail (k : Cause)
  | ask (p : Spot)
deriving DecidableEq, Repr

/-- An object side of a tile: rights, class, format, shape and origin (R87, R283). `kinds` lists the live kinds accepted, `ver`
the versioned access it needs: 0 none accepted, 1 a pin, 2 a draft-set entry. -/
def State.sideCheck (s : State) (t : Nat) (r : Req) (h : Entry) (origin : List Nat) (need ver : Nat) (kinds : List Nat) (cap : List Entry) :
    Check :=
  let d := r.desc
  match s.objFor t r.sid 3 h with
  | .error k => .fail k
  | .ok none => .ask (.askObj h)
  | .ok (some o) =>
    match o.checkRights 3 r.sid (needs need (s.elsewhere h)) h with
    | .error k => .fail k
    | .ok _ =>
      let origin := if hasList r.ins then origin.set 1 0 else origin
      if (if o.live then !kinds.contains o.lkind else ver == 0) then .fail (o.kindCause 3 h)
      else if !o.live && ver == 1 && cap.headD 0 != 1 then .fail (o.verCause 8 3 h [])
      else if !o.live && ver == 2 && cap.headD 0 == 0 then .fail (o.verCause 1 3 h [])
      else if !o.live && ver == 2 && !s.elsewhere h && (o.dver != wordAt cap 1 || (match o.closing with
        | some n => decide (n ≤ r.tag)
        | none => false)) then .fail (o.verCause 4 3 h [])
      else if !o.live && ver == 2 && s.elsewhere h && s.closings.any (fun c => c.r.a == h && decide (c.num ≤ r.tag)) then .fail (o.verCause 4 3 h [])
      else if o.fmtCode ≠ d.fmtCode then .fail (fmtCause 3 h d.fmtCode o.fmtCode)
      else if (o.rank == 1 && d.rows != 1) || (d.fmt == .q4 && origin.getD 0 0 % 32 != 0) then
        .fail (causeO 8 5 3 h 0 [(0x40, 4, d.rows), (0x44, 4, d.cols)])
      else if !o.inExt origin then .fail (ixCause 3 h d.ix (d.w.getD 2 0) (d.w.getD 3 0))
      else .fine

/-- The first check that is not fine. -/
def firstBad : List Check → Check
  | [] => .fine
  | .fine :: r => firstBad r
  | x :: _ => x

/-- A completion target's checks, as checks of the operation (R283). -/
def State.targetAsk (s : State) (t : Nat) (r : Req) (tk : Nat) (th : Entry) (tix : Nat) : Check :=
  match s.targetCheck t r.sid tk th tix with
  | some (.fail k) => .fail k
  | some (.held sub p e) => .ask (.held th 0 sub p e)
  | some (.ask h) => .ask (.askObj h)
  | _ => .fine

/-- Words that the issue captured: the source's pin and the destination's draft entry. -/
def Req.pinCap (r : Req) : List Entry := (r.words.drop 16).take 2
def Req.draftCap (r : Req) : List Entry := (r.words.drop 18).take 2
def Req.tsbWord (r : Req) : Nat := wordAt r.words 20
def Req.tspWord (r : Req) : Nat := wordAt r.words 21

/-- Every object a tile copy names is checked (R283) (DEDUCED, log 34). -/
def State.copyCheck (s : State) (t : Nat) (r : Req) (pin : List Entry) : Check :=
  let d := r.desc
  let read := s.sideCheck t r d.obj d.origin rRD 1 [0] pin
  let write (h : Entry) (o : List Nat) (kinds : List Nat) (ver : Nat) : Check := s.sideCheck t r h o rWR ver kinds r.draftCap
  let redOk (h : Entry) : Check := if redFmt d.fmt then .fine else .fail (fmtsCause 3 h d.fmtCode)
  let sides : List Check := match r.ins with
    | .tld _ _ => [read]
    | .tgath _ _ => [read]
    | .tst _ _ => [write d.obj d.origin [0] 2]
    | .tstW _ _ => [write d.obj d.origin [4] 0]
    | .tscat _ _ _ => [write d.obj d.origin [0, 4] 2, redOk d.obj]
    | .tfill _ _ o => if o then [write d.obj d.origin [0] 2] else []
    | .tmc _ _ o => if o then [read] else []
    | .mmaH _ _ _ _ _ => [s.sideCheck t r d.obj d.origin rRD 1 [] pin]
    | .latLdh _ _ => [s.sideCheck t r d.obj d.origin rRD 1 [] pin]
    | .adrainh _ _ _ _ => [s.sideCheck t r d.obj d.origin (rRD ||| rWR) 2 [0] r.draftCap]
    | .tcopy _ _ red =>
      let h2 := d.w.getD 8 0
      [read, write h2 d.origin2 [0, 4] 2, if red == .copy then .fine else redOk h2]
    | _ => []
  match firstBad sides with
  | .fine => s.targetAsk t r d.tk d.th d.tix
  | x => x

-- Waiting for what is not here

/-- The request waits for a page, or for an answer that it asks another package for. -/
def State.waitSpot (s : State) (t : Nat) (r : Req) (p : Spot) : State :=
  match p with
  | .held h ver sub page e => s.holdReq t r sub h ver page e
  | .askObj h => s.askEntry t r h
  | .askPage h ver page => (s.holdQuiet t r h ver page).askHru t r h 1 ver page
  | .askShard h k => (s.holdQuiet t r h (2 ^ 33) k).askHru t r h 2 0 k
  | _ => s

/-- Where a context stands that stops its copies: halted and not stepping, being saved or saved (R73, R75). A drain to an object is a matrix
operation, which completes before the save (R73, R274). -/
def State.copyStops (s : State) (r : Req) : Bool :=
  match s.locate r.sp r.c r.tid with
  | some (n, j) =>
    let x := s.ctx n j
    (x.st == .halt && !x.halting) || (x.st == .saving && (match r.ins with
      | .adrainh _ _ _ _ => false
      | _ => true))
  | none => (s.imageOf r.tid).isSome

/-- After one commit the copy goes no further in this sc: its context is halted, also where it steps, or its copies stop (R75). -/
def State.copyParks (s : State) (r : Req) : Bool :=
  s.copyStops r || (match s.locate r.sp r.c r.tid with
    | some (n, j) => (s.ctx n j).st == .halt
    | none => false)

/-- An operation changed, or removed. -/
def State.modAop (s : State) (id : Nat) (f : AOp → AOp) : State := { s with aops := s.aops.map (fun a => if a.id = id then f a else a) }
def State.dropAop (s : State) (id : Nat) : State := { s with aops := s.aops.filter (fun a => a.id != id) }

/-- A fault found after validation: nothing further is committed or signalled (R283, R432, R442). -/
def State.failAop (s : State) (a : AOp) (k : Cause) : State := (s.dropAop a.id).deferTrap a.r.sp a.r.c a.r.tid { k with slot := a.r.slot } a.r.off

/-- An object here whose cells lie on another package, through its page map or a shard, needs RM (R85); what is not known of where they lie is asked
for first (DEDUCED, log 40). -/
def State.crossCheck (s : State) (t : Nat) (a : AOp) : Check :=
  let d := a.r.desc
  let side (p : Option (Entry × List Nat)) (ver : Nat) (write : Bool) : Check := match p with
    | none => .fine
    | some (h, origin) => match s.here h with
      | none => .fine
      | some o =>
        if o.rightsOf a.r.sid &&& rRM != 0 then .fine
        else
          let l := d.cells.map (fun x => s.spot t a.r.sid h o (if o.live then 0 else ver) (a.cellIx origin x) x.scale write)
          match l.find? (fun p => match p with
            | .askObj _ | .askPage _ _ _ | .askShard _ _ => true
            | _ => false) with
          | some p => .ask p
          | none => if l.any (fun p => match p with
              | .remote _ _ _ _ => true
              | _ => false) then
              match o.checkRights 3 a.r.sid (needs (if write then rWR else rRD) true) h with
              | .error k => .fail k
              | .ok _ => .fine
            else .fine
  firstBad [side a.src a.srcVer false, side a.dst a.dstVer true]

-- The writes of a draft (R103, R136)

/-- The object that a request writes, and the number of its issue. -/
def Req.writes (r : Req) : Option Entry :=
  match r.ins with
  | .tst _ _ => some r.desc.obj
  | .tscat _ _ _ => some r.desc.obj
  | .tfill _ _ o => if o then some r.desc.obj else none
  | .tcopy _ _ _ => some (r.desc.w.getD 8 0)
  | .adrainh _ _ _ _ => some r.desc.obj
  | .drOp _ _ _ => some (r.words.getD 0 0)
  | .nbRun _ => some r.a
  | .coll _ => some (r.words.getD 2 0)
  | _ => none

/-- Writes of the draft of h that are under way, those not yet accepted included (DEDUCED, log 41). -/
def State.draftWriters (s : State) (h : Entry) : List Req :=
  let mine (r : Req) : Bool := !r.away && r.writes == some h
  s.aops.filterMap (fun a => if mine a.r then some a.r else none)
    ++ s.rows.filterMap (fun a => if mine a.r then some a.r else none)
    ++ s.colls.filterMap (fun a => if mine a.r then some a.r else none)
    ++ s.nbus.flatMap (fun p => (p.2.cur.toList ++ p.2.queue).filterMap fun q => if q.draft && mine q.r then some q.r else none)
    ++ s.towers.flatMap (fun p => p.2.hru.q.filter mine ++ (p.2.hru.miss.map (·.2.2.2)).filter mine)
    ++ s.spires.flatMap (fun p => p.2.out.filter mine)

/-- Drains into the draft of h that have not been carried out: their tasks and issue numbers. -/
def State.drainsTo (s : State) (h : Entry) : List (Nat × Nat) :=
  s.spires.flatMap fun p => p.2.engine.filterMap fun m => match m.ins with
    | .adrainh _ _ _ _ => if m.h = h ∧ m.left.isNone then some (m.tid, m.num) else none
    | _ => none
def State.draftDrains (s : State) (h : Entry) : List Nat := (s.drainsTo h).map (·.2)

/-- An earlier draft write of the same task to the same object has not completed: a later one commits nothing yet (R136). -/
def State.earlierDraft (s : State) (h : Entry) (tid tag : Nat) : Bool :=
  (s.draftWriters h).any (fun r => r.tid == tid && decide (r.tag < tag)) || (s.drainsTo h).any (fun m => m.1 == tid && decide (m.2 < tag))

-- Sources

/-- A value read for a cell: its bits, and whether a byte of it was poisoned. -/
inductive Got
  | val (v : Nat) (bad : Bool)
  | wait (l : List Spot)
  | fault (k : Cause)
deriving DecidableEq, Repr

/-- Bytes of a cell from its spot; the nibble of a q4 code is chosen by the parity of its index. -/
def State.spotVal (s : State) (a : AOp) (n : Nat) (p : Spot) : Got :=
  match p with
  | .mem m => .val (readLE s.mem m n) (s.dramPoisoned ((List.range n).map (m + ·)))
  | .remote _ h _ off =>
    let l := (List.range n).map fun j => (a.buf.find? (fun b => b.1 == h && b.2.1 == off + j)).map (·.2.2)
    if l.all Option.isSome then .val (ofBytes (l.map (·.getD 0))) false else .wait [p]
  | .zero => .val 0 false
  | .beyond => .val 0 false
  | q => .wait [q]

/-- The source value of a cell. -/
def State.cellVal (s : State) (t : Nat) (a : AOp) (x : Cell) : Got :=
  let d := a.r.desc
  let n := d.cellBytes x
  let nib (v i : Nat) : Nat := if d.cellBits x = 4 then bits v (4 * (i % 2)) 4 else v
  match a.src with
  | some (h, origin) =>
    match s.objFor t a.r.sid 3 h with
    | .error k => .fault k
    | .ok none => .wait [.askObj h]
    | .ok (some o) =>
      let ver := if o.live then 0 else a.srcVer
      match s.place t a.r.sid h o ver (a.cellIx origin x) x.scale false with
      | .error p => .wait [p]
      | .ok none => .val 0 false
      | .ok (some (b, p, off, lin)) =>
        match (match (if o.live then none else s.l2Read a.r.sp a.r.sid b ver off n) with
          | some (v, bad) => Got.val v bad
          | none => s.spotVal a n (s.byteSpot t b p ver off)) with
        | .val v bad => .val (nib v lin) bad
        | g => g
  | none =>
    match a.r.ins with
    | .tfill _ _ _ =>
      let f := wordAt d.w 13
      .val (if x.scale then bits f 8 8 else f % 2 ^ d.cellBits x) false
    | .adrainh _ _ _ _ =>
      let mem := (s.spire a.r.sp).mem
      match (s.spire a.r.sp).engine.find? (fun m => m.num == a.id) with
      | some m => .val (m.drainCell (mem.tile m.d) x.r x.c x.scale) (mem.poisonIn 2 (m.d * accWords + x.r * 128 + x.c) 1).isSome
      | none => .val 0 false
    | _ =>
      let m := s.store a.r.sp a.r.c a.r.tid a.tsb
      let e := d.tsOff d.base x
      let ps := physRange m.2 d.swz e n
      match (if a.lck then m.1.badTag d.swz ps else none) with
      | some p => .fault (layoutTag 3 e (m.1.tagAt p) d.swz)
      | none => .val (nib (m.1.readTs m.2 d.swz e n) x.c) (m.1.poisoned ps)

/-- The values of a commit's cells, or what they wait for. -/
def State.cellVals (s : State) (t : Nat) (a : AOp) : List Cell → List (Cell × Nat × Bool) → List Spot → Except Cause (List (Cell × Nat × Bool) × List Spot)
  | [], l, w => .ok (l.reverse, w)
  | x :: r, l, w =>
    match s.cellVal t a x with
    | .val v b => State.cellVals s t a r ((x, v, b) :: l) w
    | .wait p => State.cellVals s t a r l (w ++ p)
    | .fault k => .error k

/-- A sector of a published version that has been read here enters the dome L2 of the reader's spire, and its translation the HRU (R96, R97). -/
def State.fillSector (s : State) (t : Nat) (a : AOp) (b : Entry) (p : Obj) (ver off : Nat) : State :=
  let o0 := off / 256 * 256
  if (s.l2Read a.r.sp a.r.sid b ver off 1).isSome then s
  else
    let s1 := s.learnPage t b p ver off
    match s.byteSpot t b p ver o0 with
    | .mem m => s1.l2Fill a.r.sp a.r.sid b ver off (dense s.mem m 256).toList
        ((s.poison.filter (fun w => decide (m ≤ w) && decide (w < m + 256))).map (· - m))
    | .zero => s1.l2Fill a.r.sp a.r.sid b ver off (List.replicate 256 0) []
    | .remote _ h _ _ =>
      let l := (List.range 256).map fun j => (a.buf.find? (fun x => x.1 == h && x.2.1 == o0 + j)).map (·.2.2)
      if l.all Option.isSome then s1.l2Fill a.r.sp a.r.sid b ver off (l.map (·.getD 0)) [] else s1
    | _ => s1

/-- The places of an operation's source cells: handle, backing object, version and offset, each sector of it once. -/
def State.srcSectors (s : State) (t : Nat) (a : AOp) (cells : List Cell) : List (Entry × Obj × Nat × Nat) :=
  match a.src with
  | none => []
  | some (h, origin) => match s.objFor t a.r.sid 3 h with
    | .ok (some o) =>
      if o.live then []
      else (cells.filterMap (fun x => match s.place t a.r.sid h o a.srcVer (a.cellIx origin x) x.scale false with
        | .ok (some q) => some (q.1, q.2.1, a.srcVer, q.2.2.1 / 256 * 256)
        | _ => none)).foldl (fun l q => if l.any (fun p => p.1 == q.1 && p.2.2.2 == q.2.2.2) then l else l ++ [q]) []
    | _ => []

/-- What the commit has read stays in the dome L2. -/
def State.fillFrom (s : State) (t : Nat) (a : AOp) (cells : List Cell) : State :=
  (s.srcSectors t a cells).foldl (fun s q => s.fillSector t a q.1 q.2.1 q.2.2.1 q.2.2.2) s

/-- Remote source bytes of a commit asked for: whole sectors of a version, runs of a live object (R358, R468). -/
def State.askBytes (s : State) (t : Nat) (a : AOp) (l : List Spot) : State :=
  let want := l.filterMap fun p => match p with
    | .remote q h ver off => some (q, h, ver, off)
    | _ => none
  let n := a.r.desc.width / 8
  let secs := want.foldl (fun l w =>
    let k := (w.1, w.2.1, w.2.2.1, w.2.2.2 / 256)
    if l.contains k then l else l ++ [k]) []
  secs.foldl (fun s k =>
    let offs := (want.filter (fun w => w.2.1 == k.2.1 && w.2.2.1 == k.2.2.1 && w.2.2.2 / 256 == k.2.2.2)).map (·.2.2.2)
    let lo := offs.foldl min (offs.headD 0)
    let hi := offs.foldl max 0 + max 1 n
    let live := k.2.2.1 == 0
    let off := if live then lo else k.2.2.2 * 256
    let len := if live then hi - lo else 256
    if s.fab.items.any (fun i => i.op == some a.id && i.flits.any (fun f => f.x.obj == k.2.1 && f.x.off == off)) then s
    else s.sendItem t k.1 1 { XferHdr.zero with obj := k.2.1, ver := k.2.2.1, off := off, segi := len % 256 / 16, segn := len % 16 } [[]]
      false (some a.id) (some a.r) 0) s

-- Destinations

/-- Whole bytes of a commit at their destination offsets: cells of a byte or more as they are, q4 codes in pairs. -/
def cellBytesAt (d : TDesc) (off : Cell → Option Nat) (par : Cell → Nat) (old : Nat → Byte) (l : List (Cell × Nat)) : List (Nat × Byte) :=
  l.foldl (fun (acc : List (Nat × Byte)) (p : Cell × Nat) => match off p.1 with
    | none => acc
    | some o =>
      if d.cellBits p.1 = 4 then
        let b := (match acc.find? (fun (q : Nat × Byte) => q.1 == o) with
          | some q => q.2
          | none => old o).toNat
        let sh := 4 * (par p.1 % 2)
        acc.filter (fun (q : Nat × Byte) => q.1 != o) ++ [(o, BitVec.ofNat 8 (putBits b sh 4 p.2))]
      else acc ++ ((List.range (d.cellBytes p.1)).zip (leBytes p.2 (d.cellBytes p.1))).map fun q => (o + q.1, q.2)) []

/-- A commit into the tile store of a task; poison moves with its bytes (R284, R441). -/
def State.commitTs (s : State) (a : AOp) (sp c tid tsb : Nat) (l : List (Cell × Nat × Bool)) : State × Nat :=
  let d := a.r.desc
  let off (x : Cell) : Option Nat := some (d.tsOff a.tsBase x)
  let m := s.store sp c tid tsb
  let b := cellBytesAt d off (fun x => x.c) (fun o => m.1.byteAt (physTs m.2 d.swz o)) (l.map (fun p => (p.1, p.2.1)))
  let bad := (l.filter (fun p => p.2.2)).map (fun p => d.tsOff a.tsBase p.1)
  (s.modStore sp c tid tsb (fun x base =>
    let w := b.map (fun p => (physTs base d.swz p.1, p.2))
    let y := x.putBytes w (tagsOf d.swz (w.map (·.1)))
    { y with poison := y.poison ++ bad.map (fun o => (1, physTs base d.swz o / 8 * 8)) }), b.length)

/-- The operation writes a window: ARV grows by each commit (R287). -/
def State.addArv (s : State) (h : Entry) (o : Obj) (n : Nat) : State :=
  if o.live ∧ o.lkind = 4 ∧ !s.elsewhere h then s.liveWriteLE o 0 (min (s.objRead o 0 0 8 + n) (2 ^ 64 - 1)) 8 else s

/-- What a commit into an object comes to. -/
inductive Wrote
  | done (s : State) (n : Nat)
  | sent (s : State)
  | parked (s : State)
  | wait (p : Spot)
  | pool
  | fault (k : Cause)
deriving DecidableEq, Repr

/-- A draft page for a write: it has its own frame; the pool is empty; or a shared frame of another package is being copied. -/
inductive Ready
  | go (s : State)
  | pool
  | wait (s : State)
deriving DecidableEq, Repr

/-- The request waits for the copy of a shared page that another package holds; the first to wait takes a frame and asks for its 256 sectors (R102). -/
def State.pullPage (s : State) (t : Nat) (r : Req) (b : Entry) (o : Obj) (p : Nat) : Ready :=
  let held (s : State) : State := s.holdQuiet t r b (2 ^ 34 + o.dver) p
  if s.pulls.any (fun q => q.h == b && q.ver == o.dver && q.page == p) then .wait (held s)
  else match (s.hru t).pool with
    | [] => .pool
    | f :: rest =>
      let s1 := s.modHru t (fun u => { u with pool := rest })
      let s2 := { s1 with fresh := s.fresh + 1, pulls := s.pulls ++ [⟨s.fresh, b, o.dver, p, t, f, []⟩] }
      .wait (held ((List.range 256).foldl (fun x k => x.sendItem t (pePKG (o.page o.dver p)) 1
        { XferHdr.zero with obj := b, ver := o.dver, off := p * 65536 + 256 * k } [[]] false (some s.fresh) none 0) s2))

/-- A private frame for the draft page of a write, in the primary's object (R102). -/
def State.readyPage (s : State) (t : Nat) (r : Req) (b : Entry) (ver off : Nat) : Ready :=
  match s.here b with
  | some o =>
    if o.live ∨ ver ≠ o.dver then .go s
    else if o.mustPull (off / 65536) then s.pullPage t r b o (off / 65536)
    else match s.shadow t (honum b) o (off / 65536) with
      | some q => .go q.1
      | none => .pool
  | none => .go s

/-- A member joins the first group that has none with its key. -/
def spread {α : Type} (key : α → Nat) (x : α) : List (List α) → List (List α)
  | [] => [[x]]
  | g :: r => if g.any (fun y => key y == key x) then g :: spread key x r else (g ++ [x]) :: r

/-- A reducing commit toward another package as items in each of which an element stands once, in ascending row (R291). -/
def occurrences {α : Type} (key : α → Nat) (l : List α) : List (List α) := l.foldl (fun a x => spread key x a) []

/-- A commit toward another package: the segments of one stream commit, or of one for each time an element stands in it (R284, R291, R352, R359). -/
def State.sendCommit (s : State) (t : Nat) (a : AOp) (pkg : Nat) (b : Entry) (ver : Nat) (off lin : Cell → Nat) (l : List (Cell × Nat × Bool)) : State :=
  let red := a.red
  let send (s : State) (m : List (Cell × Nat × Bool)) : State :=
    let bytes := cellBytesAt a.r.desc (fun x => some (off x)) lin (fun _ => 0) (m.map (fun c => (c.1, c.2.1)))
    s.sendItem t pkg (if red == .copy then 3 else 4)
      { XferHdr.zero with obj := b, ver := ver, off := (bytes.headD (0, 0)).1 / 256 * 256, fmt := a.r.desc.fmtCode, opc := (match red with
        | .max => 1
        | .min => 2
        | _ => 0) } (commitSegs bytes) true (some a.id) (some a.r) bytes.length
  (if red == .copy then [l] else occurrences (fun c => off c.1) l).foldl send s

/-- A commit into a draft or a live object here: draft bytes land in the writing dome's L2 (R98), those that share bytes with others, and what is not a
draft, in their frame; a reducing update is applied element by element. Each row's update counts its bytes, also where rows meet in an element (DEDUCED, log 43). -/
def State.commitHere (s : State) (a : AOp) (b : Entry) (q : Obj) (ver : Nat) (off lin : Cell → Nat) (l : List (Cell × Nat × Bool)) : Wrote :=
  let d := a.r.desc
  let addr (f : Nat) : Option Nat := match q.locate ver f with
    | .mem m => some m
    | _ => none
  let lo := (l.map (fun c => off c.1)).foldl min (off ((l.headD (⟨0, 0, false⟩, 0, false)).1)) / 256 * 256
  let s1 := if q.live then s else s.flushRange b ver lo 256
  if a.red == .copy then
    let cells := l.map (fun c => (c.1, c.2.1))
    let bytes (s : State) : List (Nat × Byte) := cellBytesAt d (fun x => some (off x)) lin (fun f => s.objByte q ver f) cells
    let badAt := (l.filter (fun c => c.2.2)).map (fun c => off c.1)
    let direct (s : State) : State :=
      let s2 := s.dramPut ((bytes s).filterMap (fun c => (addr c.1).map (fun m => (m, c.2))))
      { s2 with poison := s2.poison ++ badAt.filterMap (fun f => (addr f).map (fun m => m / 8 * 8)) }
    let n := (bytes s1).length
    if q.live || d.fmt == .q4 then .done ((direct s1).addArv b q n) n
    else .done (s.l2Write a.r.sp a.r.sid b ver (bytes s) badAt (fun _ => direct s1)) n
  else
    let n := d.width / 8
    let old (x : Cell) : Option Nat := addr (off x)
    if l.any (fun c => c.2.2) then .fault (.mk' 13 2 3 [(0x40, 1, 1), (0x48, 8, d.base)])
    else match (l.filterMap (fun c => old c.1)).find? (fun m => s1.dramPoisoned [m]) with
      | some m => .fault (causeO 13 2 3 b ver [(0x40, 1, 5), (0x48, 8, m)])
      | none =>
        let s2 := l.foldl (fun s c => match old c.1 with
          | some m => s.dramPut (((List.range n).zip (leBytes (redCode a.red d.fmt (readLE s.mem m n) c.2.1) n)).map (fun w => (m + w.1, w.2)))
          | none => s) s1
        .done (s2.addArv b q (n * l.length)) (n * l.length)

/-- A commit into an object: the page made ready first (R102); here, or toward the package that holds the page (R284). -/
def State.commitObj (s : State) (t : Nat) (a : AOp) (h : Entry) (origin : List Nat) (l : List (Cell × Nat × Bool)) : Wrote :=
  match s.objFor t a.r.sid 3 h with
  | .error k => .fault k
  | .ok none => .wait (.askObj h)
  | .ok (some o) =>
    let ver := if o.live then 0 else a.dstVer
    let at_ (x : Cell) : Except Spot (Option (Entry × Obj × Nat × Nat)) := s.place t a.r.sid h o ver (a.cellIx origin x) x.scale true
    match l with
    | [] => .done s 0
    | (x0, _, _) :: _ =>
      match at_ x0 with
      | .error p => .wait p
      | .ok none => .done s 0
      | .ok (some (b, p, off0, _)) =>
        let pl (x : Cell) : Nat × Nat := match at_ x with
          | .ok (some q) => q.2.2
          | _ => (0, 0)
        let off (x : Cell) : Nat := (pl x).1
        let lin (x : Cell) : Nat := (pl x).2
        match (if s.elsewhere b then .go s else s.readyPage t a.r b ver off0) with
        | .pool => .pool
        | .wait s1 => .parked s1
        | .go s1 =>
          let q := (s1.here b).getD p
          match s1.writeSpot b q ver off0 with
          | .remote pkg _ _ _ =>
            if l.any (fun c => c.2.2) then .fault (.mk' 13 2 3 [(0x40, 1, 7), (0x48, 8, off0)])
            else .sent (s1.sendCommit t a pkg b ver off lin l)
          | .mem _ => s1.commitHere a b q ver off lin l
          | sp => .wait sp

-- The events

/-- An operation has committed everything and nothing it sent is outstanding: its future is resolved with N (R285). -/
def State.endAop (s : State) (t : Nat) (a : AOp) : State :=
  let d := a.r.desc
  let s1 := s.dropAop a.id
  if a.failing.isEmpty then s1.signalEnd t a.r d.tk d.th d.tix (BitVec.ofNat 64 a.bytes) false
  else
    s1.deferTrap a.r.sp a.r.c a.r.tid (.mk' 4 5 3 [(0x40, 1, a.failing.foldl (fun m k => m + 2 ^ (k % 8)) 0)]) a.r.off

/-- A drain to an object has sent its last commit: its matrix operation ends, though its commits may be on their way (R271, R273). -/
def State.drainSent (s : State) (a : AOp) : State :=
  match a.r.ins with
  | .adrainh _ _ _ _ => s.modSpire a.r.sp (fun x => { x with engine := x.engine.map (fun m => if m.num = a.id then { m with left := some 1 } else m) })
  | _ => s

/-- Nothing that the operation sent is outstanding, and a drain's appends have been performed (R167). -/
def State.quiet (s : State) (id : Nat) : Bool :=
  let app (r : Req) : Bool := r.tag == id + 1 && r.appends
  !s.fab.items.any (fun i => i.op == some id || (match i.req with
    | some r => app r
    | none => false))
    && !s.spires.any (fun p => p.2.out.any app) && !s.towers.any (fun p => p.2.hru.q.any app || p.2.hru.miss.any (fun q => app q.2.2.2))

/-- What follows one commit. -/
def State.nextCommit (s : State) (t id : Nat) : State :=
  match s.aops.find? (fun a => a.id == id) with
  | none => s
  | some a =>
    if a.done.length < a.plan.length then
      (if s.copyParks a.r then s.modAop id (fun a => { a with halted := true }) else s.later [.sectorCommit id])
    else
      let s1 := s.drainSent a
      if s1.quiet id then s1.endAop t a else s1

/-- The store of a task runs on a spire in which one of these offsets lies in a bank that still wakes (R35). -/
def State.asleep (s : State) (sp c tid tsb m : Nat) (es : List Nat) : Bool :=
  match (match s.locate sp c tid with
    | some (n, j) => some (n, (s.ctx n j).res.tsb)
    | none => if (s.imageOf tid).isSome then none else some (sp, tsb)) with
  | some (n, b) =>
    let w := (s.spire n).waking
    !w.isEmpty && es.any (fun e => w.any (fun k => k.1 == bankOf (physTs b m e)))
  | none => false

/-- The tile-store offsets that a commit reads at its source. -/
def AOp.srcOffs (a : AOp) (l : List Cell) : List Nat :=
  match a.src, a.r.ins with
  | some _, _ | none, .tfill _ _ _ | none, .adrainh _ _ _ _ => []
  | none, _ => l.map (a.r.desc.tsOff a.r.desc.base)

/-- A commit, into the issuer's store or an object, meets a waking bank: it waits (R35). -/
def State.commitAsleep (s : State) (a : AOp) (l : List Cell) : Bool :=
  let dst := match a.dst with
    | some _ => []
    | none => l.map (a.r.desc.tsOff a.tsBase)
  s.asleep a.r.sp a.r.c a.r.tid a.tsb a.r.desc.swz (a.srcOffs l ++ dst)

/-- A copy waits for a later sc. -/
def State.park (s : State) (op : Nat) : State := s.modAop op (fun a => { a with halted := true })

/-- What a commit waits for that is not a byte of another package. -/
def notRemote : Spot → Bool
  | .remote _ _ _ _ => false
  | _ => true

/-- `sectorCommit`: one commit of a tile copy, the first whose source bytes are here (R119, R284, R468) (DESIGN CHOICE, log 42). -/
def execSectorCommit (op : Nat) (s : State) : Out :=
  .next (match s.aops.find? (fun a => a.id == op) with
    | none => s
    | some a =>
      let t := towerOf a.r.sp
      let d := a.r.desc
      if s.copyStops a.r then s.park op
      else
        let todo := (List.range a.plan.length).filter (fun k => !a.done.contains k)
        let ready := todo.find? (fun k => match s.cellVals t a (a.plan.getD k []) [] [] with
          | .ok (_, w) => w.isEmpty
          | .error _ => true)
        match (match ready with
          | some k => some k
          | none => todo.head?) with
        | none => s.nextCommit t op
        | some k =>
          let cells := a.plan.getD k []
          if s.commitAsleep a cells then s.park op
          else match s.cellVals t a cells [] [] with
          | .error c => s.failAop a c
          | .ok (l, w) =>
            match w.find? notRemote with
            | some q => s.waitSpot t a.r q
            | none =>
              if !w.isEmpty then s.askBytes t a w
              else if (match a.dst with
                | some (h, _) => s.earlierDraft h a.r.tid a.r.tag
                | none => false) then s.park op
              else
                let s := s.fillFrom t a cells
                match a.dst with
                | none =>
                  let r := s.commitTs a a.r.sp a.r.c a.r.tid a.tsb l
                  ((r.1.modAop op (fun a => { a with done := k :: a.done, bytes := a.bytes + r.2 })).signal t a.r a.tsb d.tk d.bar d.th
                    d.tix r.2 a.id).nextCommit t op
                | some (h, origin) =>
                  match s.commitObj t a h origin l with
                  | .done s1 n =>
                    ((s1.modAop op (fun a => { a with done := k :: a.done, bytes := a.bytes + n })).signal t a.r a.tsb d.tk d.bar d.th
                      d.tix n a.id).nextCommit t op
                  | .sent s1 => (s1.modAop op (fun a => { a with done := k :: a.done })).nextCommit t op
                  | .parked s1 => s1
                  | .wait q => s.waitSpot t a.r q
                  | .pool => s.holdPool t a.r 4 t
                  | .fault c => s.failAop a c)

/-- The receiver on a spire (R283): the lowest-numbered context that holds a task of the launch, if its allocation has room. -/
def State.receiver (s : State) (sp ltwr lslot e n : Nat) : Option (Nat × Nat) :=
  match ctxNums.find? (fun c => let x := s.ctx sp c; x.st != .free && x.res.ltwr == ltwr && x.res.lslot == lslot) with
  | some c => let x := s.ctx sp c; if inTs x.res.tsp e n then some (x.res.tid, x.res.tsb) else none
  | none => none

/-- Every receiver has all its commits. -/
def AOp.delivered (a : AOp) (n : Nat) : Bool := a.recv.all (fun v => decide (n ≤ v.2.2.2))

/-- A receiver of an operation has had one more delivery. -/
def AOp.stepTo (a : AOp) (sp n : Nat) : AOp :=
  { a with recv := a.recv.map (fun w => if w.1 = sp then (w.1, w.2.1, w.2.2.1, w.2.2.2 + 1) else w), bytes := a.bytes + n }

/-- The source values of a commit of a multicast: read once for all receivers (R288). -/
def State.tmcVals (s : State) (t : Nat) (a : AOp) (k : Nat) : Except Cause (List (Cell × Nat × Bool) × List Spot) :=
  match a.vals.find? (fun p => p.1 == k) with
  | some p => .ok (p.2, [])
  | none => s.cellVals t a (a.plan.getD k []) [] []

/-- The values read for a commit are kept while a receiver has still to have them. -/
def AOp.keepVals (a : AOp) (k : Nat) (l : List (Cell × Nat × Bool)) : AOp :=
  let low := (a.recv.map (·.2.2.2)).foldl min k
  { a with vals := (k, l) :: (a.vals.filter (fun p => p.1 != k && decide (low ≤ p.1))) }

/-- `multicastDelivery`: the next sector of a `tmc`, or the arrival of a `bar.arr`, reaches receiver `sp` (R283, R288, R297). -/
def execMulticastDelivery (op : Nat) (sp : Fin 128) (s : State) : Out :=
  .next (match s.aops.find? (fun a => a.id == op) with
    | none => s
    | some a =>
      let t := towerOf a.r.sp
      let d := a.r.desc
      match a.recv.find? (fun v => v.1 == sp.val) with
      | none => s
      | some v =>
        let step (s : State) (n m : Nat) : State :=
          let s1 := s.modAop op (fun a => a.stepTo sp n)
          match s1.aops.find? (fun a => a.id == op) with
          | none => s1
          | some b =>
            if b.delivered m then s1.endAop t b
            else if m ≤ v.2.2.2 + 1 then s1
            else if s1.copyParks a.r then s1.park op
            else s1.later [.multicastDelivery op sp]
        match a.r.ins with
        | .barArr _ _ => if v.2.2.2 = 0 then step (s.sendArr ⟨sp, v.2.1, v.2.2.1, a.r.a.toNat, a.r.b.toNat % 2 ^ 32, a.id, true⟩) 0 1 else s
        | _ =>
          let k := v.2.2.2
          if s.copyStops a.r then s.park op
          else match a.plan[k]? with
          | none => s
          | some cells =>
            if s.asleep a.r.sp a.r.c a.r.tid a.tsb d.swz (a.srcOffs cells) || s.asleep sp 8 v.2.1 v.2.2.1 d.swz (cells.map (d.tsOff a.tsBase)) then
              s.park op
            else match s.tmcVals t a k with
            | .error c => s.failAop a c
            | .ok (l, w) =>
              match w.find? notRemote with
              | some q => s.waitSpot t a.r q
              | none =>
                if !w.isEmpty then s.askBytes t a w
                else
                  let r := ((s.fillFrom t a cells).modAop op (fun a => a.keepVals k l)).commitTs a sp 8 v.2.1 v.2.2.1 l
                  let s1 := if d.tk = 1 then r.1.sendArr ⟨sp, v.2.1, v.2.2.1, d.bar, r.2, a.id, true⟩
                    else if d.tk = 2 then r.1.bump t a.r d.th d.tix r.2 else r.1
                  step s1 r.2 a.plan.length)

/-- An operation about to begin, nothing of it committed. -/
def Req.aop (r : Req) (tsb tsp : Nat) (lck : Bool) (srcVer dstVer : Nat) : AOp where
  id := r.tag
  r := r
  tsb := tsb
  tsp := tsp
  lck := lck
  srcVer := srcVer
  dstVer := dstVer
  done := []
  bytes := 0
  failing := []
  recv := []
  buf := []
  halted := false
  list := []
  plan := []
  vals := []

/-- The receivers among the named spires of a dome for a launch (R283): those that can take `n` bytes at `e` (and the barrier), and the others. -/
def State.receivers (s : State) (dome launch : Nat) (named : List Nat) (need : List (Nat × Nat)) : List (Nat × Nat × Nat × Nat) × List Nat :=
  let pick (k : Nat) : Option (Nat × Nat) :=
    let l := need.map fun q => s.receiver (8 * dome + k) (launch / 256) (launch % 256) q.1 q.2
    if l.all Option.isSome then (l.headD none) else none
  (named.filterMap (fun k => (pick k).map (fun v => (8 * dome + k, v.1, v.2, 0))), named.filter (fun k => (pick k).isNone))

/-- The operation has passed its checks: it begins (R283). -/
def State.beginAop (s : State) (t : Nat) (r : Req) (srcVer : Nat) : State :=
  let d := r.desc
  let a0 := r.aop r.tsbWord r.tspWord (wordAt r.words 22 == 1) srcVer (wordAt r.draftCap 1)
  let a1 := { a0 with list := if hasList r.ins then s.listOf a0 else [] }
  match s.listBad a0, s.crossCheck t a1, s.planOf t a1 with
  | some k, _, _ => s.failReq r k
  | none, .fail k, _ => s.failReq r k
  | none, .ask p, _ => s.waitSpot t r p
  | none, .fine, .error p => s.waitSpot t r p
  | none, .fine, .ok plan =>
    let a := { a1 with plan := plan }
    match r.ins with
    | .tmc _ _ _ =>
      let need := (d.mbase, d.span) :: (if d.tk = 1 then [(d.bar, 16)] else [])
      let v := s.receivers (r.sp / 8) (wordAt r.words 23) ((List.range 8).filter (fun k => bit d.mcm k)) need
      let b := { a with recv := v.1, failing := v.2 }
      let s1 := { s with aops := s.aops ++ [b] }
      if v.1.isEmpty then s1.endAop t b else s1.later (v.1.map (fun v => .multicastDelivery r.tag (Fin.ofNat 128 v.1)))
    | _ => ({ s with aops := s.aops ++ [a] }).later [.sectorCommit r.tag]

/-- The version that the task's pin of a handle has received, for a pin that was under way at the copy's issue (DEDUCED, log 38). -/
def State.latePin (s : State) (r : Req) (h : Entry) (cap : List Entry) : List Entry :=
  if cap.headD 0 = 2 then
    match s.locate r.sp r.c r.tid with
    | some (n, j) => (s.ctx n j).capture h
    | none => [0, 0]
  else cap

/-- The draft version that the task has received for a handle whose `obj.openw` was under way at the operation's issue. -/
def State.lateDraft (s : State) (r : Req) (h : Entry) (cap : List Entry) : List Entry :=
  if cap.headD 0 = 2 then
    match s.locate r.sp r.c r.tid with
    | some (n, j) => (s.ctx n j).captureDraft h
    | none => [0, 0]
  else cap

/-- The HRU takes a tile copy (R283). -/
def State.serveCopy (s : State) (t : Nat) (r : Req) : State :=
  let d := r.desc
  let pin := s.latePin r d.obj r.pinCap
  let dst := match r.ins with
    | .tcopy _ _ _ => d.w.getD 8 0
    | _ => d.obj
  let r := { r with words := r.words.take 16 ++ pin ++ s.lateDraft r dst r.draftCap ++ r.words.drop 20 }
  match s.copyCheck t r pin with
  | .fail k => s.failReq r k
  | .ask p => s.waitSpot t r p
  | .fine => s.beginAop t r (wordAt pin 1)

/-- The multicast network takes a `bar.arr` for other spires of the dome (R297). -/
def State.serveBarArr (s : State) (t : Nat) (r : Req) : State :=
  let v := s.receivers (r.sp / 8) (wordAt r.words 2) ((List.range 8).filter (fun k => bit r.eidx k)) [(r.a.toNat, 16)]
  let a := { r.aop (wordAt r.words 0) (wordAt r.words 1) false 0 0 with recv := v.1, failing := v.2 }
  let s1 := { s with aops := s.aops ++ [a] }
  if v.1.isEmpty then s1.endAop t a else s1.later (v.1.map (fun v => .multicastDelivery r.tag (Fin.ofNat 128 v.1)))

/-- Copies of a task that had stopped go on (R74, R75). -/
def State.wakeCopies (s : State) (tid : Nat) : State :=
  let l : List AOp := s.aops.filter (fun a => a.halted && a.r.tid == tid)
  ({ s with aops := s.aops.map (fun (a : AOp) => if a.r.tid = tid then { a with halted := false } else a) }).later
    (l.flatMap AOp.event)

end Sys2Proof.Machine
end

