-- ==== Sys2Proof/Machine/Version.lean ====
section
/-! DEFINITION. Machine/Version.lean: object instructions at their home HRU (R99 to R107, R315, R316, R429, R430, R477), the
event `publishComplete`, the HRU's commands (Table 03-8), and answers to requests of other packages. -/

namespace Sys2Proof.Machine

-- The command ring (R114, R115, Table 03-8)

/-- DRAM holds `n` bytes at physical address `a`. -/
def inDram (a n : Nat) : Bool := decide (a + n ≤ 2 ^ 39) || (decide (2 ^ 40 ≤ a) && decide (a + n ≤ 2 ^ 41))

/-- A record as its sixteen words (Table 19-1). -/
def TrapRec.words (r : TrapRec) : List Nat :=
  let flag (b : Bool) (k : Nat) : Nat := if b then 2 ^ k else 0
  let put (l : List Byte) (d : Nat × Nat × Nat) : List Byte :=
    ((List.range d.2.1).zip (leBytes d.2.2 d.2.1)).foldl (fun l p => l.set (d.1 - 0x40 + p.1) p.2) l
  let detail := r.detail.foldl put (List.replicate 48 0)
  [r.tcls * 2 ^ 56 + r.tsub * 2 ^ 48 + r.slot * 2 ^ 46 + flag r.deff 45 + flag r.sec 44 + flag r.frz 43 + r.ctx % 8 * 2 ^ 40 + flag r.eff 39
      + r.spn % 128 * 2 ^ 32 + r.pkn * 2 ^ 24 + flag r.spne 16 + 1,
    r.boff * 2 ^ 32 + r.roff, r.codeh.toNat, r.cver * 2 ^ 32 + r.snap * 2 ^ 24 + r.ltwr * 2 ^ 8 + r.lslot, r.obj.toNat, r.ver * 2 ^ 32 + r.seq,
    r.cyc, r.tc1 * 2 ^ 32 + r.tc0]
  ++ (bytesWords 6 detail).map (·.toNat) ++ [0, 0]

/-- A byte of a tower's trap queue, whose records stand 128 bytes apart from TQB on (R409). -/
def State.queueByte (s : State) (a : Nat) : Option Byte :=
  [0, 1, 2, 3].findSome? fun t =>
    let q := (s.tower t).tq
    if q.enabled && decide (q.tqb ≤ a) && decide (a < q.tqb + 128 * 2 ^ q.tqlog) then
      (q.ring.find? (fun p => p.1 == (a - q.tqb) / 128)).map (fun p => (wordBytes ((p.2.words.drop (a % 128 / 8)).take 1 |>.map (BitVec.ofNat 64 ·))).getD (a % 8) 0)
    else none

/-- The byte at a physical address as a keep core sees it (R114): of an object table entry, of the page map of the current version or of the draft,
of a trap queue, or of a frame. -/
def State.physByte (s : State) (a : Nat) : Byte :=
  let at_ (e : Entry) (k : Nat) : Byte := BitVec.ofNat 8 (e.toNat / 2 ^ (8 * k))
  match s.objs.find? (fun p => p.1 == a / 128) with
  | some p => at_ (p.2.w.getD (a % 128 / 8) 0) (a % 8)
  | none =>
    let map (o : Obj) (w v : Nat) : Option Byte :=
      let b := wordAt o.w w
      if b ≠ 0 ∧ b ≤ a ∧ a < b + 8 * o.pages then some (at_ (o.page v ((a - b) / 8)) ((a - b) % 8)) else none
    match s.objs.findSome? (fun p => (map p.2 6 p.2.cver).or (map p.2 7 p.2.dver)) with
    | some x => x
    | none => (s.queueByte a).getD (cellGet s.mem a)

/-- `n` bytes at a physical address, least significant first. -/
def State.phys (s : State) (a : Nat) : Nat → Nat
  | 0 => 0
  | n + 1 => (s.physByte a).toNat + 256 * State.phys s (a + 1) n

/-- The words of an entry's rights list (R85). -/
def State.rightsList (s : State) (w : List Entry) : List (Nat × Nat) :=
  (List.range (bits (wordAt w 12) 40 12)).map fun k =>
    let e := s.phys (wordAt w 11 + 4 * k) 4
    (bits e 16 16, bits e 0 7)

/-- The command in the entry at HEAD, or none for a reserved OP or a malformed operand. Operands stand in words 1 to 3 in the table's order, the version
above the page in word 2 of a PMU, "all" as all ones, a list of frames as 64-bit words (DESIGN CHOICE, log 94). -/
def State.ringCommand (s : State) (t : Nat) : Option Instr :=
  let u := s.hru t
  let w (k : Nat) : Nat := s.phys (u.cmdb + 32 * u.head + 8 * k) 8
  let k := Fin.ofNat 4 t
  let h := BitVec.ofNat 64 (w 1)
  match bits (w 0) 0 8 with
  | 1 =>
    let l := (List.range 16).map (fun j => BitVec.ofNat 64 (s.phys (w 2 + 8 * j) 8))
    if inDram (w 2) 128 then some (.otew k (w 1) l (s.rightsList l)) else none
  | 2 => some (.pmu k h (bits (w 2) 32 32) (bits (w 2) 0 32) (BitVec.ofNat 64 (w 3)))
  | 3 => if 1 < w 3 then none else some (.tinv k h (if w 2 = 2 ^ 64 - 1 then none else some (w 2)) (w 3 == 1))
  | 4 =>
    if w 1 = 2 ^ 64 - 1 then some (.purge k none (BitVec.ofNat 64 (w 2)))
    else if w 1 < 65536 then some (.purge k (some (w 1)) (BitVec.ofNat 64 (w 2))) else none
  | 5 =>
    if 1 ≤ w 2 ∧ w 2 ≤ 4096 ∧ inDram (w 1) (8 * w 2) then some (.fpool k ((List.range (w 2)).map (fun j => s.phys (w 1 + 8 * j) 8))) else none
  | 6 => if w 1 % 256 = 0 ∧ 1 ≤ w 2 ∧ w 2 ≤ 4096 ∧ inDram (w 1) (256 * w 2) then some (.cpool k (w 2)) else none
  | _ => none

/-- A command has taken its ring entry: HEAD moves and the entry's status byte is written. A command that no entry of the ring brings stands for one that is
written and rung at once (DESIGN CHOICE, log 94). -/
def State.taken (s : State) (t : Nat) (ok : Bool) : State :=
  let u := s.hru t
  let st := if ok then 1 else 2
  let head := (u.head + 1) % 256
  (s.modHru t (fun u => { u with
      head := head
      tail := if u.tail = u.head then head else u.tail
      status := Tab.set u.status u.head st })).dramPut [(u.cmdb + 32 * u.head + 1, BitVec.ofNat 8 st)]

/-- The HRU takes the next entry of its ring, those it refuses without more first. -/
def State.ringNext (s : State) (t : Nat) : Nat → State
  | 0 => s
  | n + 1 =>
    if (s.hru t).head = (s.hru t).tail then s
    else match s.ringCommand t with
      | some i => s.soon [i]
      | none => State.ringNext (s.taken t false) t n

/-- A command is done or refused; the next one follows (R115). -/
def State.took (s : State) (t : Nat) (ok : Bool) : State := (s.taken t ok).ringNext t 256

-- TINV across packages (R95, R427)

/-- The cached translations that a TINV names. -/
def tinvHit (h : Entry) (page : Option Nat) (x : Entry) (v p : Nat) : Bool :=
  x == h && (match page with
    | some q => p == q && decide (v < 2 ^ 32)
    | none => true)

/-- The other packages of the domain (R345). -/
def State.others (s : State) : List Nat :=
  if s.cfg.pres.isEmpty then [] else (List.range 256).filter (fun q => q != s.cfg.pkn && s.cfg.pres.getD q false)

/-- Every HRU of this package drops them, or retries the accesses it holds for the pages. -/
def State.tinvDrop (s : State) (h : Entry) (page : Option Nat) : State :=
  [0, 1, 2, 3].foldl (fun s k => s.modHru k (fun u => u.forget (tinvHit h page))) s
def State.tinvRetry (s : State) (h : Entry) (page : Option Nat) : State := [0, 1, 2, 3].foldl (fun s k => s.retryHeld k (tinvHit h page)) s

/-- The page that a message of TINV names. -/
def pageWord (page : Option Nat) : Entry := BitVec.ofNat 64 (page.getD (2 ^ 64 - 1))
def wordPage (w : Entry) : Option Nat := if w.toNat = 2 ^ 64 - 1 then none else some w.toNat

-- Answers to other packages (log 21): LIVE and HRU flits of OPC 7

/-- A cause as words, and back. -/
def causeWords (k : Cause) : List Entry :=
  [BitVec.ofNat 64 (1 + k.cls * 2 ^ 8 + k.sub * 2 ^ 16 + k.detail.length * 2 ^ 24), k.obj, BitVec.ofNat 64 k.ver] ++
    k.detail.flatMap (fun d => [BitVec.ofNat 64 (d.1 + d.2.1 * 2 ^ 8), BitVec.ofNat 64 d.2.2])
def wordsCause (w : List Entry) : Cause :=
  let h := wordAt w 0
  ⟨bits h 8 8, bits h 16 8, 3, w.getD 1 0, wordAt w 2,
    (List.range (bits h 24 8)).map fun k => (bits (wordAt w (3 + 2 * k)) 0 8, bits (wordAt w (3 + 2 * k)) 8 8, wordAt w (4 + 2 * k))⟩

/-- An answer to a commit of a stream is kept, so that a duplicate is answered again and not applied (R359, R450). -/
def State.keepAnswer (s : State) (peer : Nat) (h : Entry) (rtag sseq : Nat) (f : Flit) : State :=
  { s with fab := { s.fab with streams := s.fab.streams.map fun (x : Stream) =>
      if x.key = (h, peer, rtag / 2 ^ 14) then { x with results := (sseq, f) :: x.results.filter (fun r => r.1 != sseq) } else x } }

/-- The response of a home to package `peer`. -/
def State.respond (s : State) (peer kind : Nat) (h : Entry) (rtag sseq : Nat) (w : List Entry) : State :=
  let f := s.newFlit peer kind { XferHdr.zero with obj := h, opc := 7, segn := 1, rtag := rtag, sseq := sseq } (wordBytes w)
  (if sseq = 0 then s else s.keepAnswer peer h rtag sseq f).sendBare f

/-- Kind of the flit that carries a request and its answer: object instructions travel as HRU messages. -/
def Req.flitKind (r : Req) : Nat :=
  match r.ins with
  | .objOpenw _ _ | .objPub _ _ | .objAbandon _ | .objPin _ _ | .objUnpin _ | .objSub _ _ | .objVer _ _ _ | .objDesc _ _ _
  | .waitv _ | .barArr _ _ | .tinv _ _ _ _ => 9
  | _ => 6

/-- Requests that this package has made for itself because of object h are still under way, or publish a backing object of it here (R93). -/
def State.following (s : State) (h : Entry) : Bool :=
  let mine (r : Req) : Bool := r.own && r.words.headD 0 == h
  s.towers.any (fun p => p.2.hru.q.any mine || p.2.hru.miss.any (fun q => mine q.2.2.2))
    || s.fab.items.any (fun i => match i.req with
      | some r => mine r
      | none => false)
    || s.objs.any (fun p => match p.2.publisher with
      | some r => mine r
      | none => false)

/-- Codes of the object instructions in HRU messages (log 21). -/
def objCode : Instr → Nat
  | .objOpenw _ _ => 0
  | .objPub _ _ => 1
  | .objAbandon _ => 2
  | .objPin _ _ => 3
  | .objUnpin _ => 4
  | .objSub _ del => if del then 6 else 5
  | .objVer _ _ sel => match sel with
    | .cver => 7
    | .dver => 8
    | .pinned => 9
  | .objDesc _ _ _ => 10
  | .waitv _ => 11
  | .tinv _ _ _ _ => 13
  | _ => 12

def objOfCode (n : Nat) : Instr :=
  let z : SrcS := ⟨0, false⟩
  match n with
  | 0 => .objOpenw 0 z
  | 1 => .objPub 0 z
  | 2 => .objAbandon z
  | 3 => .objPin 0 ⟨z, z⟩
  | 4 => .objUnpin z
  | 5 => .objSub ⟨z, z⟩ false
  | 6 => .objSub ⟨z, z⟩ true
  | 7 => .objVer 0 z .cver
  | 8 => .objVer 0 z .dver
  | 9 => .objVer 0 z .pinned
  | 10 => .objDesc 0 z 0
  | 11 => .waitv ⟨z, z⟩
  | 13 => .tinv 0 0 none true
  | _ => .barArr ⟨z, z⟩ 0

/-- An object instruction sent to package q (log 21). -/
def State.sendObj (s : State) (t q : Nat) (r : Req) : State :=
  s.sendItem t q 9 { XferHdr.zero with obj := r.a, opc := 3 }
    [wordBytes ([BitVec.ofNat 64 (objCode r.ins + r.sid * 2 ^ 16 + r.eidx * 2 ^ 32), r.b] ++ r.words.take 4)] false none (some r) 0

/-- The other packages of the domain are told of a TINV: to drop (0), or, once all have, to retry (1). -/
def State.tellTinv (s : State) (t : Nat) (h : Entry) (page : Option Nat) (phase : Nat) : State :=
  s.others.foldl (fun s q =>
    s.sendObj t q (ownReq (.tinv (Fin.ofNat 4 t) h page true) t 0 h (BitVec.ofNat 64 q) phase [0, pageWord page])) s

/-- A TINV is done: the accesses held for its pages are retried everywhere (R427). -/
def State.tinvDone (s : State) (t : Nat) (h : Entry) (page : Option Nat) (dom : Bool) : State :=
  ((if dom then s.tellTinv t h page 1 else s).tinvRetry h page).took t true

/-- Package q has acknowledged a TINV, or cannot be reached; the last of them ends it (R95). -/
def State.tinvAck (s : State) (t q : Nat) (h : Entry) (page : Option Nat) : State :=
  let s1 := s.modHru t (fun u => { u with acks := u.acks.filter (· != q) })
  if (s.hru t).acks.contains q && (s1.hru t).acks.isEmpty then s1.tinvDone t h page true else s1

/-- An own request is over, or has failed: what waits for the last of its object's goes on; a package that has been told of a closing, or that
cannot be reached, is awaited no more (R103). -/
def State.ownDone (s : State) (r : Req) : State :=
  match r.ins with
  | .objPub _ _ => if r.eidx = 1 then s.modHere r.a (fun o => { o with await := o.await.filter (· != r.b.toNat) }) else s
  | .objOpenw _ _ =>
    let h := r.words.headD 0
    if s.following h then s else s.retryHeld (homeOf h) (fun x v _ => x == h && v == 2 ^ 35)
  | .tinv _ _ _ _ => if r.eidx = 0 then s.tinvAck (towerOf r.sp) r.b.toNat r.a (wordPage (r.words.getD 1 0)) else s
  | _ => s

/-- The answer to a request, of this package or another. -/
def State.conclude (s : State) (t : Nat) (r : Req) (a : LiveAns) (fin : State → Entry → Entry → State) : State :=
  match a with
  | .held sub p e => s.holdReq t r sub r.a 0 p e
  | .pool n => s.holdPool n r 5 n
  | .ask h => s.askEntry t r h
  | .fail k =>
    if r.away then s.respond (r.sp - 128) r.flitKind r.a r.tag r.slot (causeWords k) else if r.own then s.ownDone r else s.failReq r k
  | .done s1 v w => if r.away then s1.respond (r.sp - 128) r.flitKind r.a r.tag r.slot [0, v, w] else fin s1 v w

-- The home's checks

/-- A versioned object with the rights of `need`; a live one raises LAYOUT (R83, R315). -/
def State.versioned (s : State) (r : Req) (need : Nat) (k : Obj → LiveAns) : LiveAns :=
  match s.lookup (homeOf r.a) 3 r.a with
  | .error c => .fail c
  | .ok o => match o.checkRights 3 r.sid (needs need r.away) r.a with
    | .error c => .fail c
    | .ok _ => if o.live then .fail (o.kindCause 3 r.a) else k o

/-- The object after a change, and the answer. -/
def State.put (s : State) (h : Entry) (o : Obj) (v : Nat) : LiveAns := .done (s.setObj (honum h) o) (BitVec.ofNat 64 v) 0

-- Drafts (R100, R101, R104)

/-- A new draft: CVER's page map, its frames marked shared; `dmap` is the address of its map. -/
def Obj.openDraft (o : Obj) (dmap : Entry) : Obj :=
  let share (e : Entry) : Entry := if 1 ≤ peST e ∧ peST e ≤ 3 then e ||| BitVec.ofNat 64 (2 ^ 59) else e
  let v := o.cver + 1
  { ((o.setDver v).setWrj 1).setW 7 dmap.toNat with
    maps := Tab.set o.maps v ((Tab.get o.maps o.cver []).map fun p => (p.1, share p.2))
    closing := none
    joined := []
    await := []
    prims := []
    taken := [] }

/-- Frames that the draft holds for itself, each with the tower from whose pool it came (R102). -/
def Obj.shadowFrames (o : Obj) : List (Nat × Nat) :=
  (Tab.get o.maps o.dver []).filterMap fun p =>
    if peST p.2 = 1 ∧ !peSH p.2 then o.taken.find? (fun q => q.1 == peFRAME p.2) else none

/-- Frames go back to the pools they came from (R104). -/
def State.giveBack (s : State) (l : List (Nat × Nat)) : State := l.foldl (fun s q => s.modHru q.2 (fun u => { u with pool := u.pool ++ [q.1] })) s

/-- The object without its draft. -/
def Obj.noDraft (o : Obj) : Obj :=
  { ((o.setDver 0).setWrj 0).setW 7 0 with
    maps := Tab.del o.maps o.dver
    closing := none
    publisher := none
    joined := []
    await := []
    prims := []
    taken := [] }

/-- Every context, running or saved, loses its draft-set entry for h. -/
def State.dropDrafts (s : State) (h : Entry) : State :=
  let f (x : Ctx) : Ctx := { x with drafts := x.drafts.filter (fun d => d.1 != h || decide (2 ^ 32 ≤ d.2)) }
  let g (x : Spire) : Spire := { x with ctxs := x.ctxs.map fun q => (q.1, f q.2) }
  ({ s with spires := s.spires.map (fun (p : Nat × Spire) => (p.1, g p.2)) }).mapImages (fun i => { i with ctx := f i.ctx })

/-- A row operation leaves its bank: the row that arrived there next has its turn (R336). -/
def State.leaveBank (s : State) (op : Nat) : State :=
  let mine := s.rowBusy.filter (fun q => q.2.2.1 == op)
  let rest := s.rowBusy.filter (fun q => q.2.2.1 != op)
  { s with rowBusy := rest }.later (mine.filterMap fun (q : Nat × Nat × Nat × Nat) =>
    (rest.find? (fun (p : Nat × Nat × Nat × Nat) => p.1 == q.1 && p.2.1 == q.2.1)).map (fun (p : Nat × Nat × Nat × Nat) => Instr.rowOpRow p.2.2.1))

/-- R430: draft writes under way at an abandon end with VERSION/0x04. -/
def State.abortWrites (s : State) (h : Entry) (o : Obj) : State :=
  let k := o.verCause 4 3 h []
  let mine (r : Req) : Bool := !r.away && r.writes == some h
  let l := s.aops.filterMap (fun a => if mine a.r then some a.r else none)
    ++ s.rows.filterMap (fun a => if mine a.r then some a.r else none)
    ++ s.nbus.flatMap (fun p => (p.2.cur.toList ++ p.2.queue).filterMap fun q => if q.draft && mine q.r then some q.r else none)
    ++ s.towers.flatMap (fun p => (p.2.hru.miss.map (·.2.2.2)).filter (fun r => mine r && !s.aops.any (fun a => a.id == r.tag)))
  let nbu (x : Nbu) : Nbu := { x with
    cur := match x.cur with
      | some q => if q.draft && mine q.r then none else some q
      | none => none
    queue := x.queue.filter (fun q => !(q.draft && mine q.r)) }
  let s1 := { s with
    aops := s.aops.filter (fun a => !mine a.r)
    rows := s.rows.filter (fun a => !mine a.r)
    nbus := s.nbus.map (fun p => (p.1, nbu p.2))
    towers := s.towers.map fun p => (p.1, { p.2 with hru := { p.2.hru with miss := p.2.hru.miss.filter (fun q => !mine q.2.2.2) } }) }
  l.foldl (fun s r => (s.leaveBank r.tag).failReq r k) s1

-- The operations

/-- `obj.sub`'s record as a subscription of package pk (R316): words, the subscriber's spire and its TSB. -/
def subOf (w : List Entry) (pk : Nat) : Sub :=
  let w1 := wordAt w 1
  let tk := bits w1 62 2
  if tk = 1 then ⟨w.getD 0 0, tk, bits w1 32 22, wordAt w 3 + bits w1 0 32, pk, wordAt w 2⟩ else ⟨w.getD 0 0, tk, 0, bits w1 0 32, 0, 0⟩

/-- The package that makes a request. -/
def State.asker (s : State) (r : Req) : Nat := if r.away then r.sp - 128 else s.cfg.pkn

/-- The draft that the request's context had joined is gone; one whose `obj.openw` was under way names the open draft. -/
def Obj.noEntry (o : Obj) (r : Req) : Bool := o.dver == 0 || (r.words.headD 0 == 1 && o.dver != wordAt r.words 1)

/-- The primary backing objects of an object, whose versions follow its own (R93), or the entry of its shard map to ask for. -/
def State.primsOf (s : State) (t : Nat) (o : Obj) : Except Spot (List Entry) :=
  if o.sdim = 7 ∧ o.repl = 0 then .ok []
  else
    let rec go : List Nat → Except Spot (List Entry)
      | [] => .ok []
      | k :: r => match s.shardEntry t o.smaph (k * (o.repl + 1)), go r with
        | none, _ => .error (.askShard o.smaph (k * (o.repl + 1)))
        | some _, .error p => .error p
        | some b, .ok l => .ok (if b = 0 ∨ l.contains b then l else b :: l)
    go (List.range (if o.sdim = 7 then 1 else o.scnt))

/-- One object instruction performed at its home (R315, Table 11-5): DMAP takes the address of the new draft's map, an open value (DESIGN CHOICE, log 5)
(DEDUCED, log 39). -/
def State.objServe (s : State) (r : Req) : LiveAns :=
  let h := r.a
  let ver (o : Obj) (sub : Nat) (more : List (Nat × Nat × Nat)) : LiveAns := .fail (o.verCause sub 3 h more)
  match r.ins with
  | .objOpenw _ _ =>
      if r.eidx = 1 then .done s r.b 0
      else s.versioned r rWR fun o =>
        let join (o : Obj) : Obj := if r.away && !o.joined.contains (s.asker r) then { o with joined := o.joined ++ [s.asker r] } else o
        if o.cver = 2 ^ 32 - 1 then ver o 3 []
        else if o.dver = 0 then
          ({ s with free := s.free + 1 }).put h (join { o.openDraft (Config.freeWord s.free) with prims := (s.primsOf (homeOf h) o).toOption.getD [] })
            (o.cver + 1)
        else s.put h (join (o.setWrj (o.wrj + 1))) o.dver
  | .objPub _ _ => s.versioned r rPB fun o =>
      if o.noEntry r ∨ o.closing.isSome then ver o 5 []
      else s.newId.put h { o with closing := some s.fresh, publisher := some r } 0
  | .objAbandon _ =>
      if r.eidx = 1 then
        match s.here h with
        | some o => if o.dver = r.b.toNat then s.put h (o.setWrj (o.wrj - 1)) 0 else .done s 0 0
        | none => .done s 0 0
      else s.versioned r rPB fun o =>
        if o.noEntry r ∨ o.closing.isSome then ver o 5 []
        else
          let s1 := ((s.giveBack o.shadowFrames).discard h o.dver (fun _ _ => true)).setObj (honum h) o.noDraft
          .done ((s1.dropDrafts h).abortWrites h o) 0 0
  | .objPin _ _ => s.versioned r rPN fun o =>
      let v := if r.b = 0 then o.cver else r.b.toNat
      if !o.holds v then ver o 6 [(0x48, 8, r.b.toNat)] else s.put h (o.pinAdd v) v
  | .objUnpin _ => .done (if r.b.toNat < 2 ^ 32 then s.modHere h (fun o => o.pinDrop r.b.toNat) else s) 0 0
  | .objSub _ del => s.versioned r rPN fun o =>
      let x := subOf r.words (s.asker r)
      if del then
        if o.subs.contains x then s.put h { o.setNsub (o.nsub - 1) with subs := o.subs.erase x } 0
        else .fail (causeO 8 9 3 h 0 [(0x40, 8, r.b.toNat)])
      else if 64 ≤ o.subs.length then ver o 9 []
      else s.put h { o.setNsub (o.nsub + 1) with subs := o.subs ++ [x] } 0
  | .objVer _ _ sel =>
      match s.lookup (homeOf h) 3 h with
      | .error c => .fail c
      | .ok o => match o.checkRights 3 r.sid (needs rRD r.away) h with
        | .error c => .fail c
        | .ok _ => .done s (match sel with
          | .cver => BitVec.ofNat 64 o.cver
          | .dver => BitVec.ofNat 64 o.dver
          | .pinned => if r.words.headD 0 = 1 then r.words.getD 1 0 else 0) 0
  | .objDesc _ _ k =>
      match s.lookup (homeOf h) 3 h with
      | .error c => .fail c
      | .ok o => match o.checkRights 3 r.sid (needs rRD r.away) h with
        | .error c => .fail c
        | .ok _ => .done s (o.w.getD k 0) 0
  | .waitv _ => s.versioned r rRD fun o => .done s (BitVec.ofNat 64 o.cver) 0
  | _ => .done s 0 0

/-- The task of a request exists, running or saved. -/
def State.alive (s : State) (r : Req) : Bool := (s.locate r.sp r.c r.tid).isSome || (s.imageOf r.tid).isSome

/-- The publisher's wait ends with the new CVER (R103). -/
def State.published (s : State) (r : Req) (h v : Entry) : State :=
  (s.modTask r.sp r.c r.tid (fun x => { x with wait := if x.wait = some (.publish h) then some .over else x.wait })).answer r.sp r.c r.tid r.tag (.s v)

/-- What an object instruction's answer does in its context: the draft or pin set takes its entry and the result arrives; a
pin or draft of a task that has retired, or a pin already unpinned, is released at once (R105, R315). -/
def State.finishObj (s : State) (t : Nat) (r : Req) (v w : Entry) : State :=
  let leave (i : Instr) : State :=
    s.modHru t (fun u => { u with q := u.q ++ [{ r with ins := i, b := v, eidx := 1, words := [], tag := 0 }] })
  if r.own then s.ownDone r
  else match r.ins with
  | .objPub _ _ => s.published r r.a v
  | .objOpenw _ _ =>
    if s.alive r then
      (s.modTask r.sp r.c r.tid (fun x =>
          { x with drafts := x.drafts.map (fun d => if d.2 = 2 ^ 32 + r.tag then (d.1, v.toNat) else d) })).answer r.sp r.c r.tid
        r.tag (.s v)
    else leave (.objAbandon ⟨0, false⟩)
  | .objPin _ _ =>
    let held (x : Ctx) : Bool := x.pins.any (fun p => p.v == 2 ^ 32 + r.tag)
    let kept : Bool := match s.locate r.sp r.c r.tid with
      | some p => held (s.ctx p.1 p.2)
      | none => match s.imageOf r.tid with
        | some i => held i.ctx
        | none => false
    let s1 := if kept then s.modTask r.sp r.c r.tid (fun x =>
        { x with pins := x.pins.map (fun p => if p.v = 2 ^ 32 + r.tag then { p with v := v.toNat } else p) })
      else leave (.objUnpin ⟨0, false⟩)
    (s1.modTask r.sp r.c r.tid (fun x => x.performed r.tag)).answer r.sp r.c r.tid r.tag (.s v)
  | .objVer _ _ _ => s.answer r.sp r.c r.tid r.tag (.s v)
  | .objDesc _ _ _ => s.answer r.sp r.c r.tid r.tag (.s v)
  | .waitv _ => s.finishReq t r v w
  | _ => s

/-- The instruction opens or joins a draft. -/
def isOpenw : Instr → Bool
  | .objOpenw _ _ => true
  | _ => false

/-- The publish's answer comes with `publishComplete`, not with the request. -/
def publishes : Instr → Bool
  | .objPub _ _ => true
  | _ => false

/-- Requests of this package for itself, in the system space, to the backing objects of h (R93). -/
def State.follow (s : State) (i : Instr) (h b : Entry) (prims : List Entry) : State :=
  prims.foldl (fun s p =>
    let t := homeOf h
    let r := ownReq i t 0 p b 0 [h]
    if s.elsewhere p then s.sendObj t (hpkg p) r
    else (s.modHru (homeOf p) (fun u => { u with q := u.q ++ [r] })).later [.l2Miss (Fin.ofNat 4 (homeOf p))]) s

/-- The packages that have joined a draft are told: that it closes (1), and they answer once their writes are done; or that it is gone (2), with `b` 1
where their writes end with VERSION (R103, R104, R430). -/
def State.tellJoined (s : State) (i : Instr) (h : Entry) (o : Obj) (what : Nat) (gone : Bool) : State :=
  o.joined.foldl (fun s q =>
    s.sendObj (homeOf h) q (ownReq i (homeOf h) 0 h (if what = 1 then BitVec.ofNat 64 q else if gone then 1 else 0) what
      [0, BitVec.ofNat 64 o.cver, BitVec.ofNat 64 o.dver])) s

/-- What other packages and the backing objects are told of an object instruction that its home has performed; `o` is the object before it. -/
def State.spread (s : State) (r : Req) (o : Obj) (prims : List Entry) (v : Entry) : State :=
  match r.ins with
  | .objOpenw _ _ => if o.dver = 0 then s.follow r.ins r.a 0 prims else s
  | .objPub _ _ => (s.modHere r.a (fun x => { x with await := o.joined })).tellJoined r.ins r.a o 1 false
  | .objAbandon _ => if r.eidx = 0 then (s.follow r.ins r.a 0 o.prims).tellJoined r.ins r.a o 2 true else s
  | .objPin _ _ => s.follow r.ins r.a v prims
  | .objUnpin _ => if o.holds r.b.toNat then s.follow r.ins r.a r.b prims else s
  | _ => s

/-- What the home of a draft tells this package, whose contexts have joined it (R103, R104), a subscription's arrival (R316), and another package's
TINV (R95). -/
def State.told (s : State) (r : Req) : State :=
  let ack (s : State) : State := s.respond (r.sp - 128) 9 r.a r.tag r.slot [0, 0, 0]
  match r.ins with
  | .objPub _ _ => { s with fresh := s.fresh + 1, closings := s.closings ++ [⟨s.fresh, r, false⟩] }
  | .tinv _ _ _ _ =>
    let page := wordPage (r.words.getD 1 0)
    ack (if r.eidx = 0 then s.tinvDrop r.a page else s.tinvRetry r.a page)
  | .barArr _ _ => ack (s.sendArr ⟨r.eidx, 0, 0, wordAt r.words 0, r.b.toNat, 0, false⟩)
  | _ =>
    let s1 := { s with closings := s.closings.filter (fun (c : Closing) => c.r.a != r.a) }.dropDrafts r.a
    ack (if r.b = 1 then s1.abortWrites r.a ((blankObj.setCver (wordAt r.words 1)).setDver (wordAt r.words 2)) else s1)

/-- The request is such a message. -/
def Req.tells (r : Req) : Bool :=
  r.away && (match r.ins with
    | .objPub _ _ => r.eidx == 1
    | .objAbandon _ => r.eidx == 2
    | .barArr _ _ => true
    | .tinv _ _ _ _ => true
    | _ => false)

/-- The home's part: the answer to one that opens a draft waits until the drafts of its backing objects are open (R93). -/
def State.objHome (s : State) (r : Req) : State :=
  let t := homeOf r.a
  let fin (s : State) (v w : Entry) : State := s.finishObj t r v w
  match s.here r.a with
  | none => s.conclude t r (s.objServe r) fin
  | some o =>
    match s.primsOf t o with
    | .error (.held h ver sub page e) => s.holdReq t r sub h ver page e
    | .error (.askShard m k) => (s.holdQuiet t r m (2 ^ 33) k).askHru t r m 2 0 k
    | .error _ => s
    | .ok prims =>
      match s.objServe r with
      | .done s1 v w =>
        let s2 := s1.spread r o prims v
        if publishes r.ins then s2
        else if r.words.headD 0 != r.a && isOpenw r.ins && s2.following r.a then s2.holdQuiet t { r with eidx := 1, b := v } r.a (2 ^ 35) 0
        else s2.conclude t r (.done s2 v w) fin
      | a => s.conclude t r a fin

/-- An object instruction reaches its home, here or on another package. `obj.ver` of a pin still under way reads the version
it has received. -/
def State.objRequest (s : State) (t : Nat) (r : Req) : State :=
  let r := match r.ins with
    | .objVer _ _ _ => { r with words := s.latePin r r.a r.words }
    | _ => r
  if r.tells then s.told r
  else if s.elsewhere r.a && !r.away then s.sendObj t (hpkg r.a) r
  else s.objHome r

-- Publishing (R103, R106, R107)

/-- Step 4: the draft becomes the current version; the old one stays while it is pinned. -/
def Obj.advance (o : Obj) : Obj :=
  let old := o.cver
  let v := o.dver
  let kept : Obj :=
    if o.pinc = 0 then { o with maps := Tab.del o.maps old }
    else ({ o with retained := Tab.set o.retained old o.pinc }).setPino (o.pino + o.pinc)
  let unshared := (Tab.get kept.maps v []).map fun p => (p.1, p.2 &&& BitVec.ofNat 64 (2 ^ 64 - 1 - 2 ^ 59))
  let o1 := (((kept.setPinc 0).setCver v).setDver 0).setWrj 0
  { (o1.setW 6 (wordAt o.w 7)).setW 7 0 with
    maps := Tab.set kept.maps v unshared
    closing := none
    publisher := none
    joined := []
    await := []
    prims := []
    taken := [] }

/-- Step 5: one completion for a subscription; it acts for the home, in the system space (DEDUCED, log 25). -/
def State.subSignal (s : State) (t : Nat) (h : Entry) (x : Sub) : State :=
  if x.tk = 1 then
    if x.pk = s.cfg.pkn then s.sendArr ⟨x.sp, 0, 0, x.tix, x.bytes, 0, false⟩
    else s.sendObj t x.pk (ownReq (.barArr ⟨⟨0, false⟩, ⟨0, false⟩⟩ 0) t 0 h (BitVec.ofNat 64 x.bytes) x.sp [BitVec.ofNat 64 x.tix])
  else
    let q : Req := ⟨.cntAdd ⟨⟨0, false⟩, ⟨0, false⟩⟩ .rlx 0, 0, 8, 0, 0, 0, 3, 0, x.th, 1, x.tix, [], 0⟩
    if s.elsewhere x.th then s.sendLive t q h true
    else match s.liveServe t false q with
      | .done s1 _ _ => s1
      | _ => s

/-- The writes of a draft that this package has issued before the closing instant `n` are done (DEDUCED, log 41). -/
def State.publishReady (s : State) (h : Entry) (n : Nat) : Bool :=
  !(s.draftWriters h).any (fun r => decide (r.tag < n)) && !(s.draftDrains h).any (fun m => decide (m < n))

/-- A draft that another package has closed: it is answered once this package's writes are done (R103). -/
def State.closeAway (s : State) (h : Entry) : State :=
  match s.closings.find? (fun c => c.r.a == h && !c.answered) with
  | none => s
  | some c =>
    if s.publishReady h c.num then
      { s with closings := s.closings.map (fun (x : Closing) => if x.num = c.num then { x with answered := true } else x) }.respond (c.r.sp - 128) 9 h
        c.r.tag c.r.slot [0, 0, 0]
    else s

/-- Step 4 and 5 of R103. -/
def State.publishNow (s : State) (h : Entry) (o : Obj) : State :=
  let v := BitVec.ofNat 64 o.dver
  let s1 := ((s.setObj (honum h) o.advance).dropDrafts h).tellJoined (.objAbandon ⟨0, false⟩) h o 2 false
  let s2 := match o.publisher with
    | none => s1
    | some r => if r.away then s1.respond (r.sp - 128) 9 h r.tag r.slot [0, v, 0] else if r.own then s1.ownDone r else s1.published r h v
  o.subs.foldl (fun s x => s.subSignal (homeOf h) h x) s2

/-- `publishComplete`: once every earlier write of the draft has completed, on every package, dirty sectors written back, and its backing objects
have published (R93), CVER advances in one step, the publisher's wait ends with the new CVER, and each subscription is signalled (R103). -/
def execPublishComplete (h : Entry) (s : State) : Out :=
  .next (match s.here h with
    | none => s.closeAway h
    | some o =>
      match o.closing with
      | none => s
      | some n =>
        if !s.publishReady h n || !o.await.isEmpty then s
        else
          let mine (_ _ : Nat) (l : CLine) : Bool := l.h == h && l.ver == o.dver
          let s1 := s.flush mine
          if s1.dirtyLeft mine then s1
          else if !o.prims.isEmpty then (s1.modHere h (fun x => { x with prims := [] })).follow (.objPub 0 ⟨0, false⟩) h 0 o.prims
          else if s1.following h then s1
          else s1.publishNow h o)

/-- Publishes in progress, for the end of each sc. -/
def State.publishing (s : State) : List Instr :=
  (s.objs.filterMap fun p =>
    if p.2.closing.isSome then
      some (.publishComplete (BitVec.ofNat 64 (s.cfg.pkn * 2 ^ 56 + (p.1 - s.otBase) * 2 ^ 24 + p.2.gen)))
    else none) ++ (s.closings.filter (fun c => !c.answered)).map (fun c => .publishComplete c.r.a)

-- HRU commands (R115, Table 03-8)

/-- The hardware's fields of an entry's words: CVER, DVER, PINC, PINO, DMAP, WRJ, NSUB (DEDUCED, log 91). -/
def hwWords (old new : List Entry) : List Entry :=
  let o := wordAt old
  (List.range 16).map fun k =>
    if k = 4 ∨ k = 5 ∨ k = 7 then old.getD k 0
    else if k = 13 then BitVec.ofNat 64 (bits (o 13) 40 24 * 2 ^ 40 + bits (wordAt new 13) 0 40)
    else new.getD k 0

/-- `otew`: an entry's object-manager fields are written, its hardware fields stay; for an entry that was free, a versioned
object starts at version 1 with every page zero (R79, R100). Every HRU of the package drops it. An
OSID outside the grant set, before or after, refuses the command (R380) (DEDUCED, log 63) (DESIGN CHOICE, log 83) (DEDUCED, log 91). -/
def execOtew (t : Fin 4) (onum : Nat) (words : List Entry) (rights : List (Nat × Nat)) (s : State) : Out :=
  let lg := (s.hru t).otlog
  let osid (w : List Entry) : Nat := ({ blankObj with w := w }).osid
  let heldBefore := match s.obj onum with
    | some o => o.cls == 0 || s.granted o.osid
    | none => true
  if onum = 0 ∨ lg < 16 ∨ 26 < lg ∨ 2 ^ lg ≤ onum ∨ !heldBefore ∨ !s.granted (osid words) then .next (s.took t false)
  else
    let fresh (o : Obj) : Bool := o.cls == 0
    let old := (s.obj onum).getD blankObj
    let new : Obj :=
      if fresh old || old.gen != ({ old with w := words } : Obj).gen then
        let o : Obj := { blankObj with w := hwWords blankObj.w words, rights := rights }
        if o.cls = 1 then o.setCver 1 else o
      else { old with w := hwWords old.w words, rights := rights }
    let s1 := s.setObj onum new
    let drop (x : Tower) : Tower :=
      { x with hru := x.hru.forget (fun h v _ => honum h == onum && hpkg h == s.cfg.pkn && decide (2 ^ 32 ≤ v)) }
    .next (({ s1 with towers := s1.towers.map (fun (p : Nat × Tower) => (p.1, drop p.2)) }).took t true)

/-- A page map entry that PMU accepts: a state of Table 03-7, no reserved bit, RL only with remote, a frame that exists. -/
def pageEntryOk (e : Entry) : Bool :=
  let w := e.toNat
  decide (peST e ≤ 5) && bits w 56 2 == 0 && bits w 24 24 == 0 && (peST e == 3 || (!peRL e && pePKG e == 0))
    && (!(peST e == 1 || (peST e == 3 && !peRL e)) || decide (peFRAME e < 2 ^ 23))

/-- `pmu`: one page map entry is written; this HRU drops it and retries the accesses it holds for that page (R427). Version 0
names the draft. SH is the hardware's. -/
def execPmu (t : Fin 4) (h : Entry) (ver page : Nat) (e : Entry) (s : State) : Out :=
  .next (match s.here h with
    | none => s.took t false
    | some o =>
      let v := if o.live then 0 else if ver = 0 then o.dver else ver
      if !s.granted o.osid || !pageEntryOk e || decide (o.pages ≤ page) || (o.live && (ver != 0 || !(peST e == 0 || peST e == 1 || peST e == 4)))
          || (!o.live && v != o.dver && !o.holds v) || (!o.live && v == 0) then s.took t false
      else
        let sh := BitVec.ofNat 64 (2 ^ 59)
        let e1 := (e &&& ~~~sh) ||| (o.page v page &&& sh)
        let s1 := (s.setObj (honum h) (o.setPage v page e1)).modHru t (fun u =>
          u.forget (fun x w p => x == h && w == v && p == page))
        (s1.retryHeld t (fun x w p => x == h && p == page && (w == v || w == ver))).took t true)

/-- `tinv`: cached translations are dropped in every HRU of the package, and the accesses held for the pages are retried
(R427); with the domain flag the other packages' HRUs do the same, and the command is done when all have acknowledged (R95). -/
def execTinv (t : Fin 4) (h : Entry) (page : Option Nat) (dom : Bool) (s : State) : Out :=
  let s1 := s.tinvDrop h page
  .next (if dom && !s.others.isEmpty then (s1.modHru t (fun u => { u with acks := s.others })).tellTinv t h page 0
    else s1.tinvDone t h page false)

/-- `purge`: the lines of every L1 and L2 of the package that match are dropped, dirty ones written back first, and what its HRUs hold of the object's
entry (R86, R97); a space, or an object's owner, outside the grant set refuses it (R380). -/
def execPurge (t : Fin 4) (sid : Option Nat) (h : Entry) (s : State) : Out :=
  let ok := match sid with
    | some n => s.granted n
    | none => match s.here h with
      | some o => s.granted o.osid
      | none => true
  .next (if ok then
      ([0, 1, 2, 3].foldl (fun s k => s.modHru k (fun u => u.forget (fun x v _ => x == h && decide (2 ^ 32 ≤ v)))) (s.purge sid h)).took t true
    else s.took t false)

/-- `fpool`: frames join the tower's shadow pool; held draft writes are retried (R102, R427). A frame number beyond R90 is a malformed operand. -/
def execFpool (t : Fin 4) (frames : List Nat) (s : State) : Out :=
  .next (if frames.isEmpty || decide (4096 < frames.length) || frames.any (fun f => decide (2 ^ 23 ≤ f)) then s.took t false
    else ((s.modHru t (fun u => { u with pool := u.pool ++ frames })).retryHeld t (fun x v _ => x == 0 && v == 4)).took t true)

/-- `cpool`: entries join the continuation pool under the next indices; held registrations are retried (R311, R427). -/
def execCpool (t : Fin 4) (count : Nat) (s : State) : Out :=
  .next (if count = 0 ∨ 4096 < count then s.took t false
    else
      ((s.modHru t (fun u => { u with
          cpool := u.cpool ++ (List.range count).map (u.cnext + ·)
          cnext := u.cnext + count })).retryHeld t (fun x v _ => x == 0 && v == 5)).took t true)

end Sys2Proof.Machine
end

