-- ==== Sys2Proof/Machine/Rows.lean ====
section
/-! DEFINITION. Machine/Rows.lean: row operations (R323 to R325, R329 to R337, R443): the HRU's checks, the path class of a row,
the row steps of Table 12-1 in a subarray, the fallback path, the end of an operation, and what ordinary accesses and
refresh do to a bank. -/

namespace Sys2Proof.Machine

-- The record (Table 11-10) as a request carries it

def rowOpOf : Instr → RowOp
  | .drOp _ _ op => op
  | _ => .copy
def rowFast : Instr → Bool
  | .drOp _ f _ => f
  | _ => false

def Req.rowDst (r : Req) : Entry := r.words.getD 0 0
/-- Destination row and source row k of row j of the operation. -/
def Req.dstRow (r : Req) (j : Nat) : Nat := bits (wordAt r.words 1) 0 32 + r.b.toNat + j
def Req.srcRow (r : Req) (k j : Nat) : Nat := bits (wordAt r.words (3 + 2 * k)) 0 32 + r.b.toNat + j
def Req.rowSrc (r : Req) (k : Nat) : Entry := r.words.getD (2 + 2 * k) 0
def Req.rowDs (r : Req) (k : Nat) : Bool := bit (wordAt r.words (3 + 2 * k)) 32
def Req.nrow (r : Req) : Nat := bits (wordAt r.words 8) 0 17
def Req.fillOnes (r : Req) : Bool := bit (wordAt r.words 8) 32
/-- Captures made at issue: the draft entry of DST, pin and draft entry of source k, the allocation base. -/
def Req.dstCap (r : Req) : List Entry := (r.words.drop 16).take 2
def Req.srcPin (r : Req) (k : Nat) : List Entry := (r.words.drop (18 + 4 * k)).take 2
def Req.srcDraft (r : Req) (k : Nat) : List Entry := (r.words.drop (20 + 4 * k)).take 2
def Req.rowTsb (r : Req) : Nat := wordAt r.words 30
/-- Numbers of the sources in use. -/
def Req.rowSrcs (r : Req) : List Nat := List.range (rowUses (rowOpOf r.ins))

-- Checks (R325)

/-- A draft-set entry that an operation writes or reads through: held, and its draft still open. -/
def State.draftCheck (s : State) (r : Req) (h : Entry) (o : Obj) (cap : List Entry) (write : Bool) : Check :=
  if cap.headD 0 = 0 then .fail (o.verCause 1 3 h [])
  else if o.live || s.elsewhere h then .fine
  else if o.dver ≠ wordAt cap 1 then .fail (o.verCause 4 3 h [])
  else match o.closing with
    | some n => if write ∧ n ≤ r.tag then .fail (o.verCause 4 3 h []) else .fine
    | none => .fine

/-- The objects of a row operation, DST first: number, handle, whether it is written. -/
def Req.rowObjs (r : Req) : List (Nat × Entry) := (0, r.rowDst) :: r.rowSrcs.map (fun k => (k + 1, r.rowSrc k))

/-- R325, in its order; no row is activated before (DEDUCED, log 36). -/
def State.rowCheck (s : State) (t : Nat) (r : Req) : Check :=
  let each (f : Nat → Entry → Obj → Check) : List Check := r.rowObjs.map fun p =>
    match s.objFor t r.sid 3 p.2 with
    | .error k => .fail k
    | .ok none => .ask (.askObj p.2)
    | .ok (some o) => f p.1 p.2 o
  let found := each fun _ _ _ => .fine
  let version := each fun k h o =>
    if k = 0 then s.draftCheck r h o r.dstCap true
    else if r.rowDs (k - 1) then s.draftCheck r h o (r.srcDraft (k - 1)) false
    else if (r.srcPin (k - 1)).headD 0 = 1 then .fine else .fail (o.verCause 8 3 h [])
  let layout := each fun k h o => if o.live || !o.raln || decide (8192 < o.fmt.width) then .fail (causeO 8 8 3 h 0 [(0x40, 1, k)]) else .fine
  let bounds := each fun k h o =>
    let first := if k = 0 then r.dstRow 0 else r.srcRow (k - 1) 0
    if o.pages * 64 < first + r.nrow then .fail (ixCause 3 h (BitVec.ofNat 64 first) 0 0) else .fine
  let rights := each fun k h o =>
    match o.checkRights 3 r.sid (needs (rRO ||| (if k = 0 then rWR else rRD)) (s.elsewhere h)) h with
    | .error c => .fail c
    | .ok _ => .fine
  match firstBad (found ++ version ++ layout ++ bounds ++ rights) with
  | .fine => s.targetAsk t r (bits (wordAt r.words 9) 62 2) (r.words.getD 10 0) (bits (wordAt r.words 9) 0 32)
  | x => x

/-- The HRU takes a row operation; one that waited for a page goes on with its row. -/
def State.serveDrOp (s : State) (t : Nat) (r : Req) : State :=
  if s.rows.any (fun a => a.id == r.tag) then s.later [.rowOpRow r.tag]
  else
    let src (k : Nat) : List Entry := s.latePin r (r.rowSrc k) (r.srcPin k) ++ s.lateDraft r (r.rowSrc k) (r.srcDraft k)
    let r := { r with words := r.words.take 16 ++ s.lateDraft r r.rowDst r.dstCap ++ src 0 ++ src 1 ++ src 2 ++ r.words.drop 30 }
    match s.rowCheck t r with
    | .fail k => s.failReq r k
    | .ask p => s.waitSpot t r p
    | .fine =>
      let a : RowRun :=
        { id := r.tag, r := r, tsb := r.rowTsb
          srcVers := r.rowSrcs.map (fun k => wordAt (if r.rowDs k then r.srcDraft k else r.srcPin k) 1)
          dstVer := wordAt r.dstCap 1, row := 0, step := 0, cls := none, k0 := [], k1 := [], k2 := [], d0 := [], na := 0, nb := 0, nf := 0
          np := false, fin := false, buf := [] }
      { s with rows := s.rows ++ [a] }.later [.rowOpRow r.tag]

-- Where a row is

/-- The object of this package or another that holds a row of a version, and the row's first byte (R88, R94). -/
def State.rowSpot (s : State) (t sid : Nat) (h : Entry) (ver row : Nat) (write : Bool) : Entry × Spot :=
  match s.objFor t sid 3 h with
  | .error _ => (h, .beyond)
  | .ok none => (h, .askObj h)
  | .ok (some o) =>
    match (if o.sdim = 7 then s.backing t h o ver [] write else .ok (h, [])) with
    | .error p => (h, p)
    | .ok (b, _) =>
      match (if b = h then some o else if s.elsewhere b then s.remoteObj t sid b else s.here b) with
      | some p => (b, if write then s.writeSpot b p ver (1024 * row) else s.byteSpot t b p ver (1024 * row))
      | none => (b, .askObj b)

/-- The HBM frame with IL = 0 that holds a row, if such a frame holds it. -/
def State.rowFrame (s : State) (b : Entry) (ver row : Nat) : Option Nat :=
  match s.here b with
  | some o =>
    let e := o.page ver (row / 64)
    if peST e = 1 ∧ !peIL e then some (peFRAME e) else none
  | none => none

/-- The path class of a row (R331): 0 A, 1 B, 2 F; `srcs` leaves out sources in zero pages. -/
def pathClass (dst : Option Nat) (srcs : List (Option Nat)) : Nat :=
  match dst with
  | none => 2
  | some d =>
    if srcs.all (fun f => f.map (· / 16) == some (d / 16)) then 0
    else if srcs.all (fun f => f.map (· / 1024) == some (d / 1024)) then 1
    else 2

/-- The 1,024 bytes of a row. -/
def rowBytes (m : List Host.Cell) (a : Nat) : List Byte := (dense m a 1024).toList

/-- A row written whole; its poison goes (R442). -/
def State.putRow (s : State) (a : Nat) (y : List Byte) : State :=
  let v := y.toArray
  { s with
    mem := putRange s.mem a 1024 (fun k => v.getD k 0)
    poison := s.poison.filter (fun w => !(decide (a ≤ w) && decide (w < a + 1024))) }
/-- Every word of a row poisoned (R443). -/
def State.poisonRow (s : State) (a : Nat) : State :=
  { s with poison := s.poison.filter (fun w => !(decide (a ≤ w) && decide (w < a + 1024))) ++ (List.range 128).map (fun k => a + 8 * k) }
def State.rowPoisoned (s : State) (a : Nat) : Bool := s.poison.any (fun w => decide (a ≤ w) && decide (w < a + 1024))

-- The steps (Table 12-1)

/-- A row step: an activation of the first row followed by one of the second, or the triple activation. -/
inductive RowStep
  | srcK (x k : Nat)
  | constK (ones : Bool) (k : Nat)
  | triple
  | k0d0
  | nd0k1
  | srcD0
  | srcDst
  | constDst
  | nd0Dst
  | k0Dst
deriving DecidableEq, Repr

/-- Table 12-1. -/
def rowSteps : RowOp → List RowStep
  | .copy => [.srcDst]
  | .fill => [.constDst]
  | .not => [.srcD0, .nd0Dst]
  | .and => [.srcK 0 0, .srcK 1 1, .constK false 2, .triple, .k0Dst]
  | .or => [.srcK 0 0, .srcK 1 1, .constK true 2, .triple, .k0Dst]
  | .maj => [.srcK 0 0, .srcK 1 1, .srcK 2 2, .triple, .k0Dst]
  | .xor => [.srcK 0 0, .srcK 1 1, .constK false 2, .triple, .k0d0, .srcK 0 0, .srcK 1 1, .constK true 2, .triple, .nd0k1,
      .constK false 2, .triple, .k0Dst]

/-- Bitwise majority of three rows. -/
def maj3 (a b c : List Byte) : List Byte := List.zipWith (fun x p => (x &&& p.1) ||| (x &&& p.2) ||| (p.1 &&& p.2)) a (b.zip c)
def notRow (a : List Byte) : List Byte := a.map (~~~ ·)
def constRow (ones : Bool) : List Byte := List.replicate 1024 (if ones then 0xFF else 0)

/-- The byte string of R324. -/
def rowResult (op : RowOp) (fill : Bool) (x : Nat → List Byte) : List Byte :=
  match op with
  | .copy => x 0
  | .fill => constRow fill
  | .and => List.zipWith (· &&& ·) (x 0) (x 1)
  | .or => List.zipWith (· ||| ·) (x 0) (x 1)
  | .xor => List.zipWith (· ^^^ ·) (x 0) (x 1)
  | .not => notRow (x 0)
  | .maj => maj3 (x 0) (x 1) (x 2)

/-- One step on the reserved rows; the answer beside them is what is written to the destination row, if anything. -/
def RowRun.stepOn (a : RowRun) (x : Nat → List Byte) (st : RowStep) : RowRun × Option (List Byte) :=
  let setK (k : Nat) (v : List Byte) : RowRun := if k = 0 then { a with k0 := v } else if k = 1 then { a with k1 := v } else { a with k2 := v }
  match st with
  | .srcK j k => (setK k (x j), none)
  | .constK ones k => (setK k (constRow ones), none)
  | .triple => let m := maj3 a.k0 a.k1 a.k2; ({ a with k0 := m, k1 := m, k2 := m }, none)
  | .k0d0 => ({ a with d0 := a.k0 }, none)
  | .nd0k1 => ({ a with k1 := notRow a.d0 }, none)
  | .srcD0 => ({ a with d0 := x 0 }, none)
  | .srcDst => (a, some (x 0))
  | .constDst => (a, some (constRow a.r.fillOnes))
  | .nd0Dst => (a, some (notRow a.d0))
  | .k0Dst => (a, some a.k0)

-- The run of an operation

def State.modRow (s : State) (a : RowRun) : State := { s with rows := s.rows.map (fun b => if b.id = a.id then a else b) }
def State.rowRun (s : State) (id : Nat) : Option RowRun := s.rows.find? (fun a => a.id == id)

/-- The source rows in use, of the row under way: the object that holds each, its version, row and spot. -/
def State.rowSources (s : State) (t : Nat) (a : RowRun) : List (Entry × Nat × Nat × Spot) :=
  a.r.rowSrcs.map fun k =>
    let v := a.srcVers.getD k 0
    let row := a.r.srcRow k a.row
    let p := s.rowSpot t a.r.sid (a.r.rowSrc k) v row false
    (p.1, v, row, p.2)

/-- A source row that the subarray or the engine reads here: DRAM, or the constant zeros for a zero page. -/
def State.spotRow (s : State) (p : Spot) : List Byte :=
  match p with
  | .mem m => rowBytes s.mem m
  | _ => constRow false

/-- The bank of a frame, as the tables of busy banks and pending accesses name it (R90). -/
def bankAt (f : Nat) : Nat × Nat := (f / 2 ^ 14 % 512, f / 1024 % 16)

/-- Ordinary accesses that nothing delays any more are served: no row operation holds their bank, and no run their pseudo-channel (R337, R343). -/
def State.serveIdle (s : State) : State :=
  { s with access := s.access.filter (fun p => s.rowBusy.any (fun q => q.1 == p.1 && q.2.1 == p.2) || (s.nbu p.1).cur.isSome) }

/-- R334, before a row: in the L2s of the issuing tower the dirty bytes of a draft that is read are written back, those of the destination row discarded. -/
def State.rowDuties (s : State) (t : Nat) (src : List (Entry × Nat × Nat)) (dst : Entry) (dver drow : Nat) : State :=
  (s.flush (fun tw _ l => tw == t && src.any (fun p => p.1 == l.h && p.2.1 == l.ver && p.2.2 == l.ix))).discard dst dver
    (fun tw off => tw == t && off / 1024 == drow)

/-- The row is over: it is counted under its class, and the next one or the end follows (R333) (DESIGN CHOICE, log 66). -/
def State.rowEnds (s : State) (a : RowRun) (cls : Nat) : State :=
  let b := { a with
    row := a.row + 1
    step := 0
    cls := none
    buf := []
    na := a.na + (if cls = 0 then 1 else 0)
    nb := a.nb + (if cls = 1 then 1 else 0)
    nf := a.nf + (if cls = 2 then 1 else 0) }
  (((s.modRow b).leaveBank a.id).serveIdle).later [if b.row < a.r.nrow then .rowOpRow a.id else .rowOpDone a.id]

/-- A record that freezes nothing: DEF = 1, FRZ = 0, with the context's task where it still runs (R434, R443). -/
def State.noteReq (s : State) (r : Req) (k : Cause) : State :=
  match s.locate r.sp r.c r.tid with
  | some (n, j) => s.post n (s.recordOf n j (s.ctx n j) k true false false true r.off (s.ctx n j).pc)
  | none => s.post r.sp { s.recordOf r.sp r.c .reset k true false false true r.off 0 with tid := r.tid }

/-- A request held for a spot that is not ready. -/
def Spot.waits : Spot → Bool
  | .held _ _ _ _ _ => true
  | .askObj _ => true
  | .askPage _ _ _ => true
  | .askShard _ _ => true
  | _ => false

/-- One 1,024-byte commit of a row toward the package of its frame (R335): its bytes, or with none the poison of R443; the row is over when it is
acknowledged (R333). -/
def State.sendRow (s : State) (t : Nat) (a : RowRun) (q : Nat) (h : Entry) (ver off : Nat) (y : List Byte) : State :=
  (s.modRow { a with cls := some 3 }).sendItem t q 3 { XferHdr.zero with obj := h, ver := ver, off := off, opc := if y.isEmpty then 2 else 1 }
    (if y.isEmpty then [[]] else chunks 192 6 y) true (some a.id) (some a.r) 1024

/-- `rowOpRow`: the next row is classed (R331) once its pages are here and the destination page is private (R102); it takes its bank in
turn (R336), goes to the copy engine, or under `.fast` is left. A poisoned source row is not computed (R443). -/
def execRowOpRow (op : Nat) (s : State) : Out :=
  .next (match s.rowRun op with
    | none => s
    | some a =>
      let t := towerOf a.r.sp
      let dst := s.rowSpot t a.r.sid a.r.rowDst a.dstVer (a.r.dstRow a.row) true
      let s := s.rowDuties t (((s.rowSources t a).zip a.r.rowSrcs).filterMap (fun p => if a.r.rowDs p.2 then some (p.1.1, p.1.2.1, p.1.2.2.1) else none))
        dst.1 a.dstVer (a.r.dstRow a.row)
      let src := s.rowSources t a
      match (src.map (·.2.2.2)).find? Spot.waits with
      | some p => (s.leaveBank op).waitSpot t a.r p
      | none =>
        if s.earlierDraft a.r.rowDst a.r.tid a.r.tag then s.later [.rowOpRow op]
        else match (if s.elsewhere dst.1 then .go s else s.readyPage t a.r dst.1 a.dstVer (1024 * a.r.dstRow a.row)) with
        | .pool => (s.leaveBank op).holdPool t a.r 4 t
        | .wait s1 => s1.leaveBank op
        | .go s1 =>
          let dst := s1.rowSpot t a.r.sid a.r.rowDst a.dstVer (a.r.dstRow a.row) true
          if dst.2.waits then (s1.leaveBank op).waitSpot t a.r dst.2
          else
          let f := s1.rowFrame dst.1 a.dstVer (a.r.dstRow a.row)
          let cls := pathClass f ((src.filter (fun p => p.2.2.2 != .zero)).map (fun p => s1.rowFrame p.1 p.2.1 p.2.2.1))
          let skip := cls == 2 && rowFast a.r.ins
          let bad := src.find? (fun p => match p.2.2.2 with
            | .mem m => s1.rowPoisoned m
            | _ => false)
          match bad with
          | some p =>
            let s2 := s1.noteReq a.r (causeO 13 3 3 p.1 p.2.1 [(0x40, 8, p.2.2.1), (0x48, 8, p.1.toNat)])
            if skip then s2.rowEnds { a with np := true } cls
            else match dst.2 with
              | .mem m => (s2.poisonRow m).rowEnds a cls
              | .remote q h ver off => s2.sendRow t a q h ver off []
              | _ => s2.rowEnds a cls
          | none =>
            if cls = 2 then
              if skip then s1.rowEnds { a with np := true } 2
              else (s1.modRow { a with cls := some 2 }).later [.fallbackRow op]
            else
              let b := bankAt (f.getD 0)
              let here := s1.rowBusy.any (fun q => q.1 == b.1 && q.2.1 == b.2 && q.2.2.1 == op)
              let s2 := if here then s1 else
                let s2 := s1.leaveBank op
                { s2 with fresh := s2.fresh + 1, rowBusy := s2.rowBusy ++ [(b.1, b.2, op, s2.fresh)] }
              if (s2.rowBusy.find? (fun q => q.1 == b.1 && q.2.1 == b.2)).map (·.2.2.1) = some op then
                (s2.modRow { a with cls := some cls, step := 0 }).later [.rowStep op]
              else s2)

/-- A microinstruction that is a row step (64 nc, R343), with the offset of its row. -/
def rowStepImm : Instr → Option Nat
  | .ldr _ _ i => some i
  | .sadd _ _ _ i => some i
  | .mulr _ _ _ i => some i
  | .minr _ _ i => some i
  | .maxr _ _ i => some i
  | .wb _ _ _ i => some i
  | _ => none
def isRowStep (i : Instr) : Bool := (rowStepImm i).isSome

/-- Row RC + IMM, if it lies in the run's page (R340). -/
def microRow (u : Nbu) (q : NReq) (imm : Nat) : Option Nat :=
  let row : Int := (u.rc : Int) + sextN 32 imm
  if 0 ≤ row ∧ row.toNat / 64 = q.row / 64 then some row.toNat else none

/-- The row step that NBU n has come to: when its request arrived, and the bank of its row (R343). -/
def State.nbuStepAt (s : State) (n : Nat) : Option (Nat × Nat) :=
  let u := s.nbu n
  match u.cur, decodeMicro (Tab.get u.ms u.mpc 0).toNat with
  | some q, .ok i =>
    if u.suspended then none
    else match (rowStepImm i).bind (microRow u q) with
      | some row => (s.rowFrame q.h q.ver row).map (fun f => (q.arr, (bankAt f).2))
      | none => none
  | _, _ => none

/-- `rowStep`: one step of the row under way; an ordinary access that is pending on the bank is served before it, and the row step of a run that
arrived earlier (R329, R337, R343). -/
def execRowStep (op : Nat) (s : State) : Out :=
  .next (match s.rowRun op, s.rowBusy.find? (fun q => q.2.2.1 == op) with
    | some a, some b =>
      if s.access.contains (b.1, b.2.1) then { s with access := s.access.erase (b.1, b.2.1) }.soon [.rowStep op]
      else if (match s.nbuStepAt b.1 with
        | some (arr, bank) => bank == b.2.1 && decide (arr < b.2.2.2)
        | none => false) then s.later [.rowStep op]
      else
        let t := towerOf a.r.sp
        let rows := (s.rowSources t a).map (fun p => s.spotRow p.2.2.2)
        match (rowSteps (rowOpOf a.r.ins))[a.step]? with
        | none => s.rowEnds a (a.cls.getD 0)
        | some st =>
          let p := a.stepOn (fun k => rows.getD k []) st
          match p.2 with
          | none => (s.modRow { p.1 with step := a.step + 1 }).later [.rowStep op]
          | some y =>
            match (s.rowSpot t a.r.sid a.r.rowDst a.dstVer (a.r.dstRow a.row) true).2 with
            | .mem m => (s.putRow m y).rowEnds p.1 (a.cls.getD 0)
            | _ => s.rowEnds p.1 (a.cls.getD 0)
    | _, _ => s)

/-- `ordinaryAccess`: an ordinary access arrives at a bank that a row operation holds, or at a pseudo-channel whose NBU runs: it waits for the next
step boundary, where it is served; any other is served at once (R337, R338, R343). -/
def execOrdinaryAccess (pc : Fin 512) (bank : Fin 16) (s : State) : Out :=
  let busy := s.rowBusy.any (fun q => q.1 == pc.val && q.2.1 == bank.val) || (s.nbu pc).cur.isSome
  .next (if busy then { s with access := s.access ++ [(pc.val, bank.val)] } else s)

/-- `refresh`: the base die refreshes a bank between steps. The cells keep their values, and no work goes on during the event
(R23). -/
def execRefresh (_pc : Fin 512) (_bank : Fin 16) (s : State) : Out := .next s

/-- Sectors of remote source rows that have not been asked for, as (package, object, version, offset). -/
def RowRun.missing (a : RowRun) (src : List (Entry × Nat × Nat × Spot)) : List (Nat × Entry × Nat × Nat) :=
  src.flatMap fun p => match p.2.2.2 with
    | .remote q h ver off => (List.range 4).filterMap fun k =>
        if (List.range 256).all (fun j => a.buf.any (fun b => b.1 == h && b.2.1 == off + 256 * k + j)) then none
        else some (q, h, ver, off + 256 * k)
    | _ => []

/-- `fallbackRow`: the copy engine complex reads the source rows from wherever they lie and commits the row (R335) (DEDUCED, log 64). -/
def execFallbackRow (op : Nat) (s : State) : Out :=
  .next (match s.rowRun op with
    | none => s
    | some a =>
      let t := towerOf a.r.sp
      let src := s.rowSources t a
      let dst := s.rowSpot t a.r.sid a.r.rowDst a.dstVer (a.r.dstRow a.row) true
      match (src.map (·.2.2.2) ++ [dst.2]).find? Spot.waits with
      | some p => s.waitSpot t a.r p
      | none =>
        let miss := a.missing src
        if !miss.isEmpty then
          miss.foldl (fun s m =>
            if s.fab.items.any (fun i => i.op == some op && i.flits.any (fun f => f.x.obj == m.2.1 && f.x.off == m.2.2.2)) then s
            else s.sendItem t m.1 1 { XferHdr.zero with obj := m.2.1, ver := m.2.2.1, off := m.2.2.2 } [[]] false (some op) (some a.r) 0) s
        else
          let row (p : Spot) : List Byte := match p with
            | .remote _ h _ off => (List.range 1024).map fun j => ((a.buf.find? (fun b => b.1 == h && b.2.1 == off + j)).map (·.2.2)).getD 0
            | p => s.spotRow p
          let rows := src.map (fun p => row p.2.2.2)
          let y := rowResult (rowOpOf a.r.ins) a.r.fillOnes (fun k => rows.getD k [])
          match dst.2 with
          | .mem m => (s.putRow m y).rowEnds a 2
          | .remote q h ver off => s.sendRow t a q h ver off y
          | _ => s.rowEnds a 2)

/-- A word of a record in the issuing tile store, written under mode 0. -/
def State.recordWord (s : State) (r : Req) (tsb off v : Nat) : State :=
  s.modStore r.sp r.c r.tid tsb (fun x base =>
    let w := ((List.range 8).zip (leBytes v 8)).map (fun p => (physTs base 0 (off + p.1), p.2))
    x.putBytes w (tagsOf 0 (w.map (·.1))))

/-- `rowOpDone`: once every commit has been acknowledged, STAT is written, then the target is signalled (R324). -/
def execRowOpDone (op : Nat) (s : State) : Out :=
  .next (match s.rowRun op with
    | none => s
    | some a =>
      let t := towerOf a.r.sp
      if !s.quiet op then s.modRow { a with fin := true }
      else
        let w := wordAt a.r.words
        let stat := (if a.np then 2 ^ 51 else 0) + a.nf * 2 ^ 34 + a.nb * 2 ^ 17 + a.na
        let s1 := { s with rows := s.rows.filter (fun b => b.id != op) }.recordWord a.r a.tsb (a.r.a.toNat + 0x58) stat
        (s1.signal t a.r a.tsb (bits (w 9) 62 2) (bits (w 9) 0 32) (a.r.words.getD 10 0) (bits (w 9) 0 32) (1024 * a.r.nrow) op).signalEnd
          t a.r (bits (w 9) 62 2) (a.r.words.getD 10 0) (bits (w 9) 0 32) (BitVec.ofNat 64 stat) false)

end Sys2Proof.Machine
end

