-- ==== Sys2Proof/Machine/Nbu.lean ====
section
/-! DEFINITION. Machine/Nbu.lean: near-bank units (R326, R327, R339 to R344, R443): the HRU's checks of a near-bank instruction, the queue
of a unit, the start and the end of a request, the microinstructions of Table 12-5, suspension. -/

namespace Sys2Proof.Machine

-- The record (Table 11-11) as a request carries it

def Req.nbRow (r : Req) : Nat := bits (wordAt r.words 1) 0 32
def Req.nbF (r : Req) (lo n : Nat) : Nat := bits (wordAt r.words 12) lo n
def Req.nbTso (r : Req) : Nat := bits (wordAt r.words 13) 0 22
def Req.nbPin (r : Req) : List Entry := (r.words.drop 16).take 2
def Req.nbDraft (r : Req) : List Entry := (r.words.drop 18).take 2
def Req.nbTsb (r : Req) : Nat := wordAt r.words 20
def Req.nbImage (r : Req) : List Entry := r.words.drop 21
/-- Rights: RO, and RD or WR as used; only `nb.run` reads rows, and writes those of a draft. -/
def Req.nbRights (r : Req) : Nat := if r.eidx = 1 then rRO ||| rRD ||| (if r.nbDraft.headD 0 = 0 then 0 else rWR) else rRO

/-- The checks at the HRU, in the order of R325. -/
def State.nbCheck (s : State) (t : Nat) (r : Req) : Check :=
  match s.objFor t r.sid 3 r.a with
  | .error k => .fail k
  | .ok none => .ask (.askObj r.a)
  | .ok (some o) =>
    let version : Check := if r.nbDraft.headD 0 != 0 then s.draftCheck r r.a o r.nbDraft true
      else if r.nbPin.headD 0 = 1 then .fine else .fail (o.verCause 8 3 r.a [])
    let rest : Check :=
      if o.live || !o.raln || decide (8192 < o.fmt.width) then .fail (causeO 8 8 3 r.a 0 [(0x40, 1, 0)])
      else if o.pages * 64 ≤ r.nbRow then .fail (ixCause 3 r.a (BitVec.ofNat 64 r.nbRow) 0 0)
      else match o.checkRights 3 r.sid (needs r.nbRights (s.elsewhere r.a)) r.a with
        | .error k => .fail k
        | .ok _ => .fine
    match firstBad [version, rest] with
    | .fine => s.targetAsk t r (bits (wordAt r.words 2) 62 2) (r.words.getD 3 0) (bits (wordAt r.words 2) 0 32)
    | x => x

/-- Requests for NBU n that are held at an HRU because its queue is full, the one issued first in front (R327). -/
def State.nbHeld (s : State) (n : Nat) : List (Nat × Req) :=
  let l := [0, 1, 2, 3].flatMap fun t => ((s.hru t).miss.filter (fun q => q.1 == 0 && q.2.1 == 6 && q.2.2.1 == n)).map (fun q => (t, q.2.2.2))
  let low := (l.map (·.2.tag)).foldl min ((l.map (·.2.tag)).headD 0)
  l.filter (fun p => p.2.tag == low) ++ l.filter (fun p => p.2.tag != low)

/-- The request joins the queue of the NBU whose pseudo-channel holds its row; while eight wait there, or one is held for it already, it is held at the
HRU (R327). A page that no HBM frame with IL = 0 holds, a zero page among them, is serviced first; a shared page of a draft is made private (R340)
(DEDUCED, log 64). -/
def State.nbEnqueue (s : State) (t : Nat) (r : Req) (first : Bool) : State :=
  let draft := r.nbDraft.headD 0 != 0
  let ver := wordAt (if draft then r.nbDraft else r.nbPin) 1
  let p := s.rowSpot t r.sid r.a ver r.nbRow draft
  let page := r.nbRow / 64
  let entry (s : State) : Entry := match s.here p.1 with
    | some o => o.page ver page
    | none => 0
  let moved (s : State) : State := s.holdReq t r 3 p.1 ver page (entry s)
  if p.2.waits then s.waitSpot t r p.2
  else if p.2 = .zero then moved s
  else match (if draft ∧ !s.elsewhere p.1 then s.readyPage t r p.1 ver (1024 * r.nbRow) else .go s) with
    | .pool => s.holdPool t r 4 t
    | .wait s1 => s1
    | .go s1 =>
      match s1.rowFrame p.1 ver r.nbRow with
      | none => moved s1
      | some f =>
        let n := f / 2 ^ 14
        let u := s1.nbu n
        if 8 ≤ u.queue.length || (!first && !(s1.nbHeld n).isEmpty) then s1.holdQuiet t r 0 6 n
        else
          let q : NReq := ⟨r, p.1, ver, draft, r.nbRow, r.nbImage, r.nbTsb, s1.fresh⟩
          ((s1.setNbu n { u with queue := u.queue ++ [q] }).newId).later [.nbuRequestStart (Fin.ofNat 512 n)]

/-- A place in the queue of NBU n is free: the request held longest for it is taken (R327). -/
def State.nbAdmit (s : State) (n : Nat) : State :=
  match s.nbHeld n with
  | [] => s
  | (t, r) :: _ =>
    if 8 ≤ (s.nbu n).queue.length then s
    else (s.modHru t (fun u => { u with miss := u.miss.filter (fun q => !(q.1 == 0 && q.2.1 == 6 && q.2.2.2 == r)) })).nbEnqueue t r true

/-- The HRU takes a near-bank instruction. -/
def State.serveNb (s : State) (t : Nat) (r : Req) : State :=
  let r := { r with words := r.words.take 16 ++ s.latePin r r.a r.nbPin ++ s.lateDraft r r.a r.nbDraft ++ r.words.drop 20 }
  match s.nbCheck t r with
  | .fail k => s.failReq r k
  | .ask p => s.waitSpot t r p
  | .fine => s.nbEnqueue t r false

-- Requests of a unit

/-- A request is over: its data, then word 0x70, then the target (R327); the next one may start. -/
def State.nbEnd (s : State) (n : Nat) (q : NReq) (data : List (Nat × Byte)) (word bytes : Nat) : State :=
  let r := q.r
  let t := towerOf r.sp
  let s1 := s.setNbu n { s.nbu n with cur := none, suspended := false }
  let s2 := if data.isEmpty then s1 else s1.modStore r.sp r.c r.tid q.tsb (fun x base =>
    let w := data.map (fun p => (physTs base 0 p.1, p.2))
    x.putBytes w (tagsOf 0 (w.map (·.1))))
  let s3 := s2.recordWord r q.tsb (r.b.toNat + 0x70) word
  let w := wordAt r.words 2
  let s4 := (s3.signal t r q.tsb (bits w 62 2) (bits w 0 32) (r.words.getD 3 0) (bits w 0 32) bytes r.tag).signalEnd
    t r (bits w 62 2) (r.words.getD 3 0) (bits w 0 32) (BitVec.ofNat 64 word) false
  let s5 := s4.serveIdle
  if (s5.nbu n).queue.isEmpty then s5 else s5.later [.nbuRequestStart (Fin.ofNat 512 n)]

/-- An accumulator's 1,024 bytes. -/
def Nbu.accBytes (u : Nbu) (k : Nat) : List Byte := (List.range 256).flatMap (fun j => leBytes (Tab.get u.a (256 * k + j) 0).toNat 4)
/-- An accumulator set lane by lane. -/
def Nbu.setAcc (u : Nbu) (k : Nat) (f : Nat → BitVec 32) : Nbu :=
  { u with a := u.a.filter (fun p => !(decide (256 * k ≤ p.1) && decide (p.1 < 256 * k + 256))) ++
      (List.range 256).filterMap (fun j => if f j = 0 then none else some (256 * k + j, f j)) }
def Nbu.lane (u : Nbu) (k j : Nat) : BitVec 32 := Tab.get u.a (256 * k + j) 0

/-- Dirty L2 lines of the issuing tower that hold rows of the run's page (R340). -/
def NReq.dirtyRow (q : NReq) (row : Option Nat) (t _i : Nat) (l : CLine) : Bool :=
  t == towerOf q.r.sp && l.h == q.h && l.ver == q.ver && l.ix / 64 == q.row / 64 && (match row with
    | some n => l.ix == n
    | none => true)

/-- `nbuRequestStart`: the NBU takes its next request: an image is loaded, an accumulator copied, a run begins (R327, R339). -/
def execNbuRequestStart (n : Fin 512) (s : State) : Out :=
  let u := s.nbu n
  .next (match u.cur, u.queue with
    | none, q :: rest =>
      let r := q.r
      let u1 := { u with queue := rest }
      if q.draft && r.eidx == 1 && s.earlierDraft r.a r.tid r.tag then s.later [.nbuRequestStart n]
      else
      (if r.eidx = 0 then
        let ms := ((List.range q.image.length).zip q.image).foldl (fun m p => Tab.set m (r.nbF 0 6 + p.1) p.2) u.ms
        (s.setNbu n { u1 with ms := ms }).nbEnd n q [] 0 (8 * q.image.length)
      else if r.eidx = 2 then
        let data := ((List.range 1024).map (r.nbTso + ·)).zip (u.accBytes (r.nbF 16 4))
        (s.setNbu n (if bit (wordAt r.words 12) 20 then u1.setAcc (r.nbF 16 4) (fun _ => 0) else u1)).nbEnd n q data 0 1024
      else
        (if q.draft then s.flush (q.dirtyRow none) else s).setNbu n { u1 with
          cur := some q, suspended := false, mpc := r.nbF 0 6, rc := q.row, lct := 0, scl := 0x3F800000
          p := (r.words.drop 4).take 8 }).nbAdmit n
    | _, _ => s)

-- Microinstructions

/-- The run stops at MPC with a code of Table 12-6. -/
def State.nbStop (s : State) (n nst : Nat) : State :=
  let u := s.nbu n
  match u.cur with
  | none => s
  | some q => s.nbEnd n q [] (u.mpc * 256 + nst) 64

/-- MPC advances; past entry 63 the run stops (R341). -/
def State.nbAdvance (s : State) (n : Nat) (u : Nbu) : State :=
  if u.mpc = 63 then (s.setNbu n u).nbStop n 4 else s.setNbu n { u with mpc := u.mpc + 1 }

/-- A microinstruction of the unit whose turn it is, while it runs. -/
def State.micro (s : State) (f : Nat → Nbu → NReq → State) : Out :=
  let u := s.nbu s.nbuCur
  .next (match u.cur with
    | some q => if u.suspended then s else f s.nbuCur u q
    | none => s)

/-- One that uses no row. -/
def State.microPlain (s : State) (f : Nbu → Nbu) : Out := s.micro fun n u _ => s.nbAdvance n (f u)

/-- One that uses a row: outside the page NST 0x03; `k` takes the address of the row. -/
def State.microRowed (s : State) (imm : Nat) (k : Nat → Nbu → NReq → Nat → State) : Out := s.micro fun n u q =>
  match microRow u q imm with
  | none => s.nbStop n 3
  | some row =>
    match s.rowFrame q.h q.ver row with
    | none => s
    | some f => k n u q (hbmAddr f + row % 64 * 1024)

/-- First byte of the half that a format reads, and its element format (R341). -/
def nfmt (f : NFmt) : Nat × Fmt :=
  match f with
  | .f32 => (0, .f32)
  | .bfLo => (0, .bf16)
  | .bfHi => (512, .bf16)
  | .hfLo => (0, .f16)
  | .hfHi => (512, .f16)

/-- Lane codes of a row under a format, widened to f32. -/
def rowLanes (f : NFmt) (row : List Byte) : Nat → Nat :=
  let p := nfmt f
  let w := p.2.width / 8
  let a := row.toArray
  fun j =>
    let v := ofBytes ((List.range w).map (fun i => a.getD (p.1 + w * j + i) 0))
    if f = .f32 then v else (convert (decodeFlt p.2 v) .f32 .rne false).code

def nbRnd (m : Rm) : Rnd := ⟨m, 0, 0⟩
/-- A rounded f32 lane; no status is kept (R341). -/
def nbFin (m : Rm) (v : FVI) : BitVec 32 := BitVec.ofNat 32 (finish .f32 (nbRnd m) v).code
def f32v (x : BitVec 32) : FV := decodeFlt .f32 x.toNat

/-- CHECK/0x03 of a poisoned row, with the row and the object (R443). -/
def rowCause (q : NReq) (row : Nat) : Cause := causeO 13 3 3 q.h q.ver [(0x40, 8, row), (0x48, 8, q.h.toNat)]

/-- A microinstruction that reads its row into A[BD]: a poisoned row stops the run with NST 0x05 (DEDUCED, log 65). -/
def State.microRead (s : State) (bd : Nat) (f : NFmt) (imm : Nat) (g : Nbu → Nat → Nat → BitVec 32) : Out :=
  s.microRowed imm fun n u q a =>
    if s.rowPoisoned a then (s.noteReq q.r (rowCause q ((microRow u q imm).getD 0))).nbStop n 5
    else
      let x := rowLanes f (rowBytes s.mem a)
      s.nbAdvance n (u.setAcc bd (fun j => g u j (x j)))

def execEndRun (s : State) : Out := s.micro fun n _ _ => s.nbStop n 0
def execLdr (bd : Fin 16) (f : NFmt) (imm : Fin 4294967296) (s : State) : Out :=
  s.microRead bd f imm fun _ _ x => BitVec.ofNat 32 x
def execSadd (bd : Fin 16) (f : NFmt) (m : Rm) (imm : Fin 4294967296) (s : State) : Out :=
  s.microRead bd f imm fun u j x => nbFin m (FV.fma m (f32v u.scl) (decodeFlt .f32 x) (f32v (u.lane bd j)))
def execMulr (bd : Fin 16) (f : NFmt) (m : Rm) (imm : Fin 4294967296) (s : State) : Out :=
  s.microRead bd f imm fun u j x => nbFin m (FV.mul (f32v (u.lane bd j)) (decodeFlt .f32 x))
def execMinr (bd : Fin 16) (f : NFmt) (imm : Fin 4294967296) (s : State) : Out :=
  s.microRead bd f imm fun u j x => BitVec.ofNat 32 (pick .f32 false (u.lane bd j).toNat x).1
def execMaxr (bd : Fin 16) (f : NFmt) (imm : Fin 4294967296) (s : State) : Out :=
  s.microRead bd f imm fun u j x => BitVec.ofNat 32 (pick .f32 true (u.lane bd j).toNat x).1
def execAadd (bd bs : Fin 16) (m : Rm) (s : State) : Out :=
  s.microPlain fun u => u.setAcc bd fun j => nbFin m (FV.add m (f32v (u.lane bd j)) (f32v (u.lane bs j)))
def execAscl (bd bs : Fin 16) (m : Rm) (s : State) : Out :=
  s.microPlain fun u => u.setAcc bd fun j => nbFin m (FV.mul (f32v u.scl) (f32v (u.lane bs j)))
def execClr (bd : Fin 16) (s : State) : Out := s.microPlain fun u => u.setAcc bd (fun _ => 0)
/-- Table 12-5 WB: one commit into a draft row (R342); NST 0x01 where OBJ was not in the draft set. -/
def execWb (bs : Fin 16) (f : NFmt) (m : Rm) (imm : Fin 4294967296) (s : State) : Out :=
  s.microRowed imm fun n u q a =>
    if !q.draft then s.nbStop n 1
    else
      let p := nfmt f
      let w := p.2.width / 8
      let y := (List.range 256).flatMap fun j => leBytes (convert (f32v (u.lane bs j)) p.2 (nbRnd m) false).code w
      ((s.discard q.h q.ver (fun t off => t == towerOf q.r.sp && off / 65536 == q.row / 64)).dramPut
        (((List.range y.length).map (a + p.1 + ·)).zip y)).nbAdvance n u
/-- The low word of P[PX]. -/
def Nbu.param (u : Nbu) (px : Nat) : Nat := bits (wordAt u.p px) 0 32
def execSclp (px : Fin 8) (s : State) : Out := s.microPlain fun u => { u with scl := BitVec.ofNat 32 (u.param px) }
def execSclm (px : Fin 8) (m : Rm) (s : State) : Out :=
  s.microPlain fun u => { u with scl := nbFin m (FV.mul (f32v u.scl) (decodeFlt .f32 (u.param px))) }
def execRadv (imm : Fin 4294967296) (s : State) : Out := s.microPlain fun u => { u with rc := (u.rc + imm) % 2 ^ 32 }
def execNbuLoop (px : Fin 8) (imm : Fin 64) (s : State) : Out := s.micro fun n u _ =>
  if u.lct + 1 < u.param px then s.setNbu n { u with lct := (u.lct + 1) % 2 ^ 32, mpc := imm }
  else s.nbAdvance n { u with lct := 0 }

-- Suspension (R343, R344)

/-- A pending access on pseudo-channel n. -/
def State.pendingPc (s : State) (n : Nat) : Option (Nat × Nat) := s.access.find? (fun p => p.1 == n)

/-- `nbuSuspend`: at a row-step boundary a pending access is served, and the run waits with all its state. -/
def execNbuSuspend (n : Fin 512) (s : State) : Out :=
  .next (match s.pendingPc n, (s.nbu n).cur with
    | some p, some _ => { s.setNbu n { s.nbu n with suspended := true } with access := s.access.erase p }.later [.nbuResume n]
    | _, _ => s)

/-- `nbuResume`: the run goes on at the first boundary with no access pending; an access still pending is served first. -/
def execNbuResume (n : Fin 512) (s : State) : Out :=
  .next (match s.pendingPc n with
    | some p => { s with access := s.access.erase p }.soon [.nbuResume n]
    | none => s.setNbu n { s.nbu n with suspended := false })

/-- What the NBU n does in its turn: nothing, the microinstruction at MPC or a suspension before it, or the stop for an entry that
Table 12-5 does not allow (R341). -/
inductive NbuTurn
  | idle
  | op (i : Instr)
  | bad
deriving DecidableEq, Repr

/-- A row operation that arrived earlier holds the bank of the row step that NBU n has come to (R343). -/
def State.nbuYields (s : State) (n : Nat) : Bool :=
  match s.nbuStepAt n with
  | some (arr, bank) => match s.rowBusy.find? (fun q => q.1 == n && q.2.1 == bank) with
    | some q => decide (q.2.2.2 < arr)
    | none => false
  | none => false

def State.nbuTurnOf (s : State) (n : Nat) : NbuTurn :=
  let u := s.nbu n
  if u.cur.isNone || u.suspended then .idle
  else match decodeMicro (Tab.get u.ms u.mpc 0).toNat with
    | .error _ => .bad
    | .ok i => if isRowStep i && (s.pendingPc n).isSome then .op (.nbuSuspend (Fin.ofNat 512 n)) else if isRowStep i && s.nbuYields n then .idle else .op i

end Sys2Proof.Machine
end

