-- ==== Sys2Proof/Machine/Launch.lean ====
section
/-! DEFINITION. Machine/Launch.lean: launch records and their checks at queue time (R40 to R47, R198, R200, R201), `launch` (R309), the
pending set, the priority queues and the active slots of the arbiters (R47 to R49), the placement of gangs and descriptors
(R43, R50, R68), the retirement of a launch. -/

namespace Sys2Proof.Machine

-- Levels (Table 02-2)

structure Level where
  hwd : Nat
  ext : Nat
  msc : Nat
deriving DecidableEq, Repr

def recNlev (w : List Entry) : Nat := bits (wordAt w 0) 16 4
def recLevels (w : List Entry) : List Level := (List.range (recNlev w)).map fun j =>
  let v := wordAt w (16 + j)
  ⟨bits v 32 3, bits v 0 32, bits v 36 3⟩
def Level.bound (l : Level) : Bool := l.hwd != 7
/-- The level's indices are placed here: bound within the package, or unbound (R44). -/
def Level.inner (l : Level) : Bool := decide (l.hwd ≤ 3) || l.hwd == 7

/-- Instances of domain h within its parent (Table 02-3). -/
def perParent (h : Nat) : Nat := [8, 8, 4, 4, 32, 8, 1].getD h 1
/-- Instances of domain h within one instance of domain `outer`. -/
def within (h outer : Nat) : Nat := ((List.range outer).drop h).foldl (fun a k => a * perParent k) 1
/-- Where the span of the outermost bound level ends (R42). -/
def spanEnd (h : Nat) : Nat := if h < 3 then 3 else if h = 3 then 4 else if h = 4 then 5 else 7

/-- R42 for the bound levels from one on; `prev` is the hardware domain of the last bound level inside it. -/
def levelsOk : Option Nat → List Level → Bool
  | _, [] => true
  | prev, l :: r =>
    l.ext != 0 && decide (l.msc ≤ 5) &&
      (if l.hwd = 7 then decide (1 ≤ l.msc) && decide (l.msc ≤ 4) && levelsOk prev r
       else
        let outer := match r.find? Level.bound with
          | some o => o.hwd
          | none => spanEnd l.hwd
        (match prev with
          | some p => decide (p < l.hwd)
          | none => true)
          && decide (l.ext ≤ within l.hwd outer) && decide (min (l.hwd + 1) 5 ≤ l.msc) && levelsOk (some l.hwd) r)

/-- The launch is placed by every arbiter of the package (R49). -/
def pkgWideOf (w : List Entry) : Bool := (recLevels w).any (fun l => l.hwd == 3 || l.hwd == 4)

-- Instances (R43)

/-- The instance of domain h that holds a spire. -/
def instOf (h sp : Nat) : Nat := if h ≤ 1 then sp else if h = 2 then sp / 8 else if h = 3 then sp / 32 else 0
/-- Spires grouped by the instances of domain h, in ascending order. -/
def groups (h : Nat) (l : List Nat) : List (List Nat) :=
  ((l.map (instOf h)).eraseDups).map fun k => l.filter (fun n => instOf h n == k)

/-- An instance, by its enabled spires, holds enough instances for the bound levels inside it: (domain, extent), outermost first. -/
def roomy : List (Nat × Nat) → List Nat → Bool
  | [], l => !l.isEmpty
  | (h, e) :: r, l => if h = 0 then decide (e ≤ 8 * l.length) else decide (e ≤ ((groups h l).filter (roomy r)).length)

/-- The bound levels within the package, outermost first. -/
def boundIn (w : List Entry) : List (Nat × Nat) := ((recLevels w).filter (fun l => decide (l.hwd ≤ 3))).reverse.map (fun l => (l.hwd, l.ext))

def State.enabledIn (s : State) (lo n : Nat) : List Nat := ((List.range n).map (lo + ·)).filter s.enabled

/-- The instances that may hold the outermost bound level: within the arbiter's tower from the next domain out, or the package (DESIGN CHOICE, log 50). -/
def State.holders (s : State) (t : Nat) (w : List Entry) : List (List Nat) :=
  let b := boundIn w
  let own := s.enabledIn (32 * t) 32
  let top := match b with
    | (h, _) :: _ => h + 1
    | [] => 1
  let l := if pkgWideOf w then [s.enabledIn 0 128]
    else ([1, 2, 3].filter (fun k => decide (top ≤ k))).flatMap (fun k => groups k own)
  l.filter (roomy b)

/-- The spires that the bound levels leave to a task, and its place among the contexts of its spire where a level is bound to
contexts; (domain, extent, index), outermost first. -/
def locateIx : List (Nat × Nat × Nat) → List Nat → List Nat × Option Nat
  | [], l => (l, none)
  | (h, _, i) :: r, l =>
    if h = 0 then ((l.drop (i / 8)).take 1, some (i % 8))
    else locateIx r (((groups h l).filter (roomy (r.map (fun q => (q.1, q.2.1)))))[i]?.getD [])

-- Tasks of a launch

/-- Number of tasks that this package creates. -/
def ntasks (w : List Entry) : Nat := (recLevels w).foldl (fun n l => if l.inner then n * l.ext else n) 1
def hasSeq (w : List Entry) : Bool := (recLevels w).any (fun l => l.hwd == 7)

/-- Indices of task k at each level: the outermost level is the most significant; octant and package indices follow PKN (R44). -/
def State.tupleOf (s : State) (w : List Entry) (k : Nat) : List Nat :=
  ((recLevels w).foldl (fun (a : Nat × List Nat) l =>
    if l.inner then (a.1 / max 1 l.ext, a.2 ++ [a.1 % max 1 l.ext])
    else (a.1, a.2 ++ [if l.hwd = 4 then s.cfg.pkn % 32 else if l.hwd = 5 then s.cfg.pkn / 32 else 0])) (k, [])).2

/-- A package whose index lies at or beyond a level's extent places nothing (R44) (DEDUCED, log 51). -/
def State.outOfRange (s : State) (w : List Entry) : Bool :=
  ((recLevels w).zip (s.tupleOf w 0)).any (fun p => !p.1.inner && decide (p.1.ext ≤ p.2))

/-- The spires of task k within a holder, and its place among contexts. -/
def State.spot' (s : State) (w : List Entry) (holder : List Nat) (k : Nat) : List Nat × Option Nat :=
  let b := ((recLevels w).zip (s.tupleOf w k)).filter (fun p => decide (p.1.hwd ≤ 3))
  locateIx (b.reverse.map (fun p => (p.1.hwd, p.1.ext, p.2))) holder

/-- The spires on which a task may be placed: where they lie in several towers, those of the tower that queued the launch (DESIGN CHOICE, log 50). -/
def ownSpires (home : Nat) (l : List Nat) : List Nat :=
  if ((l.map towerOf).eraseDups).length ≤ 1 then l
  else
    let near := l.filter (fun n => towerOf n == home)
    if near.isEmpty then l else near

/-- Those of them that arbiter t owns. -/
def ownPart (t home : Nat) (l : List Nat) : List Nat := (ownSpires home l).filter (fun n => towerOf n == t)

/-- The role of a task (R45). -/
def roleOf (w : List Entry) (tuple : List Nat) : Nat :=
  let w0 := wordAt w 0
  if !bit w0 40 then 0
  else match ((recLevels w).zip tuple).find? (fun p => p.1.hwd == 1) with
    | some p => if p.2 = bits w0 41 3 then 1 else if p.2 = bits w0 44 3 then 2 else 0
    | none => 0

/-- The share of task k of a launch of weight W (R68) (DEDUCED, log 51). -/
def shareOf (wgt n k : Nat) : Nat := wgt / max 1 n + (if k = 0 then wgt % max 1 n else 0)

-- The checks of a record

/-- A reserved bit or code outside the levels, or a field out of range (R40, R42). -/
def recordBad (w : List Entry) : Bool :=
  let v (k : Nat) : Nat := wordAt w k
  let w0 := v 0
  let w6 := v 6
  bits w0 56 8 != 0 || bit w0 47 || bits w0 34 2 != 0 || bit w0 31 || bit w0 27 || bits w0 20 4 != 0 || bits w0 0 16 != 0x0107
    || decide (8 < bits w0 48 8) || decide (bits w0 36 4 < 5) || decide (7 < bits w0 36 4) || bits w0 28 3 == 7
    || bits (v 4) 32 32 == 0 || bits w6 0 5 == 0 || decide (16 < bits w6 0 5)
    || bits w6 48 16 != 0 || bits w6 35 5 != 0 || bits w6 17 7 != 0 || bits w6 5 3 != 0
    || bits (v 24) 3 61 != 0 || decide (4 < bits (v 24) 0 3) || v 28 != 0 || v 29 != 0 || v 30 != 0 || v 31 != 0

/-- NLEV or a level descriptor (R42). -/
def levelsBad (w : List Entry) : Bool :=
  recNlev w == 0 || decide (8 < recNlev w)
    || (List.range 8).any (fun j => bits (wordAt w (16 + j)) 39 25 != 0 || bit (wordAt w (16 + j)) 35)
    || !levelsOk none (recLevels w)

/-- R45. -/
def rolesBad (w : List Entry) : Bool :=
  let w0 := wordAt w 0
  bit w0 40 && (match (recLevels w).find? (fun l => l.hwd == 1) with
    | none => true
    | some l => bits w0 41 3 == bits w0 44 3 || decide (l.ext ≤ bits w0 41 3) || decide (l.ext ≤ bits w0 44 3))

/-- R46. -/
def State.resourcesBad (s : State) (t sid : Nat) (w : List Entry) : Bool :=
  let k := match (recLevels w).find? (fun l => l.hwd == 0) with
    | some l => min 8 l.ext
    | none => 1
  decide (256 < recTsp w * k) || decide (128 < recAcc w * k) || decide (4 < recLat w * k)
    || (recSaven w != 0 && (match s.lookup t 3 (w.getD 7 0) with
      | .error _ => true
      | .ok o => !(o.live && o.lkind == 0 && hpkg (w.getD 7 0) == s.cfg.pkn && decide (recSaven w * slotBytes w ≤ o.bytes)
          && o.rightsOf sid &&& 3 == 3)))

/-- TDMODE of a tower. -/
def State.tdmode (s : State) (t : Nat) : Nat := bits s.cfg.tdmode (2 * t) 2
/-- The towers on which tasks of a launch may run. -/
def State.towersOf (s : State) (t : Nat) (w : List Entry) : List Nat :=
  if !pkgWideOf w then [t]
  else match s.holders t w with
    | [] => []
    | h :: _ => ((List.range (ntasks w)).flatMap (fun k => ((s.spot' w h k).1.map towerOf).eraseDups)).eraseDups
/-- R32. -/
def State.timedBad (s : State) (t : Nat) (w : List Entry) : Bool :=
  let tdl := bits (wordAt w 0) 28 3
  if tdl = 3 then (s.towersOf t w).any (fun k => !(s.tdmode k == 1 || s.tdmode k == 2))
  else if tdl = 4 then [0, 1, 2, 3].any (fun k => s.tdmode k != 2)
  else decide (5 ≤ tdl)

/-- A dependence object and a right on it (R47, R309); one of another package is checked by its home. -/
def State.depBad (s : State) (t sid : Nat) (h : Entry) (ok : Obj → Bool) : Bool :=
  if s.elsewhere h then false
  else match s.lookup t 3 h with
    | .error _ => true
    | .ok o => !(ok o && o.rightsOf sid &&& rRD == rRD)

/-- R47: DEPH, and the counter that a `launch` names. -/
def State.depsBad (s : State) (t sid : Nat) (w : List Entry) (c : Entry) (ix : Nat) : Bool :=
  let h := w.getD 25 0
  (match bits (wordAt w 24) 0 3 with
    | 1 => s.depBad t sid h (fun o => o.live && o.lkind == 1)
    | 2 => s.depBad t sid h (fun o => !o.live)
    | 3 => s.depBad t sid h (fun o => o.live && o.lkind == 2)
    | _ => false)
  || (c != 0 && s.depBad t sid c (fun o => o.live && o.lkind == 1 && decide (ix < o.words)))

-- The kernel image (R198, R200, R201)

/-- What the arbiter reads in a code object. -/
inductive Kernel
  | bad
  | stale (psvn ver : Nat)
  | held (p : Loc)
  | portable (lwci : Bool)
  | native (noff nlen tsvn entry : Nat) (lwci : Bool)
deriving DecidableEq, Repr

/-- A relocation entry names an `li` of the portable form (R201). -/
def State.relocOk (s : State) (o : Obj) (ver poff e : Nat) : Bool :=
  bits e 2 2 == 0 && (match decodeSlot (e % 4) (s.objRead o ver (poff + e / 16 * 16 + 4 * (e % 4)) 4) with
    | .ok (.li _ _) => true
    | _ => false)

/-- One byte in each page that `n` bytes from `a` on touch. -/
def pageSpan (a n : Nat) : List Nat := if n = 0 then [] else (List.range (n / 65536 + 2)).map (fun k => min (a + 65536 * k) (a + n - 1))

/-- Goes on once these bytes of a code object stand here; a page elsewhere has to come into HBM first, as for a fetch (R108, R425). -/
def Obj.whenHere (o : Obj) (ver : Nat) (offs : List Nat) (k : Kernel) : Kernel :=
  match (offs.find? (fun f => (o.blocked ver [f]).isSome)) with
  | none => k
  | some f => match o.locate ver f with
    | .held sub p e => .held (.held sub p e)
    | _ => .held (.held 3 (f / 65536) (o.page ver (f / 65536)))

/-- The image of a record's code object: the first descriptor for this device whose TSVN is not stale, ENTRY through its map; it is read once
its header, its relocation list with the slots that it names, and the entry map stand here. -/
def State.kernel (s : State) (t sid : Nat) (w : List Entry) : Kernel :=
  let h := w.getD 1 0
  match s.lookup t 3 h with
  | .error _ => .bad
  | .ok o =>
    let ver := if bits (wordAt w 2) 32 32 = 0 then o.cver else bits (wordAt w 2) 32 32
    let p := (s.replica h o ver).2
    if o.live || o.rightsOf sid &&& rRD != rRD || !o.holds ver then .bad
    else
      let rd (off : Nat) : Nat := s.objRead p ver off 8
      let w2 := rd 0x10
      let rln := bits (rd 0x20) 0 16
      let rlo := bits (rd 0x20) 32 32
      let rl (k : Nat) : Nat := s.objRead p ver (rlo + 4 * k) 4
      p.whenHere ver (pageSpan 0 544) (p.whenHere ver (pageSpan rlo (4 * rln))
        (p.whenHere ver ((List.range rln).map (fun k => bits (rd 8) 32 32 + rl k / 16 * 16)) (
        let bad := rd 0 != 0x4B37584100010000 || bits w2 20 12 != 0 || bits w2 1 15 != 0 || bits (rd 0x18) 0 26 != 0
          || bits (rd 0x20) 16 16 != 0 || rd 0x28 != 0 || rd 0x30 != 0 || rd 0x38 != 0
          || (List.range (bits w2 16 4)).any (fun j => bits (rd (0x48 + 32 * j)) 0 32 != 0)
          || !(List.range rln).all (fun k => s.relocOk p ver (bits (rd 8) 32 32) (rl k))
        if bad then .bad
        else match (List.range (bits w2 16 4)).find? (fun j =>
            rd (0x40 + 32 * j) == s.cfg.fuses.dhs && decide (s.cfg.fuses.svn ≤ bits (rd (0x48 + 32 * j)) 32 32)) with
          | some j =>
            let em := rd (0x58 + 32 * j)
            let at_ (k : Nat) : Nat := rd (bits em 32 32 + 8 * k)
            p.whenHere ver (pageSpan (bits em 32 32) (8 * bits em 0 32)) (
              match (List.range (bits em 0 32)).find? (fun k => bits (at_ k) 32 32 == bits (wordAt w 2) 0 32) with
              | none => .bad
              | some k =>
                let nd := rd (0x50 + 32 * j)
                .native (bits nd 32 32) (bits nd 0 32) (bits (rd (0x48 + 32 * j)) 32 32) (bits (at_ k) 0 32) (bit w2 0))
          | none => if s.cfg.fuses.svn ≤ bits w2 32 32 then .portable (bit w2 0) else .stale (bits w2 32 32) ver)))

-- Queueing (R47, R48, R68)

/-- A dependence holds; one of another package holds when the arbiter observes it, at `launchDependenceMet` (DEDUCED, log 53). Of the counters or futures that
DEPH names, which the record gives no index for, the first is tested (DESIGN CHOICE, log 98). -/
def State.depHolds (s : State) (observed : Bool) (w : List Entry) (c : Entry) (ix tgt : Nat) : Bool :=
  let h := w.getD 25 0
  let v := wordAt w 26
  let far (h : Entry) (b : Bool) : Bool := if s.elsewhere h then observed else b
  (match bits (wordAt w 24) 0 3 with
    | 1 => far h (decide (v ≤ (s.counterAt h 0).getD 0))
    | 2 => far h (match s.here h with
      | some o => decide (v ≤ o.cver)
      | none => false)
    | 3 => far h (match s.liveOf h 2 with
      | some o => decide (2 ≤ (s.fut o (o.wordOff 0)).st)
      | none => false)
    | 4 => s.relDone.contains v
    | _ => true)
  && (c == 0 || far c (decide (tgt ≤ (s.counterAt c ix).getD 0)))

/-- The launch's future is poisoned (R436). -/
def State.depPoisoned (s : State) (w : List Entry) : Bool :=
  bits (wordAt w 24) 0 3 == 3 && (match s.liveOf (w.getD 25 0) 2 with
    | some o => (s.fut o (o.wordOff 0)).st == 3
    | none => false)

def Launch.pri (l : Launch) : Nat := bits (wordAt l.words 0) 24 3
def Arbiter.queue (a : Arbiter) (p : Nat) : List Launch := Tab.get a.queues p []
def Arbiter.full (a : Arbiter) (p : Nat) : Bool := decide (256 ≤ (a.queue p).length)
def Launch.closure (l : Launch) : Entry := l.words.getD 3 0

/-- The launch enters its priority queue; a package-wide one sends its copies; one whose future is poisoned leaves without a task
(R49, R436) (DESIGN CHOICE, log 56). -/
def State.enqueueLaunch (s : State) (t : Nat) (l : Launch) : State :=
  if s.depPoisoned l.words then
    (s.eventHru t (causeO 10 7 0 (l.words.getD 25 0) 0 [(0x40, 8, l.rech.toNat)])).sendReturn l.closure l.wgt
  else
    let s1 := (s.modArb t (fun a => { a with queues := Tab.set a.queues l.pri (a.queue l.pri ++ [l]) })).later [.launchActivate (Fin.ofNat 4 t)]
    if l.pkgWide then
      ([0, 1, 2, 3].filter (· != t)).foldl (fun s k =>
        (s.modArb k (fun a => { a with copies := a.copies ++ [l] })).later [.launchCopy (Fin.ofNat 4 k)]) s1
    else s1

/-- What queueing comes to. -/
inductive LAns
  | rejected (cause : Nat)
  | stale (psvn ver : Nat)
  | closure
  | refused
  | busy
  | opening
  | held (h : Entry) (p : Loc)
  | ok (s : State)
deriving DecidableEq, Repr

/-- Who queues a launch: its space, the record's object, for a task its closure and share, itself, and the counter it names, for a control message
whether the closure's home has opened its closure. -/
structure Asker where
  sid : Nat
  rech : Entry
  task : Option (Entry × Nat)
  who : Option (Nat × Nat × Nat × Nat)
  opened : Bool
  depC : Entry
  depIx : Nat
  depTgt : Nat
deriving DecidableEq, Repr

/-- The rejection causes of LAYOUT/0x07 in ascending order; 0 for none (DEDUCED, log 53). -/
def State.launchCause (s : State) (t : Nat) (q : Asker) (w : List Entry) : Nat :=
  if recordBad w then 1
  else if levelsBad w || (s.holders t w).isEmpty then 2
  else if rolesBad w then 3
  else if s.resourcesBad t q.sid w then 4
  else if s.timedBad t w then 5
  else if s.kernel t q.sid w = .bad then 6
  else if s.depsBad t q.sid w q.depC q.depIx then 7
  else 0

-- The format table (R39)

/-- The entries of a launch's format table where they stand here: none for an object that is gone or has no version, which leaves every entry at its reset
value; no answer where they have to be waited for (DEDUCED, log 8). -/
def State.fmtNow (s : State) (h : Entry) : Option (List Entry) :=
  if h = 0 then some []
  else if s.elsewhere h then none
  else match s.here h with
    | none => some []
    | some o =>
      let ver := if o.live then 0 else o.cver
      let p := (s.replica h o ver).2
      if !o.live && ver == 0 then some []
      else if o.sdim ≠ 7 ∨ (p.blocked ver [0]).isSome then none
      else some ((List.range 16).map (fun k => BitVec.ofNat 64 (s.objRead p ver (8 * k) 8)))

/-- The entries of a pending launch's format table are here (R39). -/
def State.gotFmt (s : State) (t id : Nat) (l : List Entry) : State :=
  s.modArb t (fun a => { a with pend := a.pend.map (fun (x : Launch) => if x.id = id then { x with fmt := false, ft := l } else x) })

/-- The launch with its format table, or the request for one that has to be waited for (R39). -/
def State.fmtFor (s : State) (t : Nat) (l : Launch) : State × Launch :=
  let h := l.words.getD 5 0
  match s.fmtNow h with
  | some x => (s, { l with ft := x })
  | none =>
    ((s.modHru t (fun u => { u with q := u.q ++ [{ ownReq (.launchCopy (Fin.ofNat 4 t)) t l.sid h 0 0 [] with tag := l.id }] })).later
      [.l2Miss (Fin.ofNat 4 t)], { l with fmt := true })

/-- The launch as queued, with the translation that was found. -/
def launchOfRec (s : State) (t : Nat) (q : Asker) (w : List Entry) (k : Kernel) (wgt : Nat) : Launch :=
  let base : Launch :=
    { id := s.fresh, rech := q.rech, words := w, sid := q.sid, wgt := wgt, depC := q.depC, depIx := q.depIx, depTgt := q.depTgt
      noff := 0, nlen := 0, tsvn := 0, entry := 0, trans := false, lwci := false, bor := false, pkgWide := pkgWideOf w, home := t
      dbg := false, fmt := false, ft := [], due := none, who := q.who }
  match k with
  | .native noff nlen tsvn entry lwci => { base with noff := noff, nlen := nlen, tsvn := tsvn, entry := entry, lwci := lwci }
  | .portable lwci => { base with trans := true, lwci := lwci }
  | _ => base

/-- A launch into closure `c` with weight `wgt` has to borrow from another package (R68). -/
def State.borrowsAway (s : State) (c : Entry) (wgt : Nat) (w : List Entry) : Bool :=
  c != 0 && decide (wgt < ntasks w) && !s.outOfRange w && s.elsewhere c

/-- The borrow for a weight below the number of tasks (R68): here at once, or asked of the closure's home. -/
def State.borrowFor (s : State) (t : Nat) (l : Launch) : State × Launch :=
  let n := ntasks l.words
  if l.closure = 0 ∨ n ≤ l.wgt ∨ s.outOfRange l.words then (s, l)
  else if s.elsewhere l.closure then
    let r : Req := { ownReq (.launchActivate (Fin.ofNat 4 t)) t l.sid l.closure (BitVec.ofNat 64 l.wgt) 0 [BitVec.ofNat 64 n] with tag := l.id, scope := 3 }
    (s.sendLive t r l.closure true, { l with bor := true })
  else
    let p := s.borrowLaunch l.closure l.wgt n
    (p.1, { l with wgt := p.2 })

/-- The record would enter its priority queue at once: its dependences hold, its translation and its format table are here, and it borrows from no other
package (R47). -/
def State.direct (s : State) (t : Nat) (q : Asker) (w : List Entry) (wgt : Nat) : Bool :=
  s.depHolds false w q.depC q.depIx q.depTgt && (s.fmtNow (w.getD 5 0)).isSome && !s.borrowsAway (w.getD 3 0) wgt w
    && (match s.kernel t q.sid w with
      | .portable _ => false
      | _ => true)

/-- The priority queue, or else the pending set, that it would enter is full (R47, R48). -/
def State.launchFull (s : State) (t : Nat) (q : Asker) (w : List Entry) (wgt : Nat) : Bool :=
  let a := s.arb t
  if s.direct t q w wgt then a.full (bits (wordAt w 0) 24 3) else decide (1024 ≤ a.pend.length)

/-- The accepted launch enters its queue, or the pending set. -/
def State.takeLaunch (s : State) (t : Nat) (q : Asker) (w : List Entry) (k : Kernel) (wgt : Nat) : State :=
  let f := s.newId.fmtFor t (launchOfRec s t q w k wgt)
  let p := f.1.borrowFor t f.2
  let l := p.2
  if s.depHolds false w q.depC q.depIx q.depTgt && !l.trans && !l.bor && !l.fmt then p.1.enqueueLaunch t l
  else p.1.modArb t (fun a => { a with pend := a.pend ++ [l] })

/-- A RECORD IS QUEUED at arbiter t: checks, closure, room, dependences (R42 to R48, R68, R309) (DEDUCED, log 53). -/
def State.queueLaunch (s : State) (t : Nat) (q : Asker) (w : List Entry) : LAns :=
  match s.launchCause t q w with
  | 0 =>
    let k := s.kernel t q.sid w
    match k with
    | .held p => .held (w.getD 1 0) p
    | .stale v ver => .stale v ver
    | _ =>
      let c := w.getD 3 0
      let lw := bits (wordAt w 4) 0 32
      match q.task with
      | some (cls, share) =>
        if c ≠ 0 ∧ c ≠ cls then .closure
        else
          let wgt := if c = 0 then 0 else share
          if s.launchFull t q w wgt then .busy else .ok (s.takeLaunch t q w k wgt)
      | none =>
        let wgt := if c = 0 then 0 else lw
        if s.launchFull t q w wgt then .busy
        else if q.opened then .ok (s.takeLaunch t q w k wgt)
        else if c ≠ 0 ∧ s.elsewhere c then .opening
        else match s.openFor c lw with
          | none => .refused
          | some s1 => .ok (s1.takeLaunch t q w k wgt)
  | c => .rejected c

-- `launch` (R309)

/-- The record of a request in its object, where it can be read at once. -/
def State.peekRecord (s : State) (h : Entry) (rix : Nat) : Option (List Entry) :=
  match s.liveOf h 5 with
  | none => none
  | some o =>
    if o.bytes < 256 * rix + 256 ∨ (o.blocked 0 [256 * rix]).isSome then none
    else some ((List.range 32).map (fun k => BitVec.ofNat 64 (s.objRead o 0 (256 * rix + 8 * k) 8)))

/-- The words of a launch request that R304 finds bad. -/
def launchBad (w : List Entry) : List (Nat × Bool) :=
  [(1, outside (wordAt w 1) (maskAt 16 10 + maskAt 0 10) || (w.getD 2 0 == 0 && bits (wordAt w 1) 16 10 != 0)),
    (3, w.getD 2 0 == 0 && wordAt w 3 != 0)]

/-- R309: a full priority queue or pending set stalls; the share is split where the record's CLSH is the issuer's closure, and is without effect where it is 0.
Of a record that cannot be read at issue the share is split, and the arbiter gives it back where CLSH is 0 (DEDUCED, log 54). -/
def execLaunch (p : Src2) (s : State) : Out :=
  .next (s.readS p.a fun off s => s.readS p.b fun q s => s.record off 4 fun w s => s.fields off (launchBad w) fun s =>
    let h := w.getD 0 0
    let t := towerOf s.iss.sp
    let send (share : Nat) (s : State) : State :=
      s.tell (.launch p) h q (bits (wordAt w 1) 0 10) (w ++ [BitVec.ofNat 64 share, s.cx.sys.cls])
    match s.peekRecord h (bits (wordAt w 1) 0 10) with
    | some r =>
      let c := r.getD 3 0
      let a : Asker := ⟨s.cx.sys.sid, h, some (s.cx.sys.cls, 0), none, false, w.getD 2 0, bits (wordAt w 1) 16 10, wordAt w 3⟩
      if s.launchFull t a r (if c = 0 then 0 else if q = 0 then s.cx.sys.wgt / 2 else q.toNat) then s.stallWith .launchFull
      else if c = 0 then send 0 s
      else if c = s.cx.sys.cls then s.splitShare q.toNat send
      else if 2 ^ 32 ≤ q.toNat then s.raise (causeO 11 6 s.iss.slot s.cx.sys.cls 0 [(0x40, 8, q.toNat)])
      else send 0 s
    | none => s.splitShare q.toNat send)

/-- Sectors of a live object of another package that a request has read so far stand behind its own `n` words. -/
def Req.got (r : Req) (n : Nat) : List Entry := r.words.drop n

/-- Words of a live object that a request reads: here, or sector by sector from its home. -/
inductive WordsAns
  | words (l : List Entry)
  | fail (k : Cause)
  | wait (s : State)
deriving DecidableEq, Repr

/-- `count` 256-byte sectors from byte `off` of a live descriptor object with right RD (R83, R468); `own` of the request's words are
its own. -/
def State.readTable (s : State) (t : Nat) (r : Req) (h : Entry) (off count own : Nat) : WordsAns :=
  match s.objFor t r.sid 3 h with
  | .error k => .fail k
  | .ok none => .wait (s.waitSpot t r (.askObj h))
  | .ok (some o) =>
    match o.checkRights 3 r.sid (needs rRD (s.elsewhere h)) h with
    | .error k => .fail k
    | .ok _ =>
      if !o.live || o.lkind != 5 then .fail (o.kindCause 3 h)
      else if o.bytes < off + 256 * count then .fail (ixCause 3 h (BitVec.ofNat 64 off) 0 0)
      else if s.elsewhere h then
        let n := (r.got own).length / 32
        if count ≤ n then .words ((r.got own).take (32 * count))
        else .wait (s.sendItem t (hpkg h) 1 { XferHdr.zero with obj := h, ver := 0, off := off + 256 * n } [[]] false none (some r) 0)
      else match o.blocked 0 ((List.range (count + 1)).map (fun k => off + 256 * k - (if k = count then 1 else 0))) with
        | some (.held sub p e) => .wait (s.holdReq t r sub h 0 p e)
        | _ => .words ((List.range (32 * count)).map (fun k => BitVec.ofNat 64 (s.objRead o 0 (off + 8 * k) 8)))

/-- A share that was split for nothing: the issuer has it again, or it is returned (DEDUCED, log 54). -/
def State.unsplit (s : State) (r : Req) (cls : Entry) (share : Nat) : State :=
  if share = 0 then s
  else match s.locate r.sp r.c r.tid with
    | some (n, j) =>
      if (s.ctx n j).sys.cls = cls then s.modCtx n j (fun x => { x with sys := { x.sys with wgt := x.sys.wgt + share } })
      else s.addReturn r.sp cls share
    | none => s.addReturn r.sp cls share

/-- The arbiter takes a `launch`: a rejection returns the share and is a deferred trap (R309) (DEDUCED, log 54). -/
def State.serveLaunch (s : State) (t : Nat) (r : Req) : State :=
  let share := wordAt r.words 4
  let cls := r.words.getD 5 0
  let fail (k : Cause) : State := (s.addReturn r.sp cls share).failReq r k
  match s.readTable t r r.a (256 * r.eidx) 1 6 with
  | .fail k => fail k
  | .wait s1 => s1
  | .words w =>
    match s.queueLaunch t
      ⟨r.sid, r.a, some (cls, share), some (r.sp, r.c, r.tid, r.off), false, r.words.getD 2 0, bits (wordAt r.words 1) 16 10, wordAt r.words 3⟩ w with
    | .rejected c => fail (causeO 8 7 3 r.a 0 [(0x40, 1, c)])
    | .stale v ver => fail (causeO 7 0x0A 3 (w.getD 1 0) ver [(0x40, 4, v), (0x44, 4, s.cfg.fuses.svn)])
    | .closure => fail (causeO 11 8 3 (w.getD 3 0) 0 [(0x40, 8, wordAt w 3)])
    | .refused => fail (causeO 11 8 3 (w.getD 3 0) 0 [(0x40, 8, wordAt w 3)])
    | .busy | .opening => s.again t r
    | .held h p => match p with
      | .held sub pg e => s.holdReq t r sub h (bits (wordAt w 2) 32 32) pg e
      | _ => fail (causeO 8 7 3 r.a 0 [(0x40, 1, 6)])
    | .ok s1 => if wordAt w 3 = 0 then s1.unsplit r cls share else s1

-- Events of the arbiter

/-- The arbiter has observed the pending launch's last dependence hold, and awaits nothing else for it. -/
def State.launchDue (s : State) (observed : Bool) (l : Launch) : Bool :=
  !l.trans && !l.bor && !l.fmt && (l.due.isSome || s.depHolds observed l.words l.depC l.depIx l.depTgt)

/-- Those of tower t whose last dependence holds in this sc take the next place in the order of those that wait for their queues (R47). -/
def State.stampDue (s : State) (t : Nat) (observed : Launch → Bool) : State :=
  let new (l : Launch) : Bool := l.due.isNone && s.launchDue (observed l) l
  if (s.arb t).pend.any new then
    s.newId.modArb t (fun a => { a with pend := a.pend.map (fun (l : Launch) => if new l then { l with due := some s.fresh } else l) })
  else s

/-- The pending launches that are due, as (order, place), those of one priority in the order in which they enter its queue (R47). -/
def Arbiter.waiting (a : Arbiter) (p : Nat) : List (Nat × Nat) :=
  (((List.range a.pend.length).zip a.pend).filterMap (fun q => if q.2.pri = p then q.2.due.map (fun d => (d, q.1)) else none)).mergeSort
    (fun a b => decide (a.1 ≤ b.1))

/-- `launchDependenceMet`: the arbiter observes a pending launch's dependences hold; it enters its priority queue, if that has room and no other launch waits
for it before this one (R47). -/
def execLaunchDependenceMet (t : Fin 4) (i : Nat) (s : State) : Out :=
  .next (match (s.arb t).pend[i]? with
    | none => s
    | some l0 =>
      let s1 := s.stampDue t (fun l => l.id == l0.id)
      match (s1.arb t).pend[i]? with
      | none => s1
      | some l =>
        if !s1.launchDue true l || (s1.arb t).full l.pri || ((s1.arb t).waiting l.pri).head?.map (·.2) != some i then s1
        else (s1.modArb t (fun a => { a with pend := a.pend.eraseIdx i })).enqueueLaunch t l)

/-- Pending launches that may enter their queues now, in the order in which they do, as places in the list after those before them have left. -/
def State.dueLaunches (s : State) (t : Nat) : List Nat :=
  let a := s.arb t
  let l := [7, 6, 5, 4, 3, 2, 1, 0].flatMap (fun p => ((a.waiting p).filter (fun q => match a.pend[q.2]? with
    | some l => s.launchDue false l
    | none => false)).take (256 - (a.queue p).length) |>.map (·.2))
  (List.range l.length).map (fun k => l.getD k 0 - ((l.take k).filter (· < l.getD k 0)).length)

/-- The launch is rejected once it was accepted: its weight is returned, and its task, or the tower's queue, has the record LAYOUT/0x07 with cause 6 (R201)
(DEDUCED, log 55). -/
def State.dropLaunch (s : State) (t : Nat) (l : Launch) : State :=
  let s1 := s.sendReturn l.closure l.wgt
  let k := causeO 8 7 3 l.rech 0 [(0x40, 1, 6)]
  match l.who with
  | some (sp, c, tid, off) => s1.deferTrap sp c tid k off
  | none => s1.eventHru t { k with slot := 0 }

/-- `translationReady`: the keep cores' translation is in place, and the launch goes on; a length of 0 says that the translation has failed (R200, R201)
(DEDUCED, log 55). -/
def execTranslationReady (t : Fin 4) (i noff nlen tsvn entry : Nat) (s : State) : Out :=
  .next (match (s.arb t).pend[i]? with
    | none => s
    | some l =>
      if !l.trans then s
      else if nlen = 0 then (s.modArb t (fun a => { a with pend := a.pend.eraseIdx i })).dropLaunch t l
      else if noff % 16 = 0 ∧ entry % 16 = 0 ∧ entry < nlen ∧ s.cfg.fuses.svn ≤ tsvn then
        s.modArb t (fun a => { a with pend := a.pend.set i { l with trans := false, noff := noff, nlen := nlen, tsvn := tsvn, entry := entry } })
      else s)

/-- `launchCopy`: the oldest copy enters this arbiter's priority queue, if it has room (R49) (DESIGN CHOICE, log 56). -/
def execLaunchCopy (t : Fin 4) (s : State) : Out :=
  .next (match (s.arb t).copies with
    | [] => s
    | l :: r =>
      if (s.arb t).full l.pri then s
      else (s.modArb t (fun a => { a with copies := r, queues := Tab.set a.queues l.pri (a.queue l.pri ++ [l]) })).later [.launchActivate t])

/-- The lowest active slot that is free. -/
def Arbiter.freeSlot (a : Arbiter) : Option Nat := (List.range 64).find? (fun k => (Tab.get a.slots k none).isNone)

/-- `launchActivate`: the head of the highest-priority queue that holds a launch moves into a free slot (R48); a launch that this package
has no index for completes at once, its weight returned (R44). -/
def execLaunchActivate (t : Fin 4) (s : State) : Out :=
  let a := s.arb t
  .next (match [7, 6, 5, 4, 3, 2, 1, 0].find? (fun p => !(a.queue p).isEmpty), a.freeSlot with
    | some p, some k =>
      match a.queue p with
      | [] => s
      | l :: r =>
        let a1 := { a with queues := Tab.set a.queues p r }
        let s1 := if s.outOfRange l.words then
            (s.modArb t (fun _ => a1)).sendReturn l.closure (if l.home = t.val then l.wgt else 0)
          else s.modArb t (fun _ => { a1 with slots := Tab.set a1.slots k (some
            ⟨l, 0, 0, 0, false, false, [], [], 0⟩) })
        if r.isEmpty then s1 else s1.later [.launchActivate t]
    | _, _ => s)

-- Placement (R43, R50)

/-- The slot of tower u that holds a launch or its copy. -/
def State.slotOf (s : State) (u id : Nat) : Option Nat :=
  (s.arb u).slots.findSome? (fun p => p.2.bind (fun x => if x.l.id = id then some p.1 else none))

/-- One task of a launch of slot `slot` of tower t placed in context c of spire sp, under its tower's slot of the launch; none where it has no room. -/
def State.placeTask (s : State) (t slot : Nat) (l : Launch) (k : Nat) (sp c : Nat) : Option State :=
  let u := towerOf sp
  if !s.takes sp c then none
  else match (if u = t then some slot else s.slotOf u l.id), s.room sp l with
  | some n, some b =>
    let tup := s.tupleOf l.words k
    let narg := bits (wordAt l.words 0) 48 8
    some ((s.taskMade u n).startTask sp c l
      { ltwr := u, lslot := n, tc := tup ++ List.replicate (8 - tup.length) 0, args := (l.words.drop 8).take narg
        wgt := if l.closure = 0 then 0 else shareOf l.wgt (ntasks l.words) k, cls := l.closure
        cver := s.codeVersion l 0, entry := l.entry, rol := roleOf l.words tup } b none)
  | _, _ => none

/-- The gang that arbiter t places within a holder: number, spires, place among contexts of each task. The arbiter that queued a package-wide launch
places the whole gang for all of them, so that it is placed in one sc; of another, which has then nothing to place, one without a task of it is done at
once (R49, R50) (DESIGN CHOICE, log 50). -/
def State.gangOf (s : State) (t : Nat) (l : Launch) (holder : List Nat) : Option (List (Nat × List Nat × Option Nat)) :=
  let g := (List.range (ntasks l.words)).map fun k =>
    let p := s.spot' l.words holder k
    (k, ownSpires l.home p.1, p.2)
  if t = l.home then some g else if g.any (fun x => x.2.1.any (fun n => towerOf n == t)) then none else some []

/-- A whole gang placed at the contexts given, in order; none unless every task is (R50). -/
def State.placeAll (s : State) (t slot : Nat) (l : Launch) : List (Nat × List Nat × Option Nat) → List (Nat × Nat) → Option State
  | [], _ => some s
  | _ :: _, [] => none
  | (k, own, _) :: r, (sp, c) :: q =>
    if !own.contains sp then none
    else match s.placeTask t slot l k sp c with
      | none => none
      | some s1 => State.placeAll s1 t slot l r q

/-- Contexts that a context-bound level numbers are taken in ascending order on each spire. -/
def ctxOrder (g : List (Nat × List Nat × Option Nat)) (at_ : List (Nat × Nat)) : Bool :=
  let l := (g.zip at_).filterMap (fun p => p.1.2.2.map (fun o => (p.2.1, o, p.2.2)))
  l.all (fun a => l.all (fun b => a.1 != b.1 || !decide (a.2.1 < b.2.1) || decide (a.2.2 < b.2.2)))

/-- Free contexts for a gang, task by task (DESIGN CHOICE, log 50). -/
def State.findGang (s : State) (t slot : Nat) (l : Launch) : List (Nat × List Nat × Option Nat) → List (Nat × Nat) → Option (List (Nat × Nat))
  | [], acc => some acc.reverse
  | (k, own, _) :: r, acc =>
    match (own.flatMap (fun sp => ctxNums.map (fun c => (sp, c)))).find? (fun p => (s.placeTask t slot l k p.1 p.2).isSome) with
    | none => none
    | some p => match s.placeTask t slot l k p.1 p.2 with
      | some s1 => State.findGang s1 t slot l r (p :: acc)
      | none => none

/-- A placement of the gang that exists now, if any. -/
def State.chooseGang (s : State) (t slot : Nat) (l : Launch) : Option (List (Nat × Nat)) :=
  (s.holders t l.words).findSome? (fun h => (s.gangOf t l h).bind (fun g => s.findGang t slot l g []))

/-- The deficit that the launch's gang takes from its slot at arbiter t. -/
def gangCost (t : Nat) (l : Launch) : Nat := if t = l.home then bits (wordAt l.words 4) 32 32 * ntasks l.words else 0

/-- The gang of an active slot of tower t could be placed now. -/
def State.placeable (s : State) (t slot : Nat) (x : Slot) : Bool :=
  !x.placedAll && !hasSeq x.l.words && decide (gangCost t x.l ≤ x.deficit) && (s.chooseGang t slot x.l).isSome

/-- The towers whose arbiters a gang of the launch concerns. -/
def gangTowers (t : Nat) (l : Launch) : List Nat := if l.pkgWide then [0, 1, 2, 3] else [t]

/-- An arbiter that the gang concerns could serve a slot of higher priority (R50). -/
def State.outranked (s : State) (t : Nat) (l : Launch) : Bool :=
  (gangTowers t l).any (fun u => (s.arb u).slots.any (fun p => match p.2 with
    | some x => x.l.id != l.id && decide (l.pri < x.l.pri) && s.placeable u p.1 x
    | none => false))

/-- The restore that the arbiter makes next for a slot: a saved task, and the first eligible spire (R74). -/
def State.nextRestore (s : State) (t : Nat) (y : Slot) : Option (Nat × Nat × Nat) :=
  y.imgs.findSome? fun p =>
    if p.2.stopped then none
    else (s.enabledIn (32 * t) 32).findSome? fun sp =>
      if p.2.tried.contains sp || (s.room sp y.l).isNone then none
      else (ctxNums.find? (fun c => s.takes sp c)).map (fun c => (p.1, sp, c))

/-- A saved task of this priority comes back before a new gang (R74). -/
def State.restores (s : State) (t : Nat) (l : Launch) : Bool :=
  (gangTowers t l).any (fun u => (s.arb u).slots.any (fun p => match p.2 with
    | some y => y.l.pri == l.pri && (s.nextRestore u y).isSome
    | none => false))

/-- SREACH of a launch's descriptors: the narrowest MSC among its unbound levels (R43). -/
def seqReach (w : List Entry) : Nat :=
  let m := ((recLevels w).filter (fun l => l.hwd == 7)).foldl (fun a l => min a l.msc) 5
  if m = 1 then 0 else if m = 2 then 1 else 2

/-- The next descriptor of a launch with an unbound level: it enters the tail of its spire's deque when that has room (R43). It carries NARG arguments, up to
8, as the launched task of R39 would, though Table 02-6 shows four places (DESIGN CHOICE, log 99). -/
def State.nextDesc (s : State) (t slot : Nat) (x : Slot) (pick : Option Nat) : State :=
  let l := x.l
  let fit (h : List Nat) : Bool := match pick with
    | some sp => (s.spot' l.words h x.nextGang).1.contains sp
    | none => true
  let holder := if x.holder.isEmpty then ((s.holders t l.words).find? fit).getD [] else x.holder
  let k := x.nextGang
  let own := ownPart t l.home (s.spot' l.words holder k).1
  let moved (s : State) : State := s.modSlot t slot (fun y => { y with
    holder := holder, nextGang := k + 1, placedAll := decide (ntasks l.words ≤ k + 1) })
  match own with
  | [] => (if holder.isEmpty then s else moved s)
  | sp :: _ =>
    if !s.hasRoom sp then s
    else
      let tup := s.tupleOf l.words k
      let narg := bits (wordAt l.words 0) 48 8
      let d : Desc :=
        { cver := s.codeVersion l 0, entry := l.entry, clsh := l.closure, sreach := seqReach l.words, pois := false, ltwr := t
          lslot := slot, wgt := if l.closure = 0 then 0 else shareOf l.wgt (ntasks l.words) k
          tc := tup ++ List.replicate (8 - tup.length) 0, args := (l.words.drop 8).take narg, pdet := 0, rol := roleOf l.words tup }
      (moved (s.modSpire sp (fun y => { y with deque := y.deque ++ [d] }))).descMade d

/-- The gang of a package-wide launch stands: the other arbiters have placed their tasks of it too. -/
def State.gangDone (s : State) (t : Nat) (l : Launch) : State :=
  ((gangTowers t l).filter (· != t)).foldl (fun s u => match s.slotOf u l.id with
    | some n => (s.modSlot u n (fun y => { y with placedAll := true })).later [.launchRetire (Fin.ofNat 4 u) (Fin.ofNat 64 n)]
    | none => s) s

/-- `gangPlace`: the arbiter's visit to an active slot in a round: 65,536 is added to its deficit; its gang is placed whole at the
contexts given, if R43 allows them, no slot of higher priority could be served and no saved task of its own priority could be restored; a launch with an unbound
level makes its next descriptor instead (R43, R50, R74) (DESIGN CHOICE, log 50). -/
def execGangPlace (t : Fin 4) (slot : Fin 64) (at_ : List (Fin 128 × Fin 8)) (s : State) : Out :=
  let l := at_.map (fun p => (p.1.val, p.2.val))
  .next (match s.slot t slot with
    | none => s
    | some x =>
      if x.placedAll then s
      else if hasSeq x.l.words then
        let s1 := s.nextDesc t slot x ((l.head?).map (·.1))
        if ((s1.slot t slot).map (·.placedAll)).getD false then s1.later [.launchRetire t slot] else s1
      else
        let cost := gangCost t x.l
        let d := min (x.deficit + 65536) (max (2 ^ 20) cost)
        let s1 := s.modSlot t slot (fun y => { y with deficit := d })
        let done : Option State :=
          if d < cost ∨ s.outranked t x.l ∨ s.restores t x.l then none
          else (s.holders t x.l.words).findSome? (fun h => (s.gangOf t x.l h).bind (fun g =>
            if g.length = l.length ∧ ctxOrder g l then s1.placeAll t slot x.l g l else none))
        match done with
        | none => s1
        | some s2 =>
          let s3 := (s2.modSlot t slot (fun y => { y with deficit := d - cost, placedAll := true })).later [.launchRetire t slot]
          if t.val = x.l.home then s3.gangDone t x.l else s3)

/-- `launchRetire`: a slot frees once every task created under it has retired and no release table is bound to it (R48, R321). -/
def execLaunchRetire (t : Fin 4) (slot : Fin 64) (s : State) : Out :=
  .next (match s.slot t slot with
    | none => s
    | some x =>
      if x.placedAll && x.live == 0 && x.tables == 0 then
        ((s.modArb t (fun a => { a with slots := Tab.set a.slots slot none })).unpinLines (64 * t + slot)).later [.launchActivate t]
      else s)

-- Steals (R51, R59, R60)

/-- The thief moves to its next victim; past the last one it starts again after 64 sc (R60). -/
def State.nextVictim (s : State) (sp : Nat) : State :=
  s.modSpire sp (fun x =>
    if x.victim + 1 < (victims sp).length then { x with victim := x.victim + 1, pause := 0 } else { x with victim := 0, pause := 0, restart := some 64 })

/-- The sc that an attempt on the thief's k-th victim takes (R60). -/
def stealTime (k : Nat) : Nat := if k < 7 then 8 else 24

/-- A task is ready to be placed in tower t: a saved one, or one of a gang (R60) (DEDUCED, log 89). -/
def State.placeReady (s : State) (t : Nat) : Bool :=
  (s.arb t).slots.any (fun p => match p.2 with
    | some x => (s.nextRestore t x).isSome || s.placeable t p.1 x
    | none => false)

/-- Spire sp is a thief: it has a free context, its own deque holds nothing, and no task is ready to be placed (R51, R60). -/
def State.thief (s : State) (sp : Nat) : Bool :=
  let x := s.spire sp
  (ctxNums.any (fun c => s.takes sp c)) && x.deque.isEmpty && x.restart.isNone && !s.placeReady (towerOf sp)

/-- `stealAttempt`: context c of spire sp tries the tail entry of its present victim, when the attempt has taken its time (R51, R59, R60). A fused-off victim
is passed over (R2) (DESIGN CHOICE, log 89). -/
def execStealAttempt (sp : Fin 128) (c : Fin 8) (s : State) : Out :=
  let x := s.spire sp
  .next (if !s.takes sp c || !s.thief sp || decide (x.pause < stealTime x.victim) then s
    else
      let v := (victims sp).getD x.victim sp
      match (if s.enabled v then (s.spire v).deque.getLast? else none) with
      | none => s.nextVictim sp
      | some d =>
        if !reaches d sp v then s.nextVictim sp
        else
          match (s.launchOf d.ltwr d.lslot).bind (fun l => (s.room sp l).map (fun b => (l, b))) with
          | none => s.nextVictim sp
          | some p =>
            (((s.modSpire v (fun y => { y with deque := y.deque.dropLast })).modSpire sp (fun y => { y with victim := 0, pause := 0 })).startDesc
              sp c p.1 d p.2).dequeLeft (towerOf v))

/-- `stealRestart`: the order starts again once 64 sc have passed (R60). -/
def execStealRestart (sp : Fin 128) (s : State) : Out :=
  .next (s.modSpire sp (fun x => if x.restart = some 0 then { x with restart := none, victim := 0 } else x))

end Sys2Proof.Machine
end

