-- ==== Sys2Proof/Machine/Sm3.lean ====
section
/-! DEFINITION. Machine/Sm3.lean: the SM3 hash of GB/T 32905, which R375, R376, R377 and R454 name and the spec does not define
(PRESUMED, log 6): 512-bit blocks, big-endian words, 64 rounds. -/

namespace Sys2Proof.Machine

/-- A 32-bit word rotated left by k. -/
def rotl32 (x k : Nat) : Nat := (x <<< (k % 32) ||| x >>> ((32 - k % 32) % 32)) % 2 ^ 32

def sm3P0 (x : Nat) : Nat := x ^^^ rotl32 x 9 ^^^ rotl32 x 17
def sm3P1 (x : Nat) : Nat := x ^^^ rotl32 x 15 ^^^ rotl32 x 23

/-- The message with its padding: one bit, zeros, the length in bits as eight bytes. -/
def sm3Pad (m : List Byte) : List Byte :=
  let n := m.length
  let z := (64 - (n + 9) % 64) % 64
  m ++ [0x80] ++ List.replicate z 0 ++ ((List.range 8).map fun k => BitVec.ofNat 8 (8 * n / 256 ^ (7 - k)))

/-- The sixteen words of a block. -/
def sm3Words (b : List Byte) : List Nat :=
  (List.range 16).map fun k => ((b.drop (4 * k)).take 4).foldl (fun a x => a * 256 + x.toNat) 0

/-- The 68 words of a block's expansion, the newest first. -/
def sm3Expand : Nat → List Nat → List Nat
  | 0, w => w
  | n + 1, w =>
    let at_ (k : Nat) : Nat := w.getD (k - 1) 0
    sm3Expand n ((sm3P1 (at_ 16 ^^^ at_ 9 ^^^ rotl32 (at_ 3) 15) ^^^ rotl32 (at_ 13) 7 ^^^ at_ 6) :: w)

/-- Eight chaining words. -/
structure Sm3 where
  a : Nat
  b : Nat
  c : Nat
  d : Nat
  e : Nat
  f : Nat
  g : Nat
  h : Nat
deriving DecidableEq, Repr

/-- One round with words W_j and W_j xor W_(j+4). -/
def Sm3.round (v : Sm3) (j w w4 : Nat) : Sm3 :=
  let t := if j < 16 then 0x79CC4519 else 0x7A879D8A
  let ss1 := rotl32 ((rotl32 v.a 12 + v.e + rotl32 t j) % 2 ^ 32) 7
  let ss2 := ss1 ^^^ rotl32 v.a 12
  let ff := if j < 16 then v.a ^^^ v.b ^^^ v.c else (v.a &&& v.b) ||| (v.a &&& v.c) ||| (v.b &&& v.c)
  let gg := if j < 16 then v.e ^^^ v.f ^^^ v.g else (v.e &&& v.f) ||| ((2 ^ 32 - 1 - v.e) &&& v.g)
  let tt1 := (ff + v.d + ss2 + (w ^^^ w4)) % 2 ^ 32
  let tt2 := (gg + v.h + ss1 + w) % 2 ^ 32
  ⟨tt1, v.a, rotl32 v.b 9, v.c, sm3P0 tt2, v.e, rotl32 v.f 19, v.g⟩

/-- The rounds from `j` on. -/
def Sm3.rounds (v : Sm3) (j : Nat) : List Nat → Sm3
  | w :: w1 :: w2 :: w3 :: w4 :: r => Sm3.rounds (v.round j w w4) (j + 1) (w1 :: w2 :: w3 :: w4 :: r)
  | _ => v

/-- One block. -/
def Sm3.block (v : Sm3) (b : List Byte) : Sm3 :=
  let w := (sm3Expand 52 (sm3Words b).reverse).reverse
  let u := v.rounds 0 w
  ⟨v.a ^^^ u.a, v.b ^^^ u.b, v.c ^^^ u.c, v.d ^^^ u.d, v.e ^^^ u.e, v.f ^^^ u.f, v.g ^^^ u.g, v.h ^^^ u.h⟩

/-- The blocks of a padded message. -/
def Sm3.blocks (v : Sm3) : Nat → List Byte → Sm3
  | 0, _ => v
  | n + 1, m => Sm3.blocks (v.block (m.take 64)) n (m.drop 64)

/-- The 32 bytes of the hash (PRESUMED, log 6). -/
def sm3 (m : List Byte) : List Byte :=
  let p := sm3Pad m
  let v := (⟨0x7380166F, 0x4914B2B9, 0x172442D7, 0xDA8A0600, 0xA96F30BC, 0x163138AA, 0xE38DEE4D, 0xB0FB0E4E⟩ : Sm3).blocks (p.length / 64) p
  [v.a, v.b, v.c, v.d, v.e, v.f, v.g, v.h].flatMap fun w => (List.range 4).map fun k => BitVec.ofNat 8 (w / 256 ^ (3 - k))

end Sys2Proof.Machine
end

