-- ==== Sys2Proof/Machine/Coll.lean ====
section
/-! DEFINITION. Machine/Coll.lean: collectives (R318 to R320, R361 to R363, R454): `coll` at issue, the engine's checks, the four steps and
their data, the value of R361, the commit, the release steps, a disagreement; release tables (R321, R395, R396). -/

namespace Sys2Proof.Machine

-- The descriptor (Table 11-7) as a request carries it

def Req.cOp (r : Req) : Nat := bits (wordAt r.words 0) 0 3
def Req.cAlgn (r : Req) : Bool := bit (wordAt r.words 0) 11
def Req.cRed (r : Req) : Red :=
  match bits (wordAt r.words 0) 14 2 with
  | 0 => .add
  | 1 => .max
  | _ => .min
def Req.cFmtCode (r : Req) : Nat := bits (wordAt r.words 0) 32 5
def Req.cFmt (r : Req) : Fmt := (Fmt.ofCode r.cFmtCode).getD .z8
def Req.cRoot (r : Req) : Nat := bits (wordAt r.words 0) 56 8
def Req.cSrc (r : Req) : Entry := r.words.getD 1 0
def Req.cDst (r : Req) : Entry := r.words.getD 2 0
def Req.cBytes (r : Req) : Nat := wordAt r.words 3
def Req.cSoff (r : Req) : Nat := wordAt r.words 4
def Req.cDoff (r : Req) : Nat := wordAt r.words 5
def Req.cTk (r : Req) : Nat := bits (wordAt r.words 6) 62 2
def Req.cTix (r : Req) : Nat := bits (wordAt r.words 6) 0 32
def Req.cTh (r : Req) : Entry := r.words.getD 7 0
/-- Captures made at issue: pin of SRC, draft entry of DST, allocation base, share, closure, time. -/
def Req.cPin (r : Req) : List Entry := (r.words.drop 16).take 2
def Req.cDraft (r : Req) : List Entry := (r.words.drop 18).take 2
def Req.cTsb (r : Req) : Nat := wordAt r.words 20
def Req.cShare (r : Req) : Nat := wordAt r.words 21
def Req.cCls (r : Req) : Entry := r.words.getD 22 0
def Req.cNs (r : Req) : Nat := wordAt r.words 23
/-- The release fields: REN, step, table. -/
def Req.cRen (r : Req) : Bool := bit (wordAt r.words 12) 16
def Req.cRstep (r : Req) : Nat := bits (wordAt r.words 12) 8 8
def Req.cRtid (r : Req) : Nat := bits (wordAt r.words 12) 0 6

/-- MEMB as one number. -/
def membOf (w : List Entry) : Nat :=
  wordAt w 8 + wordAt w 9 * 2 ^ 64 + wordAt w 10 * 2 ^ 128 + wordAt w 11 * 2 ^ 192
/-- Members in ascending package number. -/
def membersOf (memb : Nat) : List Nat := (List.range 256).filter (bit memb)

/-- The operation combines. -/
def reduces (op : Nat) : Bool := decide (op ≤ 1)

/-- Words of a descriptor that R304 and R319 find bad, on package `pkn` (DEDUCED, log 67). -/
def collBad (pkn : Nat) (w : List Entry) : List (Nat × Bool) :=
  let v (k : Nat) : Nat := wordAt w k
  let op := bits (v 0) 0 3
  let m := (membersOf (membOf w)).length
  let bar := op = 5
  let fmt := (Fmt.ofCode (bits (v 0) 32 5)).getD .z8
  let tgt := targetBad (bits (v 6) 62 2) (bits (v 6) 0 32) (v 7)
  let w0 := outside (v 0) (maskAt 56 8 + maskAt 32 5 + maskAt 14 2 + maskAt 11 1 + maskAt 0 3) || decide (5 < op)
    || (Fmt.ofCode (bits (v 0) 32 5)).isNone || bits (v 0) 14 2 == 3 || (op != 4 && bits (v 0) 56 8 != 0)
    || (op == 4 && !bit (membOf w) (bits (v 0) 56 8)) || (!reduces op && bits (v 0) 14 2 != 0) || (decide bar && bits (v 0) 32 5 != 0)
  let w3 := (decide bar && v 3 != 0) || (reduces op && v 3 * 8 % fmt.width != 0)
    || (op == 1 && v 3 * 8 % (m * fmt.width) != 0) || (op == 3 && v 3 % m != 0)
  [(0, w0), (1, decide bar && v 1 != 0), (2, decide bar && v 2 != 0), (3, w3), (4, decide bar && v 4 != 0), (5, decide bar && v 5 != 0),
    (6, outside (v 6) (maskAt 62 2 + maskAt 0 32) || tgt.1), (7, tgt.2), (8 + pkn / 64, !bit (membOf w) pkn),
    (12, outside (v 12) (if bit (v 12) 16 then maskAt 8 9 + maskAt 0 6 else 0)), (13, v 13 != 0), (14, v 14 != 0), (15, v 15 != 0)]

/-- R318, R320: the descriptor is sampled, the share split with the request raised to at least m. -/
def execColl (p : Src2) (s : State) : Out :=
  .next (s.readS p.a fun off s => s.readS p.b fun q s => s.record off 16 fun w s => s.fields off (collBad s.cfg.pkn w) fun s =>
    s.targetFits (bits (wordAt w 6) 62 2) (bits (wordAt w 6) 0 32) fun s =>
      let x := s.cx
      let m := (membersOf (membOf w)).length
      let ren := bit (wordAt w 12) 16
      let send (share : Nat) (s : State) : State :=
        s.tell (.coll p) (w.getD 1 0) off 0 (w ++ x.capture (w.getD 1 0) ++ x.captureDraft (w.getD 2 0) ++
          [BitVec.ofNat 64 x.res.tsb, BitVec.ofNat 64 share, if ren then x.sys.cls else 0, BitVec.ofNat 64 s.fab.ns])
      if !ren ∨ x.sys.cls = 0 then
        (if 2 ^ 32 ≤ q.toNat then s.raise (causeO 11 6 3 x.sys.cls 0 [(0x40, 8, q.toNat)]) else send 0 s)
      else s.splitShare (if q = 0 then (if m ≤ x.sys.wgt / 2 then 0 else m) else max q.toNat m) send)

-- Runs

def State.collRun (s : State) (id : Nat) : Option CollRun := s.colls.find? (fun a => a.id == id)
def State.modColl (s : State) (a : CollRun) : State := { s with colls := s.colls.map (fun b => if b.id = a.id then a else b) }
/-- The run is over: what was kept for it goes. -/
def State.dropColl (s : State) (a : CollRun) : State :=
  { s with
    colls := s.colls.filter (fun b => b.id != a.id)
    collIn := s.collIn.filter (fun q => !(q.memb == a.memb && q.ix == a.ix))
    collRel := s.collRel.filter (fun q => !(q.memb == a.memb && q.ix == a.ix)) }

/-- A collective fails: no commit and no signal; the weight of its release messages that has come here goes back, and its own share where no message has taken
it (R305, R320) (DEDUCED, log 67). -/
def State.breakColl (s : State) (a : CollRun) : State :=
  let s1 := (s.collRel.filter (fun q => q.memb == a.memb && q.ix == a.ix)).foldl (fun s q => s.sendReturn q.h q.w) s
  let s2 := s1.dropColl a
  if a.r.cRen then s2 else s2.addReturn a.r.sp a.cls a.share

/-- Number of a `coll` among those issued here with its MEMB (R319): issue numbers decide. -/
def State.collRank (s : State) (r : Req) : Nat :=
  let m := membOf r.words
  let mine (q : Req) : Bool := (match q.ins with
    | .coll _ => true
    | _ => false) && membOf q.words == m && decide (q.tag < r.tag) && !s.collIx.contains (m, q.tag)
  (s.collIx.filter (fun p => p.1 == m && decide (p.2 < r.tag))).length
    + ((s.spires.flatMap (fun p => p.2.out) ++ s.towers.flatMap (fun p => p.2.hru.q ++ p.2.hru.miss.map (·.2.2.2))).filter mine).length

/-- The engine gives up before the exchange: the share goes back and the fault is deferred (R305). -/
def State.failColl (s : State) (r : Req) (k : Cause) : State := (s.addReturn r.sp r.cCls r.cShare).failReq r k

/-- The engine's checks of SRC and DST (R319) (DEDUCED, log 67). -/
def State.collCheck (s : State) (t : Nat) (r : Req) : Check :=
  let need (h : Entry) (right : Nat) (k : Obj → Check) : Check :=
    match s.objFor t r.sid 3 h with
    | .error c => .fail c
    | .ok none => .ask (.askObj h)
    | .ok (some o) => match o.checkRights 3 r.sid (needs right (s.elsewhere h)) h with
      | .error c => .fail c
      | .ok _ => k o
  let m := (membersOf (membOf r.words)).length
  let dlen := if r.cOp = 1 then r.cBytes / m else if r.cOp = 2 then r.cBytes * m else r.cBytes
  let red : Check := if reduces r.cOp && !redFmt r.cFmt then .fail (fmtsCause 3 r.cDst r.cFmtCode) else .fine
  let src : Check := if r.cOp = 5 ∨ (r.cOp = 4 ∧ r.cRoot ≠ s.cfg.pkn) then .fine else need r.cSrc rRD fun o =>
    if o.live then .fail (o.kindCause 3 r.cSrc)
    else if r.cPin.headD 0 ≠ 1 then .fail (o.verCause 8 3 r.cSrc [])
    else if o.bytes < r.cSoff + r.cBytes then .fail (ixCause 3 r.cSrc (BitVec.ofNat 64 r.cSoff) 0 0)
    else .fine
  let dst : Check := if r.cOp = 5 then .fine else need r.cDst rWR fun o =>
    if o.live then
      (if o.lkind ≠ 4 then .fail (o.kindCause 3 r.cDst)
       else if r.cDoff < 64 ∨ o.bytes < r.cDoff + dlen then .fail (ixCause 3 r.cDst (BitVec.ofNat 64 r.cDoff) 0 0)
       else .fine)
    else match s.draftCheck r r.cDst o r.cDraft true with
      | .fine => if o.bytes < r.cDoff + dlen then .fail (ixCause 3 r.cDst (BitVec.ofNat 64 r.cDoff) 0 0) else .fine
      | c => c
  match firstBad [src, dst, red] with
  | .fine => s.targetAsk t r r.cTk r.cTh r.cTix
  | x => x

/-- Words that name a match: MEMB and its number. -/
def matchWords (memb ix : Nat) : List Entry :=
  ((List.range 4).map fun k => BitVec.ofNat 64 (memb / 2 ^ (64 * k))) ++ [BitVec.ofNat 64 ix]

/-- The weight of member p of a share W (R320) (DEDUCED, log 51). -/
def relShare (memb w p : Nat) : Nat :=
  let l := membersOf memb
  w / l.length + (if l.head? = some p then w % l.length else 0)

/-- A tracked release message to each member (R320, R360): closure in OBJ, weight in OFF. -/
def State.sendRels (s : State) (t : Nat) (r : Req) (memb ix : Nat) : State :=
  if !r.cRen then s
  else (membersOf memb).foldl (fun s p =>
    let w := relShare memb r.cShare p
    if p = s.cfg.pkn then { s with collRel := s.collRel ++ [⟨memb, ix, p, r.cRtid, r.cRstep, r.cCls, w⟩] }
    else s.sendItem t p 8 { XferHdr.zero with obj := r.cCls, off := w }
      [wordBytes (matchWords memb ix ++ [BitVec.ofNat 64 (r.cRtid + r.cRstep * 2 ^ 8)])] true none (some r) 0) s

/-- The collective engine takes a `coll`; one that waited for a page goes on (DEDUCED, log 67). -/
def State.serveColl (s : State) (t : Nat) (r : Req) : State :=
  if (s.collRun r.tag).isSome then s.later [.collStep r.tag]
  else
    let memb := membOf r.words
    let ix := s.collRank r
    let s0 := if s.collIx.contains (memb, r.tag) then s else { s with collIx := s.collIx ++ [(memb, r.tag)] }
    let r := { r with words := r.words.take 16 ++ s.latePin r r.cSrc r.cPin ++ s.lateDraft r r.cDst r.cDraft ++ r.words.drop 20 }
    match s.collCheck t r with
    | .fail k => s0.failColl r k
    | .ask p => s0.waitSpot t r p
    | .fine =>
      let a : CollRun :=
        { id := r.tag, r := r, tsb := r.cTsb, share := r.cShare, cls := r.cCls, memb := memb, ix := ix, phase := 0, issuedNs := r.cNs
          srcVer := wordAt r.cPin 1, dstVer := wordAt r.cDraft 1, buf := [], segs := [], rels := 0 }
      ({ s0 with colls := s0.colls ++ [a] }.sendRels t r memb ix).later [.collStep r.tag]

-- Source and destination bytes

/-- Aligned 256-byte sectors of a range, each as (first byte, bytes within the range). -/
def sectorsOf (off n : Nat) : List (Nat × Nat) :=
  if n = 0 then []
  else (List.range ((off + n - 1) / 256 - off / 256 + 1)).map fun k =>
    let a := max off ((off / 256 + k) * 256)
    (a, min (off + n) ((off / 256 + k + 1) * 256) - a)

/-- Where byte `off` of a version lies, seen from HRU t, replicas read here where one holds it (R94). -/
def State.versionSpot (s : State) (t sid : Nat) (h : Entry) (ver off : Nat) (write : Bool) : Entry × Spot :=
  match s.objFor t sid 3 h with
  | .error _ => (h, .beyond)
  | .ok none => (h, .askObj h)
  | .ok (some o) =>
    match (if o.sdim = 7 then s.backing t h o ver [] write else .ok (h, [])) with
    | .error p => (h, p)
    | .ok (b, _) =>
      match (if b = h then some o else if s.elsewhere b then s.remoteObj t sid b else s.here b) with
      | some p => (b, if write then s.writeSpot b p ver off else s.byteSpot t b p ver off)
      | none => (b, .askObj b)

/-- Bytes of a range of a version: a page to wait for, sectors of another package to ask for, poison, or the bytes. -/
def State.collSource (s : State) (t : Nat) (a : CollRun) : Except (Option Spot) (List (Nat × Entry × Nat × Nat) × Option Nat × List Byte) :=
  let l := (sectorsOf a.r.cSoff a.r.cBytes).map fun p => (p, (s.versionSpot t a.r.sid a.r.cSrc a.srcVer p.1 false).2)
  match l.find? (fun p => p.2.waits) with
  | some p => .error (some p.2)
  | none =>
    let miss := l.filterMap fun p => match p.2 with
      | .remote q h ver off => if (a.buf.any (fun b => b.1 == h && b.2.1 == off)) then none else some (q, h, ver, off / 256 * 256)
      | _ => none
    let bad := l.findSome? fun p => match p.2 with
      | .mem m => if s.dramPoisoned ((List.range p.1.2).map (m + ·)) then some m else none
      | _ => none
    .ok (miss, bad, l.flatMap fun p => match p.2 with
      | .mem m => ((dense s.mem m p.1.2).toList)
      | .remote _ h _ off => (List.range p.1.2).map fun j => ((a.buf.find? (fun b => b.1 == h && b.2.1 == off + j)).map (·.2.2)).getD 0
      | _ => List.replicate p.1.2 0)

/-- Bytes of a segment (R362). -/
def segLen : Nat := 28672

/-- The segments of a run whose contribution is known; the second and later ones wait for the one before. -/
def CollRun.segsOf (a : CollRun) (pkn : Nat) (data : List Byte) : List CollSeg :=
  let n := max 1 (cdiv a.r.cBytes segLen)
  let mine := reduces a.r.cOp || a.r.cOp = 2 || a.r.cOp = 3 || (a.r.cOp = 4 && a.r.cRoot = pkn)
  (List.range n).map fun k =>
    { seg := k, step := 0, after := a.issuedNs + (if a.r.cAlgn then 512 else 128), sent := []
      part := if mine then [(if reduces a.r.cOp then 256 else pkn, (data.drop (segLen * k)).take segLen)] else []
      known := if a.r.cRen then 2 ^ pkn else 0
      last := none }

-- The steps (R361, R362)

def octant (p : Nat) : Nat := p / 32
/-- Octant masks of steps 2 to 4. -/
def stepMask (k : Nat) : Nat := [0, 2, 4, 7].getD k 0
/-- Occupied octants. -/
def occupied (memb : Nat) : List Nat := ((membersOf memb).map octant).eraseDups
def lowestIn (memb g : Nat) : Nat := ((membersOf memb).find? (fun p => octant p == g)).getD 0

/-- The octant that sends to octant g in step k (R362), a stand-in where the partner is empty; none where the step is skipped for g. -/
def sourceOctant (memb k g : Nat) : Option Nat :=
  let o := occupied memb
  let h := g ^^^ stepMask k
  if o.contains h then some h
  else
    let l := ([[0], [0], [0, 2], [0, 2, 4, 6]].getD k []).map (h ^^^ ·)
    (List.range 8).find? (fun x => l.contains x && o.contains x)

/-- Members whose data member p awaits in step k (0 to 3). -/
def collNeeds (memb k p : Nat) : List Nat :=
  if k = 0 then (membersOf memb).filter (fun q => octant q == octant p && q != p)
  else match sourceOctant memb k (octant p) with
    | some h => [lowestIn memb h]
    | none => []

/-- Members to which member p sends in step k: its own octant in step 1; later, as the lowest-numbered of its octant, every octant that
takes its partial. -/
def collDests (memb k p : Nat) : List Nat :=
  if k = 0 then collNeeds memb 0 p
  else if lowestIn memb (octant p) ≠ p then []
  else (membersOf memb).filter (fun q => octant q != octant p && sourceOctant memb k (octant q) == some (octant p))

/-- Elements combined pairwise under R291. -/
def redBytes (op : Red) (f : Fmt) : Nat → List Byte → List Byte → List Byte
  | 0, _, _ => []
  | n + 1, a, b =>
    let w := f.width / 8
    leBytes (redCode op f (ofBytes (a.take w)) (ofBytes (b.take w))) w ++ redBytes op f n (a.drop w) (b.drop w)

/-- Two partials: combined, or joined; an empty one leaves the other unchanged (R361). -/
def joinParts (r : Req) (a b : List (Nat × List Byte)) : List (Nat × List Byte) :=
  if reduces r.cOp then
    match a, b with
    | [(_, x)], [(_, y)] => [(256, redBytes r.cRed r.cFmt (x.length * 8 / r.cFmt.width) x y)]
    | [], y => y
    | x, _ => x
  else a ++ b.filter (fun p => !a.any (fun q => q.1 == p.1))

/-- The digest of R454. -/
def Req.cDigest (r : Req) : Nat :=
  let w0 := wordAt r.words 0
  let keep := bits w0 56 8 * 2 ^ 56 + bits w0 32 5 * 2 ^ 32 + bits w0 14 2 * 2 ^ 14 + bits w0 0 3
  ofBytes ((sm3 (wordBytes ([BitVec.ofNat 64 keep, r.words.getD 3 0] ++ (r.words.drop 8).take 4))).take 8)

/-- The flits of one part: in the first the mask, the key and 72 bytes, in the second the rest (R352; log 21). -/
def partSegs (q : CollPart) : List (List Byte) :=
  let key := (matchWords q.memb q.ix).take 4 ++
    [BitVec.ofNat 64 (q.ix % 2 ^ 32 + q.seg * 2 ^ 32 + q.step * 2 ^ 48), BitVec.ofNat 64 (q.origin + q.total * 2 ^ 16), BitVec.ofNat 64 q.digest]
    ++ (matchWords q.known 0).take 4
  (leBytes (2 ^ q.data.length - 1) 32 ++ wordBytes key ++ q.data.take 72) :: chunks 192 1 (q.data.drop 72)

/-- The part that flits carry, from sender `peer` at offset `off`. -/
def partOf (peer off : Nat) (segs : List (List Byte)) : CollPart :=
  let b := segs.headD []
  let w := bytesWords 11 (b.drop 32)
  let n (k : Nat) : Nat := wordAt w k
  { memb := n 0 + n 1 * 2 ^ 64 + n 2 * 2 ^ 128 + n 3 * 2 ^ 192, ix := bits (n 4) 0 32, peer := peer, seg := bits (n 4) 32 16
    step := bits (n 4) 48 8, origin := bits (n 5) 0 16, total := bits (n 5) 16 32, off := off, digest := n 6
    known := n 7 + n 8 * 2 ^ 64 + n 9 * 2 ^ 128 + n 10 * 2 ^ 192, data := b.drop 120 ++ (segs.drop 1).flatten }

/-- Parts of one exchange: sectors of each contribution; one empty part where there is nothing to move. -/
def CollRun.partsOf (a : CollRun) (pkn : Nat) (g : CollSeg) : List CollPart :=
  let cut := g.part.flatMap fun p => ((List.range (cdiv p.2.length 256)).zip (chunks 256 (cdiv p.2.length 256) p.2)).map fun c =>
    (p.1, 256 * c.1, c.2)
  let l := if cut.isEmpty then [(256, 0, [])] else cut
  l.map fun c =>
    { memb := a.memb, ix := a.ix, peer := pkn, seg := g.seg, step := g.step, origin := c.1, total := l.length, off := c.2.1
      digest := a.r.cDigest, known := g.known, data := c.2.2 }

/-- A part to a member. -/
def State.sendPart (s : State) (t q : Nat) (r : Req) (p : CollPart) : State :=
  s.sendItem t q 7 { XferHdr.zero with off := p.off, fmt := r.cFmtCode } (partSegs p) true none (some r) 0

/-- What member `q` sent for a step of a segment, once every part of it is here. -/
def State.received (s : State) (a : CollRun) (seg step q : Nat) : Option (List (Nat × List Byte) × Nat) :=
  let l := s.collIn.filter fun p => p.memb == a.memb && p.ix == a.ix && p.seg == seg && p.step == step && p.peer == q
  match l with
  | [] => none
  | p :: _ =>
    if l.length < p.total then none
    else
      let origins := ((l.filter (fun p => p.data != [])).map (·.origin)).eraseDups
      let bytes (o : Nat) : List Byte :=
        let m := l.filter (fun p => p.origin == o)
        (List.range m.length).flatMap fun k => ((m.find? (fun p => p.off == 256 * k)).map (·.data)).getD []
      some (origins.map (fun o => (o, bytes o)), l.foldl (fun k p => k ||| p.known) 0)

/-- Flits of the collective wait to be sent. -/
def State.collPending (s : State) (a : CollRun) : Bool :=
  s.fab.outq.any fun f => f.h.kind == 7 && s.fab.items.any (fun i => i.peer == f.h.edst && i.rtag == f.x.rtag && (match i.req with
    | some r => r.tag == a.id
    | none => false))

/-- One step of one segment: what may be sent now goes; where everything of the step is sent and received the partial is formed, and the next step
takes a slot that begins at least 1,024 ns after the one in which this step's last flit was sent. Step 1 begins in a slot 0 though its octant holds no
other member (DEDUCED, log 67). The answer says whether the segment moved on. -/
def State.segStep (s : State) (t : Nat) (a : CollRun) (g : CollSeg) (ready : Bool) : State × CollSeg × Bool :=
  let pkn := s.cfg.pkn
  let now := s.fab.ns
  let start := now / 512 * 512
  let slot := now / 512 % 8
  let dests := collDests a.memb g.step pkn
  let may := ready && decide (now % 512 < 480) && decide (g.after ≤ (if g.step = 0 ∧ !a.r.cAlgn then now / 32 * 32 else start))
  let go := if may then dests.filter (fun q => !g.sent.contains q && slot == (octant pkn ^^^ octant q)) else []
  let s1 := go.foldl (fun s q => (a.partsOf pkn g).foldl (fun s p => s.sendPart t q a.r p) s) s
  let wait := s1.collPending a
  let begins := may && g.step == 0 && slot == 0 && g.last.isNone
  let g1 := { g with
    sent := g.sent ++ go
    last := if !go.isEmpty || begins || (g.last.isSome && wait) then some start else g.last }
  let need := collNeeds a.memb g.step pkn
  let got := need.map fun q => (q, s1.received a g.seg g.step q)
  if ready && (g.step != 0 || g1.last.isSome) && !wait && dests.all (fun q => g1.sent.contains q) && got.all (fun p => p.2.isSome) then
    let parts : List (Nat × List (Nat × List Byte)) := got.filterMap fun p => p.2.map fun x => (p.1, x.1)
    let part := if g.step = 0 then
        ((membersOf a.memb).filterMap fun p => if p = pkn then some g.part else (parts.find? (fun q => q.1 == p)).map (·.2)).foldl
          (joinParts a.r) []
      else parts.foldl (fun x p => joinParts a.r x p.2) g.part
    let known := got.foldl (fun k p => k ||| (p.2.map (·.2)).getD 0) g.known
    (s1, { g1 with step := g.step + 1, sent := [], part := part, known := known, after := max (g1.last.getD 0 + 1024) now }, true)
  else (s1, g1, false)

/-- Up to `n` steps of every segment; a segment starts in the slot 0 after the first step of the one before (R362). -/
def State.advanceSegs (s : State) (t : Nat) (a : CollRun) : Nat → State × List CollSeg
  | 0 => (s, a.segs)
  | n + 1 =>
    let r := a.segs.foldl (fun (x : State × List CollSeg × Bool) g =>
      let prev := x.2.1.getLast?
      let ready := match prev with
        | none => true
        | some p => decide (1 ≤ p.step)
      let g0 := match prev with
        | some p => if 1 ≤ p.step ∧ g.step = 0 ∧ g.last.isNone then { g with after := max g.after (p.last.getD 0 + 512) } else g
        | none => g
      if g.step = 4 then (x.1, x.2.1 ++ [g], x.2.2)
      else
        let y := x.1.segStep t a g0 ready
        (y.1, x.2.1 ++ [y.2.1], x.2.2 || y.2.2)) (s, [], false)
    if r.2.2 then State.advanceSegs r.1 t { a with segs := r.2.1 } n else (r.1, r.2.1)

-- Disagreement (R454)

/-- The collective is abandoned: no commit, no signal but a poisoned future, tracked weight returned, a deferred FABRIC/0x0C;
the other members are told. -/
def State.disagree (s : State) (t : Nat) (a : CollRun) (member digest : Nat) : State :=
  let s2 := s.breakColl a
  let note : CollPart :=
    { memb := a.memb, ix := a.ix, peer := s.cfg.pkn, seg := 0, step := 7, origin := member, total := 1, off := 0, digest := a.r.cDigest
      known := 0, data := leBytes digest 8 }
  let s3 := ((membersOf a.memb).filter (· != s.cfg.pkn)).foldl (fun s q => s.sendPart t q a.r note) s2
  (s3.signalEnd t a.r a.r.cTk a.r.cTh a.r.cTix (BitVec.ofNat 64 member) true).deferTrap a.r.sp a.r.c a.r.tid
    (.mk' 12 0x0C 3 [(0x40, 1, member), (0x48, 8, digest)]) a.r.off

/-- A digest received that differs from the run's own: which member, and its digest. -/
def State.disagreement (s : State) (a : CollRun) : Option (Nat × Nat) :=
  let d := a.r.cDigest
  (s.collIn.filter (fun p => p.memb == a.memb && p.ix == a.ix)).findSome? fun p =>
    if p.digest ≠ d then some (p.peer, p.digest)
    else if p.step = 7 then some (p.origin, ofBytes p.data)
    else none

-- The commit

/-- What this member's destination receives: (offset, bytes) (R319). -/
def CollRun.outcome (a : CollRun) (pkn : Nat) : List (Nat × List Byte) :=
  let l := membersOf a.memb
  let whole (o : Nat) : List Byte := a.segs.flatMap fun g => ((g.part.find? (fun p => p.1 == o)).map (·.2)).getD []
  let chunk := a.r.cBytes / max 1 l.length
  let k := (l.takeWhile (· != pkn)).length
  match a.r.cOp with
  | 0 => [(a.r.cDoff, whole 256)]
  | 1 => [(a.r.cDoff, ((whole 256).drop (chunk * k)).take chunk)]
  | 2 => ((List.range l.length).zip l).map fun p => (a.r.cDoff + p.1 * a.r.cBytes, whole p.2)
  | 3 => ((List.range l.length).zip l).map fun p => (a.r.cDoff + p.1 * chunk, ((whole p.2).drop (chunk * k)).take chunk)
  | 4 => [(a.r.cDoff, whole a.r.cRoot)]
  | _ => []

/-- The bytes that the member's target is signalled with. -/
def CollRun.written (a : CollRun) (pkn : Nat) : Nat :=
  if a.r.cOp = 5 then 16 else ((a.outcome pkn).map (fun p => p.2.length)).foldl (· + ·) 0

/-- The outcome cut into sectors. -/
def CollRun.commits (a : CollRun) (pkn : Nat) : List (Nat × List Byte) :=
  (a.outcome pkn).flatMap fun p => (sectorsOf p.1 p.2.length).map fun q => (q.1, (p.2.drop (q.1 - p.1)).take q.2)

/-- The member's commits: pages made private first, then each sector here or sent to its holder (R319, R121). -/
def State.collCommit (s : State) (t : Nat) (a : CollRun) : State :=
  let pkn := s.cfg.pkn
  let spotOf (s : State) (off : Nat) : Entry × Spot := s.versionSpot t a.r.sid a.r.cDst a.dstVer off true
  let l := a.commits pkn
  match s.here a.r.cDst with
  | some o =>
    match (if o.live then Check.fine else s.draftCheck { a.r with tag := a.id } a.r.cDst o a.r.cDraft false) with
    | .fail k => (s.breakColl a).deferTrap a.r.sp a.r.c a.r.tid k a.r.off
    | _ => go s o.live spotOf l
  | none => go s false spotOf l
where
  go (s : State) (live : Bool) (spotOf : State → Nat → Entry × Spot) (l : List (Nat × List Byte)) : State :=
    let ver := if live then 0 else a.dstVer
    match (l.map (fun p => (spotOf s p.1).2)).find? Spot.waits with
    | some p => s.waitSpot t a.r p
    | none =>
      if !live && s.earlierDraft a.r.cDst a.r.tid a.r.tag then s.later [.collStep a.id]
      else match l.foldl (fun (x : Ready) p => match x with
          | .go s =>
            let b := (spotOf s p.1).1
            if s.elsewhere b then .go s else s.readyPage t a.r b ver p.1
          | y => y) (.go s) with
      | .pool => s.holdPool t a.r 4 t
      | .wait s1 => s1
      | .go s1 =>
        let s2 := l.foldl (fun s p =>
          match spotOf s p.1 with
          | (b, .mem m) =>
            let s1 := (if live then s else s.flushRange b ver p.1 p.2.length).dramPut (((List.range p.2.length).map (m + ·)).zip p.2)
            (match s1.here b with
              | some o => s1.addArv b o p.2.length
              | none => s1)
          | (_, .remote q h v off) =>
            s.sendItem t q 3 { XferHdr.zero with obj := h, ver := v, off := off / 256 * 256 }
              (commitSegs (((List.range p.2.length).map (off + ·)).zip p.2)) true (some a.id) (some a.r) p.2.length
          | _ => s) s1
        (s2.modColl { a with phase := 3 }).later [.collStep a.id]

-- The event

/-- `collStep`: the collective goes on as far as the slot and what has arrived allow: it reads its source, exchanges, commits, makes
its release pushes in ascending issuer, and signals its target (R361, R362, R396). -/
def execCollStep (c : Nat) (s : State) : Out :=
  .next (match s.collRun c with
    | none => s
    | some a =>
      let t := towerOf a.r.sp
      let pkn := s.cfg.pkn
      match (if a.phase ≤ 1 then s.disagreement a else none) with
      | some p => s.disagree t a p.1 p.2
      | none =>
        match a.phase with
        | 0 =>
          if a.r.cOp = 5 ∨ (a.r.cOp = 4 ∧ a.r.cRoot ≠ pkn) then
            (s.modColl { a with phase := 1, segs := a.segsOf pkn [] }).later [.collStep c]
          else match s.collSource t a with
            | .error (some p) => s.waitSpot t a.r p
            | .error none => s
            | .ok (miss, bad, data) =>
              match bad with
              | some m => (s.breakColl a).deferTrap a.r.sp a.r.c a.r.tid
                  (causeO 13 2 3 a.r.cSrc a.srcVer [(0x40, 1, if 2 ^ 39 ≤ m then 6 else 5), (0x48, 8, m)]) a.r.off
              | none =>
                if miss.isEmpty then (s.modColl { a with phase := 1, segs := a.segsOf pkn data }).later [.collStep c]
                else miss.foldl (fun s m =>
                  if s.fab.items.any (fun i => i.op == some c && i.flits.any (fun f => f.x.obj == m.2.1 && f.x.off == m.2.2.2)) then s
                  else s.sendItem t m.1 1 { XferHdr.zero with obj := m.2.1, ver := m.2.2.1, off := m.2.2.2 } [[]] false (some c) (some a.r) 0) s
        | 1 =>
          let r := s.advanceSegs t a 5
          let b := { a with segs := r.2 }
          if b.segs.all (fun g => g.step == 4) then ((r.1.modColl { b with phase := 2 })).later [.collStep c] else r.1.modColl b
        | 2 => s.collCommit t a
        | 3 =>
          let known := a.segs.foldl (fun k g => k ||| g.known) 0
          let mine := s.collRel.filter (fun q => q.memb == a.memb && q.ix == a.ix)
          let issuers := (membersOf a.memb).filter (bit known)
          if !s.quiet c || !issuers.all (fun p => mine.any (fun q => q.peer == p)) then s
          else
            let push := issuers.filterMap (fun p => (mine.find? (fun q => q.peer == p)).map fun q => (⟨c, q.rtid, q.rstep, q.h, q.w, false⟩ : RelPush))
            ({ s.modColl { a with phase := 4, rels := push.length } with relq := s.relq ++ push }).later
              (if push.isEmpty then [.collStep c] else push.map (fun _ => .releaseStepPush))
        | _ =>
          if a.rels ≠ 0 then s
          else
            let n := a.written pkn
            ((s.dropColl a).signal t a.r a.tsb a.r.cTk a.r.cTix a.r.cTh a.r.cTix n c).signalEnd t a.r a.r.cTk a.r.cTh a.r.cTix
              (BitVec.ofNat 64 n) false)

/-- `releaseStepPush`: one issuer's release step at this package: the entries of its step are pushed with its closure and this member's weight, after a
borrow where the weight is smaller than their number; with no entry the weight is returned through the closure's home (R63, R320, R396). The pushes after it wait for
a borrow that is under way, so that they keep their order. -/
def execReleaseStepPush (s : State) : Out :=
  .next (match s.relq with
    | [] => s
    | p :: r =>
      if p.asked then s
      else
      let s1 := { s with relq := r, relDone := if s.relDone.contains p.rstep then s.relDone else s.relDone ++ [p.rstep] }
      let n := (s1.stepEntries p.rtid p.rstep).length
      if n = 0 then (s1.sendReturn p.h p.w).relMade p.run
      else if p.h = 0 ∨ n ≤ p.w then (s1.pushStep p.rtid p.rstep p.h p.w).relMade p.run
      else if s1.elsewhere p.h then
        let q : Req := ⟨.releaseStepPush, 0, 8, 0, 0, 0, 3, 0, p.h, BitVec.ofNat 64 p.w, 0,
          [BitVec.ofNat 64 n, BitVec.ofNat 64 p.rtid, BitVec.ofNat 64 p.rstep, BitVec.ofNat 64 p.run], 0⟩
        { s1 with relq := { p with asked := true } :: r }.sendLive 0 q p.h true
      else
        let b := s1.borrowLaunch p.h p.w n
        (b.1.pushStep p.rtid p.rstep p.h b.2).relMade p.run)

-- Release tables (R321)

/-- A loaded table bound to a slot is gone from it. -/
def State.unbindTable (s : State) (n : Nat) : State :=
  match s.relTabs.find? (fun p => p.1 == n) with
  | none => s
  | some (_, t) =>
    ({ s with relTabs := Tab.del s.relTabs n }.modSlot t.ltwr t.lslot (fun y => { y with tables := y.tables - 1 })).later
      [.launchRetire (Fin.ofNat 4 t.ltwr) (Fin.ofNat 64 t.lslot)]

/-- Entry k of a table's words is malformed. -/
def relEntryBad (w : List Entry) : Bool :=
  let w2 := wordAt w 2
  wordAt w 1 != 0 || outside w2 (maskAt 50 2 + maskAt 40 8 + maskAt 0 7) || bits w2 50 2 == 3 || wordAt w 3 != 0
    || (List.range 4).any (fun k => wordAt w (12 + k) != 0)

/-- The first malformed record of a table, by its offset. -/
def relTableBad (n : Nat) (w : List Entry) : Option Nat :=
  if bits (wordAt w 0) 16 48 ≠ 0 ∨ n = 0 ∨ 1024 < n ∨ (List.range 15).any (fun k => wordAt w (k + 1) != 0) then some 0
  else ((List.range n).find? (fun k => relEntryBad ((w.drop (16 * (k + 1))).take 16))).map (fun k => 128 * (k + 1))

/-- Entry of a table: step, spire, descriptor. -/
def relEntry (ltwr lslot : Nat) (w : List Entry) : Nat × Nat × Desc :=
  let w2 := wordAt w 2
  (bits w2 40 8, bits w2 0 7,
    { cver := bits (wordAt w 0) 32 32, entry := bits (wordAt w 0) 0 32, clsh := 0, sreach := bits w2 50 2, pois := false, ltwr := ltwr
      lslot := lslot, wgt := 0, tc := recTc w, args := recArgs w, pdet := 0, rol := 0 })

/-- `rel.ld` at the collective engine: the table is read once, replaces table T and holds the issuing task's launch slot (R321, R395). -/
def State.serveRelLd (s : State) (t : Nat) (r : Req) : State :=
  let n := bits r.b.toNat 0 6
  if r.a = 0 then (s.unbindTable n).answer r.sp r.c r.tid r.tag (.s 0)
  else
    let bad (off : Nat) : State := s.failReq r (causeO 8 9 3 r.a 0 [(0x40, 8, off)])
    match s.readTable t r r.a 0 1 2 with
    | .fail k => s.failReq r k
    | .wait s1 => s1
    | .words w0 =>
      let nent := bits (wordAt w0 0) 0 16
      if nent = 0 ∨ 1024 < nent then bad 0
      else match s.readTable t r r.a 0 (cdiv (nent + 1) 2) 2 with
        | .fail k => s.failReq r k
        | .wait s1 => s1
        | .words w =>
          match relTableBad nent w with
          | some off => bad off
          | none =>
            let lt := wordAt r.words 0
            let ls := wordAt r.words 1
            let tab : RelTab := ⟨lt, ls, (List.range nent).map (fun k => relEntry lt ls ((w.drop (16 * (k + 1))).take 16))⟩
            let s1 := s.unbindTable n
            ({ s1 with relTabs := Tab.set s1.relTabs n tab }).answer r.sp r.c r.tid r.tag (.s (BitVec.ofNat 64 nent))

end Sys2Proof.Machine
end

