-- ==== Sys2Proof/Machine/Matrix.lean ====
section
/-! DEFINITION. Machine/Matrix.lean: the matrix engine (spec/09): issue of the M-class operations (R254 to R256), their effects in
engine order (R257 to R272), `mbar` (R273), occupancy and busy bits (R187, Table 06-8), the fetches of `mma.h` and `lat.ldh`
(R264, R265). -/

namespace Sys2Proof.Machine

-- Issue

/-- What every M-class operation captures at its issue. -/
def State.mop (s : State) (i : Instr) : MOp :=
  let x := s.cx
  { ins := i, c := s.iss.c, tid := x.res.tid, sid := x.sys.sid, off := s.iss.off, sc := s.iss.num, d := 0, l := 0, a := 0
    b := 0, h := 0, ver := 0, fe := x.fentry x.ftIndex, nvr := x.sys.nvr, swz := x.sys.tsw, rm := .rne, seed := x.sys.seed
    sctr := s.sctrNow, nxe := x.sys.nxe, xlh := x.sys.xlh, bar := none, vec := 0, tsb := x.res.tsb, tsp := x.res.tsp, lck := x.res.lck
    tc0 := x.tc.getD 0 0, tc1 := x.tc.getD 1 0, left := none, arrived := true, num := s.fresh
    noff := x.res.noff, data := none }

/-- The operation enters the engine's queue of four; it stalls while the queue is full or a tile or latch it touches is busy;
it sets the busy bits of what it writes (R55, R187). It takes two numbers: its own, and that of its appends. `touch` and `writes` list (is latch, absolute number). -/
def State.enqueue (s : State) (m : MOp) (touch writes : List (Bool × Nat)) (k : State → State) : State :=
  let y := s.spire s.iss.sp
  if s.iss.bad then s
  else if 4 ≤ y.engine.length then s.stallWith .engineFull
  else if y.busy.any (fun b => touch.contains (b.latch, b.n)) then s.stallWith (.busy touch)
  else k (s.modSpire s.iss.sp (fun y => { y with
    engine := y.engine ++ [m], busy := y.busy ++ writes.map (fun w => ⟨w.1, w.2, m.c, m.tid, none⟩) })).newId.newId

/-- A tile name of the task as an absolute tile: BOUNDS/0x02 beyond the allocation (R113, R256). -/
def State.tileOf (s : State) (d : Nat) (k : Nat → State → State) : State :=
  if s.cx.res.accN ≤ d then s.raise (.mk' 4 2 s.iss.slot [(0x40, 1, d)]) else k (s.cx.res.accB + d) s
/-- The same for a latch name. -/
def State.latchOf (s : State) (l : Nat) (k : Nat → State → State) : State :=
  if s.cx.res.latN ≤ l then s.raise (.mk' 4 2 s.iss.slot [(0x40, 1, l)]) else k (s.cx.res.latB + l) s

/-- A tile-store region of `n` bytes at an offset aligned to `al` (R256) (DEDUCED, log 33). -/
def State.region (s : State) (off : Entry) (al n : Nat) (k : Nat → State → State) : State :=
  let e := off.toNat
  if e % al ≠ 0 ∨ !inTs s.cx.res.tsp e n then s.raiseTs e else s.awake s.cx.sys.tsw (pagesOf e n) fun s => k e s

-- `mma` (R258 to R262)

/-- What an `mma` computes: formats, s32 or replacing accumulation, scale exponent, K, `.zs`, and the transposed A. -/
structure MmaInfo where
  a : Fmt
  b : Fmt
  s32 : Bool
  repl : Bool
  sexp : Int
  k : Nat
  zs : Bool
  ta : Bool
deriving DecidableEq, Repr

/-- Formats and accumulation of a pair code, or of a captured entry (R259). -/
def mmaPair (ft : Bool) (pair : Fin 16) (f : FEnt) (k : Option Nat) (zs ta : Bool) : MmaInfo :=
  let a := if ft then (Fmt.ofCode f.afmt).getD .z8 else (pairOf pair).1
  let kk := k.getD (kmaxOf a.width)
  if ft then ⟨a, (Fmt.ofCode f.bfmt).getD .z8, f.acch == 2, f.acch == 1, if f.scs = 1 then f.sexp else 0, kk, zs, ta⟩
  else ⟨a, (pairOf pair).2.1, (pairOf pair).2.2, false, 0, kk, zs, ta⟩

def MOp.mma (m : MOp) : MmaInfo :=
  match m.ins with
  | .mmaTs _ _ ta _ zs ft pair k => mmaPair ft pair m.ent (some (32 * (k.val + 1))) zs ta
  | .mmaV _ _ _ _ zs ft pair => mmaPair ft pair m.ent none zs false
  | .mmaH _ _ _ zs k => mmaPair true 0 m.ent (some (32 * (k.val + 1))) zs false
  | _ => mmaPair false 0 m.ent none false false

/-- Bytes of A in the tile store (R260). -/
def MmaInfo.aBytes (i : MmaInfo) : Nat := 128 * i.k * i.a.width / 8 + (if i.a = .q4 then 4 * i.k else 0)

/-- Occupancy of Table 06-8. -/
def MmaInfo.occupancy (i : MmaInfo) : Nat :=
  if i.a = .f32 then 3 * i.k else cdiv i.k (if i.a.width = 16 then 1 else if i.a.width = 8 then 2 else 4)

def execMmaTs (d : Fin 32) (a : SrcS) (ta : Bool) (l : Fin 4) (zs ft : Bool) (pair k : Fin 16) (s : State) : Out :=
  .next (s.readS a fun off s =>
    let m := s.mop (.mmaTs d a ta l zs ft pair k)
    s.region off 256 m.mma.aBytes fun e s => s.tileOf (s.accD d) fun d s => s.latchOf l fun l s =>
      s.enqueue { m with a := e, d := d, l := l } [(false, d), (true, l)] [(false, d)] id)

def execMmaV (d : Fin 32) (a : SrcV) (rp : Fin 64) (l : Fin 4) (zs ft : Bool) (pair : Fin 16) (s : State) : Out :=
  .next (s.readV a fun v s =>
    let m := s.mop (.mmaV d a rp l zs ft pair)
    s.tileOf (s.accD d) fun d s => s.latchOf l fun l s =>
      s.enqueue { m with vec := v, d := d, l := l } [(false, d), (true, l)] [(false, d)] id)

/-- The descriptor of an object tile that an M-class operation reads or writes: 128 rows, `cols` columns, format, target. -/
def tileDesc (h : Entry) (fmt cols tk tix : Nat) : List Entry :=
  [h, 0, 0, 0, BitVec.ofNat 64 (128 * 2 ^ 32 + fmt * 2 ^ 16 + cols), 0, BitVec.ofNat 64 (tk * 2 ^ 62 + tix), 0, 0, 0, 0, 0, 0, 0, 0, 0]

/-- The request that takes an operation's object tile to the HRU (R265). -/
def State.fetchReq (s : State) (m : MOp) (d : List Entry) : State :=
  let x := s.cx
  s.request m.ins m.h m.b 0 (d ++ x.capture m.h ++ x.captureDraft m.h
    ++ [BitVec.ofNat 64 x.res.tsb, BitVec.ofNat 64 x.res.tsp, if x.res.lck then 1 else 0]) m.num

/-- The handle must be pinned (R263). -/
def State.pinned (s : State) (h : Entry) (k : State → State) : State :=
  if s.cx.hasPin h then k s
  else s.raise { s.versionCause 8 h with slot := 2 }

def execMmaH (d : Fin 32) (p : Src2) (l : Fin 4) (zs : Bool) (k : Fin 16) (s : State) : Out :=
  .next (s.readS p.a fun h s => s.readS p.b fun ix s => s.pinned h fun s => s.tileOf (s.accD d) fun d' s => s.latchOf l fun l' s =>
    let m := { s.mop (.mmaH d p l zs k) with h := h, b := ix, d := d', l := l', arrived := false }
    s.enqueue m [(false, d'), (true, l')] [(false, d')] fun s => s.fetchReq m (tileDesc h m.ent.afmt m.mma.k 0 0))

-- Latches (R267)

/-- Bytes that `lat.ld` reads: 32 KiB, and for q4 the scale plane after them. -/
def latRegion (t : Fmt) : Nat := if t = .q4 then 0x8800 else 0x8000

def execLatLd (l : Fin 4) (a : SrcS) (tr : Bool) (t : Fmt) (s : State) : Out :=
  .next (s.readS a fun off s => s.region off 256 (latRegion t) fun e s => s.latchOf l fun l' s =>
    s.enqueue { s.mop (.latLd l a tr t) with a := e, l := l' } [(true, l')] [(true, l')] id)

def execLatLdh (l : Fin 4) (p : Src2) (s : State) : Out :=
  .next (s.readS p.a fun h s => s.readS p.b fun ix s => s.pinned h fun s => s.latchOf l fun l' s =>
    let m := { s.mop (.latLdh l p) with h := h, b := ix, l := l', arrived := false }
    s.enqueue m [(true, l')] [(true, l')] fun s => s.fetchReq m (tileDesc h 9 128 0 0))

def execLatClr (l : Fin 4) (s : State) : Out :=
  .next (s.latchOf l fun l' s => s.enqueue { s.mop (.latClr l) with l := l' } [(true, l')] [(true, l')] id)

-- Accumulator tiles (R268)

def execAclr (d : Fin 32) (s : State) : Out :=
  .next (s.tileOf (s.accD d) fun d' s => s.enqueue { s.mop (.aclr d) with d := d' } [(false, d')] [(false, d')] id)

def execAload (d : Fin 32) (a : SrcS) (t : Fmt) (s : State) : Out :=
  .next (s.readS a fun off s => s.region off 256 (accWords * t.width / 8) fun e s => s.tileOf (s.accD d) fun d' s =>
    s.enqueue { s.mop (.aload d a t) with a := e, d := d' } [(false, d')] [(false, d')] id)

/-- A row of the tile as a deferred vector result. -/
def execAmovV (v : Fin 16) (a : Fin 32) (row : Fin 128) (s : State) : Out :=
  .next (s.tileOf (s.accA a) fun d s =>
    let m := { s.mop (.amovV v a row) with d := d }
    s.enqueue m [(false, d)] [] fun s => s.expect (.v v) 6 m.num)

def execAstat (d a : Fin 32) (s : State) : Out :=
  .next (s.tileOf (s.accA a) fun t s =>
    let m := { s.mop (.astat d a) with d := t }
    s.enqueue m [(false, t)] [] fun s => s.expect (.s d) 6 m.num)

def execAstatClr (d k : Fin 32) (s : State) : Out :=
  .next (s.tileOf (s.accD d) fun d' s => s.enqueue { s.mop (.astatClr d k) with d := d' } [(false, d')] [(false, d')] id)

-- Drains (R269 to R271)

/-- The rounding that a drain captures; a stochastic one takes one SCTR value (R152, R270). -/
def State.drainRm (s : State) (m : MOp) : Rm :=
  match m.ins with
  | .adrain _ _ _ _ _ ft r _ => s.cx.mode (if ft then (Rm.ofCode m.ent.drnd).getD .rne else r)
  | _ => s.cx.mode ((Rm.ofCode m.ent.drnd).getD .rne)

def execAdrain (d : Fin 32) (a : SrcS) (is : Bool) (bt : BT) (sat ft : Bool) (r : Rm) (t : Fmt) (s : State) : Out :=
  .next (s.readS a fun off s =>
    let m := s.mop (.adrain d a is bt sat ft r t)
    let f := m.drainTo.fmt
    s.region off 256 (accWords * f.width / 8 + (if f = .q4 then 0x200 else 0)) fun e s => s.tileOf (s.accD d) fun d' s =>
      s.enqueue { m with a := e, d := d', rm := s.drainRm m } [(false, d')] [] fun s => s.drawn (s.drainRm m))

/-- The handle of a versioned object must be in the draft set (R271). Of a handle that is not, and whose entry this package does not know, the entry is
asked for and the bundle stalls; one that its home does not give is left to the checks at the HRU (R275) (DEDUCED, log 31). -/
def State.drafted (s : State) (h : Entry) (k : State → State) : State :=
  let t := towerOf s.iss.sp
  let out : State := s.raise { s.versionCause 1 h with slot := 2 }
  if s.cx.hasDraft h then k s
  else if s.elsewhere h then
    match s.remoteObj t s.cx.sys.sid h with
    | some o => if o.live then k s else out
    | none =>
      if ((s.hru t).cached h (2 ^ 32 + 2) 0).isSome then k (s.modHru t (fun u => u.forget (fun x v _ => x == h && v == 2 ^ 32 + 2)))
      else
        let q : Req := { ownReq (.objDesc 0 ⟨0, false⟩ 0) t s.cx.sys.sid h 0 0 [] with sid := s.cx.sys.sid }
        (s.stallWith (.entry h)).askHru t q h 0 0 0
  else match s.here h with
    | some o => if o.live then k s else out
    | none => k s

def execAdrainh (d : Fin 32) (p : Src2) (sat : Bool) (c : SrcS) (s : State) : Out :=
  .next (s.readS p.a fun h s => s.readS p.b fun ix s => s.readS c fun b s => s.drafted h fun s =>
    if c.q ≠ 0 ∧ (b.toNat % 16 ≠ 0 ∨ !inTs s.cx.res.tsp b.toNat 16) then s.raiseTs b.toNat
    else s.tileOf (s.accD d) fun d' s =>
      let m0 := s.mop (.adrainh d p sat c)
      let m := { m0 with h := h, b := ix, d := d', rm := s.drainRm m0, bar := if c.q = 0 then none else some b.toNat, arrived := false }
      s.enqueue m [(false, d')] [] fun s =>
        (s.drawn (s.drainRm m)).fetchReq m (tileDesc h m.ent.dfmt 128 (if c.q = 0 then 0 else 1) (b.toNat % 2 ^ 32)))

-- The format table and `mbar` (R272, R273)

/-- Entries sampled in the issue sc replace the old ones at the start of the next. -/
def execFmtLd (a : SrcS) (first n : Fin 16) (s : State) : Out :=
  .next (s.readS a fun off s =>
    let e := off.toNat
    let cnt := n.val + 1
    if e % 8 ≠ 0 ∨ !inTs s.cx.res.tsp e (8 * cnt) then s.raiseTs e
    else
      let x := s.cx
      let es := (List.range (8 * cnt)).map (e + ·)
      s.awake x.sys.tsw es fun s => s.enqueue (s.mop (.fmtLd a first n)) [] [] fun s =>
        let mem := (s.spire s.iss.sp).mem
        let ps := es.map (physTs x.res.tsb x.sys.tsw)
        match (if x.res.lck then es.find? (fun e => mem.touchedAt (physTs x.res.tsb x.sys.tsw e)
            && mem.tagAt (physTs x.res.tsb x.sys.tsw e) != x.sys.tsw) else none) with
        | some b => s.deferTrap s.iss.sp s.iss.c x.res.tid (layoutTag 2 b (mem.tagAt (physTs x.res.tsb x.sys.tsw b)) x.sys.tsw) s.iss.off
        | none =>
          if mem.poisoned ps then s.deferTrap s.iss.sp s.iss.c x.res.tid (poisonTs 2 (x.res.tsb + e)) s.iss.off
          else s.modCx (fun y => { y with syswr := y.syswr ++ (List.range cnt).map fun k =>
            (1024 + first.val + k, BitVec.ofNat 64 (mem.readTs x.res.tsb x.sys.tsw (e + 8 * k) 8)) }))

/-- The entry as it stands at issue, as a deferred result. -/
def execFmtRd (d : Fin 32) (e : Fin 16) (s : State) : Out :=
  .next (let m := { s.mop (.fmtRd d e) with fe := s.cx.fentry e }
    s.enqueue m [] [] fun s => s.expect (.s d) 6 m.num)

/-- The bundle waits for its context's own earlier operations. -/
def execMbar (s : State) : Out :=
  .next (if (s.spire s.iss.sp).ownEngine s.iss.c then s.stallWith .mbar else s)

-- Effects in engine order

/-- The element of width w at bit offset `o` of a byte array. -/
def codeAt (b : Array Byte) (o w : Nat) : Nat :=
  if w = 4 then bits (b.getD (o / 8) 0).toNat (o % 8) 4
  else (List.range (w / 8)).foldr (fun j a => (b.getD (o / 8 + j) 0).toNat + 256 * a) 0

/-- `n` bytes of a task's tile store from relative offset `e` under a mode. -/
def SpireMem.tsArray (x : SpireMem) (tsb m e n : Nat) : Array Byte :=
  let p0 := (tsb + e) / 0x4000 * 0x4000
  let a := dense x.ts p0 ((n + 0x8000) / 0x4000 * 0x4000)
  ((List.range n).map fun j => a.getD (physTs tsb m (e + j) - p0) 0).toArray

/-- The read of a tile-store source by the engine: LAYOUT/0x01 and poison are deferred traps (R432, R442) (DEDUCED, log 30). -/
def State.engineRead (s : State) (sp : Nat) (m : MOp) (e n : Nat) : Except Cause (Array Byte) :=
  let mem := (s.spire sp).mem
  let at_ (o : Nat) : Nat := physTs m.tsb m.swz o
  match (if m.lck then (pagesOf e n).find? (fun o => mem.touchedAt (at_ o) && mem.tagAt (at_ o) != m.swz) else none) with
  | some o => .error (layoutTag 2 o (mem.tagAt (at_ o)) m.swz)
  | none =>
    if !mem.poison.isEmpty && mem.poisoned ((List.range n).map fun j => at_ (e + j)) then .error (poisonTs 2 (m.tsb + e))
    else .ok (mem.tsArray m.tsb m.swz e n)

/-- CHECK/0x02 of an accumulator or latch word (place 0x02). -/
def poisonAcc (off : Nat) : Cause := .mk' 13 2 2 [(0x40, 1, 2), (0x48, 8, off)]

/-- hi and lo of R156. -/
def split3 (x : FV) : FV × FV :=
  match x with
  | .fin _ _ _ =>
    let hi := decodeFlt .bf16 (roundTo .bf16 ⟨.rtz, 0, 0⟩ false x).code
    (hi, decodeFlt .bf16 (roundTo .bf16 ⟨.rtz, 0, 0⟩ false (x.add .rne hi.neg).1).code)
  | v => (v, .fin false 0 1)

/-- The terms of one k (R154, R156, R157), each with whether it is kept. -/
def mmaTerms (i : MmaInfo) (a b : FV) : List (FVI × Bool) :=
  let keep := !(i.zs && a.isZero)
  if i.a = .f32 then
    let x := split3 a
    let y := split3 b
    [(x.1.mul y.1, keep), (x.1.mul y.2, keep), (x.2.mul y.1, keep)]
  else [(a.mul b, keep)]

/-- An integer element. -/
def FV.int (v : FV) : Int :=
  match v with
  | .fin s n _ => if s then -(n : Int) else n
  | _ => 0

/-- Sums of consecutive groups of 32. -/
def sums32 : Nat → List Int → List Int
  | 0, _ => []
  | n + 1, l => if l.isEmpty then [] else (l.take 32).foldl (· + ·) 0 :: sums32 n (l.drop 32)

/-- One accumulator element after an `mma`, and its status (R261). -/
def mmaElem (i : MmaInfo) (nvr : Nat) (old : BitVec 32) (as bs : List FV) : BitVec 32 × Nat :=
  if i.s32 then
    let r := accumS32 i.sexp old.toInt (sums32 i.k ((as.zip bs).map fun p => p.1.int * p.2.int))
    (BitVec.ofInt 32 r.1, r.2)
  else
    let c := if i.repl then .fin false 0 1 else decodeFlt .f32 old.toNat
    let r := accumF32 nvr i.sexp c ((as.zip bs).map fun p => mmaTerms i p.1 p.2)
    (BitVec.ofNat 32 (roundTo .f32 .rne false r.1).code, r.2)

/-- An A or B element from its code and scale byte. -/
def mmaVal (f : Fmt) (code scale : Nat) : FV := if f = .q4 then decodeQ4 scale code else decodeVal f code

/-- The `mma` on its rows: `av m k` gives A; the latch gives B under its layout (R266). -/
def State.mmaApply (s : State) (sp : Nat) (m : MOp) (rows : List Nat) (av : Nat → Nat → FV) : Except Cause State :=
  let i := m.mma
  let mem := (s.spire sp).mem
  let r0 := rows.headD 0
  match mem.poisonIn 3 (m.l * latBytes) latBytes, mem.poisonIn 2 (m.d * accWords + r0 * 128) (128 * rows.length) with
  | some o, _ => .error (poisonAcc o)
  | _, some o => .error (poisonAcc o)
  | none, none =>
    let lat := mem.latch m.l
    let sc := mem.latchSc m.l
    let old := mem.tile m.d
    let kmax := kmaxOf i.b.width
    let w := i.b.width
    let cols := (List.range 128).map fun n =>
      (List.range i.k).map fun k => mmaVal i.b (codeAt lat ((n * kmax + k) * w) w) (sc.getD (n * 16 + k / 32) 0).toNat
    let res := rows.flatMap fun r =>
      let as := (List.range i.k).map (av r)
      ((List.range 128).zip cols).map fun p => (r * 128 + p.1, mmaElem i m.nvr (old.getD (r * 128 + p.1) 0) as p.2)
    let new := res.foldl (fun (a : Array (BitVec 32)) p => a.setIfInBounds p.1 p.2.1) old
    let st := res.foldl (fun a p => stOr a p.2.2) (mem.status m.d)
    .ok (s.modSpire sp fun x => { x with mem := (x.mem.setTile m.d (fun k => new.getD k 0)).setStatus m.d st })

/-- The A element of a tile-store or fetched tile (R260): codes at their byte places. -/
def MmaInfo.aAt (i : MmaInfo) (b : Array Byte) (r k : Nat) : FV :=
  let w := i.a.width
  mmaVal i.a (codeAt b (if i.ta then (k * 128 + r) * w else (r * i.k + k) * w) w) (b.getD (64 * i.k + r * (i.k / 32) + k / 32) 0).toNat

/-- The tile that an operation's fetch has brought, in the order of its cells (R264); poison in it is consumed now (R442). -/
def MOp.fetched (m : MOp) : Except Cause (Array Nat) :=
  let l := m.data.getD []
  if l.any (fun c => c.2) then .error (causeO 13 2 2 m.h m.ver [(0x40, 1, 5), (0x48, 8, 0)])
  else .ok (l.map (·.1)).toArray

/-- A latch set from element codes: `code k n`, and for q4 the scale of each block. -/
def SpireMem.setLatch (x : SpireMem) (l : Nat) (byte : Nat → Byte) (sc : Nat → Byte) : SpireMem :=
  ({ x with lat := putRange x.lat (l * latBytes) latBytes byte, latSc := putRange x.latSc (l * latScBytes) latScBytes sc }).clean 3
    (l * latBytes) latBytes

/-- A byte of a latch in the layout of R266 from element codes. -/
def latByte (w kmax : Nat) (code : Nat → Nat → Nat) (j : Nat) : Byte :=
  if w = 4 then BitVec.ofNat 8 (code (2 * j % kmax) (2 * j / kmax) + 16 * code (2 * j % kmax + 1) (2 * j / kmax))
  else
    let e := j / (w / 8)
    BitVec.ofNat 8 (code (e % kmax) (e / kmax) / 2 ^ (8 * (j % (w / 8))))

/-- `lat.ld` from its bytes (R267). -/
def latchFrom (t : Fmt) (tr : Bool) (b : Array Byte) (x : SpireMem) (l : Nat) : SpireMem :=
  let w := t.width
  if tr then
    let km := kmaxOf w
    x.setLatch l (latByte w km fun k n => codeAt b ((k * 128 + n) * w) w) (fun j => (x.latchSc l).getD j 0)
  else x.setLatch l (fun j => b.getD j 0) (fun j => if t = .q4 then (if j < 2048 then b.getD (0x8000 + j) 0 else 0) else (x.latchSc l).getD j 0)

/-- `lat.ldh` from its fetched cells. -/
def latchFetched (t : Fmt) (v : Array Nat) (x : SpireMem) (l : Nat) : SpireMem :=
  let w := t.width
  let km := kmaxOf w
  x.setLatch l (latByte w km fun k n => v.getD (n * km + k) 0)
    (fun j => if t = .q4 ∧ j < 2048 then BitVec.ofNat 8 (v.getD (128 * km + j) 0) else (x.latchSc l).getD j 0)

/-- An element that `aload` reads: f32 and s32 bit for bit, bf16 and f16 widened (R268). -/
def aloadElem (t : Fmt) (code : Nat) : BitVec 32 :=
  if t.width = 32 then BitVec.ofNat 32 code else BitVec.ofNat 32 (roundTo .f32 .rne false (decodeFlt t code)).code

/-- Exception-list appends of a drain leave the spire in their place of the issue order (R167). -/
def State.append (s : State) (sp : Nat) (m : MOp) (evs : List (Nat × Nat)) : State :=
  if m.xlh = 0 || evs.isEmpty then s
  else
    let r : Req := ⟨m.ins, sp, m.c, m.tid, m.sid, m.off, 2, 0, m.xlh, 0, 1,
      (evs.map fun e => xlEntry (m.noff + m.off) 2 m.tc0 m.tc1 e.2 e.1).flatten, m.num + 1⟩
    s.modSpire sp (fun x => { x with out := insertReq r x.out })

/-- The conversion of a drain: NUMERIC where an event's NXE bit is set, poison where it is consumed; else the drained tile (DEDUCED, log 31). -/
def State.drain (s : State) (sp : Nat) (m : MOp) : Except Cause Drained :=
  let mem := (s.spire sp).mem
  let t := m.drainTo
  let kept := if t.is32 then t.fmt == .s32 else t.fmt == .f32
  match (if kept then none else mem.poisonIn 2 (m.d * accWords) accWords) with
  | some o => .error (poisonAcc o)
  | none =>
    let d := m.drainTile (mem.tile m.d)
    match d.events.find? (fun e => nxeHas m.nxe e.2) with
    | some e => .error (numericCause 2 e.2 (xlEntry (m.noff + m.off) 2 m.tc0 m.tc1 e.2 e.1))
    | none => .ok d

/-- The bytes that `adrain` writes, as (relative offset, byte) (R270). -/
def drainBytes (f : Fmt) (e : Nat) (d : Drained) : List (Nat × Byte) :=
  if f = .q4 then
    ((List.range 8192).map fun j => (e + j, BitVec.ofNat 8 (d.codes.getD (2 * j) 0 + 16 * d.codes.getD (2 * j + 1) 0)))
      ++ (List.range 512).map fun j => (e + 0x2000 + j, BitVec.ofNat 8 (d.scales.getD j 0))
  else
    let n := f.width / 8
    (List.range (accWords * n)).map fun j => (e + j, BitVec.ofNat 8 (d.codes.getD (j / n) 0 / 2 ^ (8 * (j % n))))

/-- A deferred result of the engine. -/
def State.engineAnswer (s : State) (sp : Nat) (m : MOp) (v : RVal) : State := s.answer sp m.c m.tid m.num v

/-- The effect of an operation at the start of its occupancy, which lasts `left` sc from here: its reads and writes of tiles,
latches and the tile store (R254, R257), or a deferred trap that leaves its destination alone (DEDUCED, log 30). -/
def State.runOp (s : State) (sp : Nat) (m : MOp) : Except Cause (State × Nat) :=
  let mem := (s.spire sp).mem
  let put (f : SpireMem → SpireMem) : State := s.modSpire sp (fun x => { x with mem := f x.mem })
  match m.ins with
  | .mmaTs _ _ _ _ _ _ _ _ =>
    match s.engineRead sp m m.a m.mma.aBytes with
    | .error k => .error k
    | .ok b => (s.mmaApply sp m (List.range 128) (m.mma.aAt b)).map (fun s => (s, m.mma.occupancy))
  | .mmaV _ _ rp _ _ _ _ =>
    let i := m.mma
    let w := i.a.width
    (s.mmaApply sp m [2 * rp.val, 2 * rp.val + 1] (fun r k => mmaVal i.a (lane w m.vec (r % 2 * i.k + k)) 0)).map (fun s => (s, i.occupancy))
  | .mmaH _ _ _ _ _ =>
    match m.fetched with
    | .error k => .error k
    | .ok v =>
      let i := m.mma
      (s.mmaApply sp m (List.range 128) (fun r k =>
        mmaVal i.a (v.getD (r * i.k + k) 0) (v.getD (128 * i.k + r * (i.k / 32) + k / 32) 0))).map (fun s => (s.dropAop m.num, i.occupancy))
  | .latLd _ _ tr t =>
    match s.engineRead sp m m.a (latRegion t) with
    | .error k => .error k
    | .ok b => .ok (put (fun x => latchFrom t tr b x m.l), 32)
  | .latLdh _ _ =>
    match m.fetched with
    | .error k => .error k
    | .ok v => .ok ((put (fun x => latchFetched ((Fmt.ofCode m.a).getD .z8) v x m.l)).dropAop m.num, 1)
  | .latClr _ => .ok (put (fun x => x.setLatch m.l (fun _ => 0) (fun _ => 0)), 2)
  | .aclr _ => .ok (put (fun x => ((x.setTile m.d (fun _ => 0)).setStatus m.d 0).clean 2 (m.d * accWords) accWords), 2)
  | .aload _ _ t =>
    match s.engineRead sp m m.a (accWords * t.width / 8) with
    | .error k => .error k
    | .ok b => .ok (put (fun x => (x.setTile m.d (fun k => aloadElem t (codeAt b (k * t.width) t.width))).clean 2 (m.d * accWords) accWords),
        accWords * t.width / 8 / 1024)
  | .amovV _ _ row =>
    match mem.poisonIn 2 (m.d * accWords + row.val * 128) 128 with
    | some o => .error (poisonAcc o)
    | none =>
      let t := mem.tile m.d
      .ok (s.engineAnswer sp m (.v (ofLanes 32 ((List.range 128).map fun n => (t.getD (row.val * 128 + n) 0).toNat))), 2)
  | .astat _ _ => .ok (s.engineAnswer sp m (.s (BitVec.ofNat 64 (mem.status m.d))), 2)
  | .astatClr _ k => .ok (put (fun x => x.setStatus m.d (x.status m.d &&& (31 - k.val))), 2)
  | .adrain _ _ _ _ _ _ _ _ =>
    match s.drain sp m with
    | .error k => .error k
    | .ok d =>
      let bad := (mem.poison.filter (fun w => w.1 == 2 && decide (m.d * accWords ≤ w.2) && decide (w.2 < (m.d + 1) * accWords))).map (·.2)
      let s1 := s.modSpire sp (fun x => { x with
        mem := x.mem.setStatus m.d (stOr (x.mem.status m.d) d.st)
        drain := x.drain ++ [⟨m.tsb, m.swz, m.a, drainBytes m.drainTo.fmt m.a d, bad.map (fun o => m.a + 4 * (o - m.d * accWords))⟩] })
      .ok (s1.append sp m d.events, 64)
  | .adrainh _ _ _ _ =>
    match s.drain sp m, s.aops.find? (fun a => a.id == m.num) with
    | .error k, _ => .error k
    | .ok d, some a =>
      match s.copyCheck (towerOf sp) a.r a.r.pinCap with
      | .fail k => .error { k with slot := 2 }
      | _ => .ok ((s.append sp m d.events).later [.sectorCommit m.num], 2)
    | .ok _, none => .ok (s, 2)
  | .fmtRd _ _ => .ok (s.engineAnswer sp m (.s m.fe), 2)
  | _ => .ok (s, 2)

-- The events

/-- What an operation writes, as (is latch, absolute number). -/
def MOp.writes (m : MOp) : List (Bool × Nat) :=
  match m.ins with
  | .mmaTs _ _ _ _ _ _ _ _ | .mmaV _ _ _ _ _ _ _ | .mmaH _ _ _ _ _ | .aclr _ | .aload _ _ _ | .astatClr _ _ => [(false, m.d)]
  | .latLd _ _ _ _ | .latLdh _ _ | .latClr _ => [(true, m.l)]
  | _ => []

/-- The operation is an `mma`, whose busy bit stays for 12 sc (Table 06-8). -/
def MOp.isMma (m : MOp) : Bool :=
  match m.ins with
  | .mmaTs _ _ _ _ _ _ _ _ | .mmaV _ _ _ _ _ _ _ | .mmaH _ _ _ _ _ => true
  | _ => false

/-- A halted context's matrix operations do not advance but in its steps (R75, R274). -/
def Spire.stands (x : Spire) (c tid : Nat) : Bool :=
  let y := x.ctx c
  y.res.tid == tid && y.st == .halt && !y.halting

/-- The operation leaves the engine; its busy bits clear at once, or after `tail` sc. -/
def Spire.releaseOp (x : Spire) (m : MOp) (tail : Option Nat) : Spire :=
  let mine (b : Busy) : Bool := m.writes.contains (b.latch, b.n)
  { x with
    engine := x.engine.filter (fun o => o.num != m.num)
    busy := match tail with
      | some n => x.busy.map (fun b => if mine b then { b with left := some n } else b)
      | none => x.busy.filter (fun b => !mine b) }

/-- An operation ends in a deferred trap: nothing accumulated or written, no result (R265, R275). -/
def State.failOp (s : State) (sp : Nat) (m : MOp) (k : Cause) : State :=
  ((((s.modSpire sp (fun x => x.releaseOp m none)).dropAop m.num).l2Unpin m.num).modTask sp m.c m.tid (fun x => x.dropResults m.num 1)).deferTrap sp m.c m.tid k
    m.off

/-- The engine operation that a request or an asynchronous operation serves, if it is still in the engine of its spire. -/
def State.engineOp (s : State) (r : Req) : Option MOp := if r.appends then none else (s.spire r.sp).engine.find? (fun m => m.num == r.tag)

/-- The fetch or check of an operation has been given up, its fault already taken (R451): nothing of it is left. -/
def State.lost (s : State) (sp : Nat) (m : MOp) : Bool :=
  let h := s.hru (towerOf sp)
  !m.arrived && !s.aops.any (fun a => a.id == m.num) && !h.q.any (fun r => r.tag == m.num) && !h.miss.any (fun q => q.2.2.2.tag == m.num)
    && !(s.spire sp).out.any (fun r => r.tag == m.num)
    && !s.fab.items.any (fun i => match i.req with
      | some r => r.tag == m.num
      | none => false)

/-- `matrixOpStart`: the operation at the head of the engine begins its occupancy once its data is here (R254, R264) (DEDUCED, log 30). -/
def execMatrixOpStart (sp : Fin 128) (s : State) : Out :=
  .next (match (s.spire sp).engine with
    | [] => s
    | m :: _ =>
      if s.lost sp m then s.modSpire sp (fun x => x.releaseOp m none)
      else if m.left.isSome || !m.arrived || (s.spire sp).stands m.c m.tid then s
      else match s.runOp sp m with
        | .error k => s.failOp sp m k
        | .ok (s1, n) =>
          (s1.modSpire sp (fun x => { x with engine := x.engine.map (fun o => if o.num = m.num then { o with left := some n } else o) })).sendOut sp)

/-- The operation is a drain to an object. -/
def isDrainh : Instr → Bool
  | .adrainh _ _ _ _ => true
  | _ => false

/-- `matrixOpComplete`: one sc of the occupancy has passed; at its end the engine is released (R187, R254). A drain to an object
holds it until its last commit has been sent; its status bits are then ORed into the tile's (DEDUCED, log 31). -/
def execMatrixOpComplete (sp : Fin 128) (s : State) : Out :=
  .next (match (s.spire sp).engine with
    | [] => s
    | m :: _ =>
      match m.left with
      | none => s
      | some n =>
        if (s.spire sp).stands m.c m.tid then s
        else if isDrainh m.ins then
          if n = 1 then s.modSpire sp (fun x =>
            { x with mem := x.mem.setStatus m.d (stOr (x.mem.status m.d) (m.drainTile (x.mem.tile m.d)).st) }.releaseOp m none)
          else if s.aops.any (fun a => a.id == m.num) then s
          else s.modSpire sp (fun x => x.releaseOp m none)
        else if n ≤ 1 then (s.modSpire sp (fun x => x.releaseOp m (if m.isMma then some 12 else none))).l2Unpin m.num
        else s.modSpire sp (fun x => { x with engine := x.engine.map (fun o => if o.num = m.num then { o with left := some (n - 1) } else o) }))

/-- `busyBitClear`: busy bits whose 12 sc have passed clear (R187, R262). -/
def execBusyBitClear (sp : Fin 128) (s : State) : Out :=
  .next (s.modSpire sp (fun x => { x with busy := x.busy.filterMap (fun b => match b.left with
    | none => some b
    | some n => if x.stands b.c b.tid then some b else if n ≤ 1 then none else some { b with left := some (n - 1) }) }))

/-- An operation's object is checked at the HRU (R265, R271): a drain is then ready; a fetch begins. -/
def State.serveFetch (s : State) (t : Nat) (r : Req) : State :=
  match (s.spire r.sp).engine.find? (fun m => m.num == r.tag) with
  | none => s
  | some m =>
    let pin := s.latePin r m.h r.pinCap
    let fmt : Option (List Entry) := match r.ins with
      | .latLdh _ _ => match s.objFor t r.sid 2 m.h with
        | .ok (some o) => if o.fmt.isLatch then some (tileDesc m.h o.fmtCode (kmaxOf o.fmt.width) 0 0) else none
        | _ => none
      | _ => none
    let r := { r with words := (fmt.getD (r.words.take 16)) ++ pin ++ s.lateDraft r m.h r.draftCap ++ r.words.drop 20 }
    match s.copyCheck t r pin with
    | .fail k => s.failOp r.sp m { k with slot := 2 }
    | .ask p => s.waitSpot t r p
    | .fine =>
      let a0 := r.aop r.tsbWord r.tspWord false (wordAt pin 1) (wordAt r.draftCap 1)
      match s.crossCheck t a0, (if isDrainh r.ins then s.planOf t a0 else .ok []) with
      | .fail k, _ => s.failOp r.sp m { k with slot := 2 }
      | .ask p, _ => s.waitSpot t r p
      | .fine, .error p => s.waitSpot t r p
      | .fine, .ok plan =>
      let s1 := { s with aops := s.aops ++ [{ a0 with plan := plan }] }
      if isDrainh r.ins then
        s1.modSpire r.sp (fun x => { x with engine := x.engine.map (fun o => if o.num = m.num then { o with arrived := true } else o) })
      else s1.later [.mmaHFetchArrival (Fin.ofNat 128 r.sp)]

/-- The lines of a fetch are pinned in the L2 until its occupancy ends; none while a set has no way left to pin (R264). -/
def State.pinFetched (s : State) (t : Nat) (a : AOp) : Option State :=
  (s.srcSectors t a a.r.desc.cells).foldl (fun (x : Option State) q => x.bind (fun s => s.l2Pin a.r.sp a.r.sid q.1 q.2.2.1 q.2.2.2 a.id)) (some s)

/-- `mmaHFetchArrival`: sectors of the spire's fetches have arrived; an operation whose last one is here may begin (R264). -/
def execMmaHFetchArrival (sp : Fin 128) (s : State) : Out :=
  let t := towerOf sp
  let one (s : State) (m : MOp) : State :=
    match s.aops.find? (fun a => a.id == m.num) with
    | none => s
    | some a =>
      match s.cellVals t a a.r.desc.cells [] [] with
      | .error k => s.failOp sp m { k with slot := 2 }
      | .ok (l, w) =>
        match w.find? notRemote with
        | some q => s.waitSpot t a.r q
        | none =>
          if !w.isEmpty then s.askBytes t a w
          else match (s.fillFrom t a a.r.desc.cells).pinFetched t a with
            | none => s.later [.mmaHFetchArrival sp]
            | some s => s.modSpire sp (fun x => { x with engine := x.engine.map (fun o => if o.num = m.num then
                { o with arrived := true, data := some (l.map (·.2)), a := a.r.desc.fmtCode, ver := a.srcVer } else o) })
  .next (((s.spire sp).engine.filter (fun m => !m.arrived && !isDrainh m.ins)).foldl one s)

end Sys2Proof.Machine
end

