-- ==== Sys2Proof/Machine/Save.lean ====
section
/-! DEFINITION. Machine/Save.lean: pre-emption, save and restore (R72 to R74, R274, R417 to R422), and the commands of keep cores:
CTL of a context (R411 to R413), LSC of a launch slot (R422), the registers of the trap queues (R409, R410). -/

namespace Sys2Proof.Machine

-- Stores of a task, relative to its allocation

/-- Keys of a range moved from `a` to `b`. -/
def shiftRange {α : Type} (l : List (Nat × α)) (a n b : Nat) : List (Nat × α) :=
  (l.filter (fun p => decide (a ≤ p.1) && decide (p.1 < a + n))).map (fun p => (p.1 - a + b, p.2))

/-- A table's range replaced by another's, in ascending order of keys. -/
def replaceRange {α : Type} (l : List (Nat × α)) (a n : Nat) (new : List (Nat × α)) : List (Nat × α) :=
  l.filter (fun p => decide (p.1 < a)) ++ new ++ l.filter (fun p => decide (a + n ≤ p.1))

/-- Poisoned words of a task, moved by the offsets of pages, accumulator words and latch bytes. -/
def shiftPoison (l : List (Nat × Nat)) (r q : TaskRes) : List (Nat × Nat) :=
  l.filterMap fun w =>
    let one (a n b : Nat) : Option (Nat × Nat) := if a ≤ w.2 ∧ w.2 < a + n then some (w.1, w.2 - a + b) else none
    if w.1 = 1 then one r.tsb (r.tsp * 0x4000) q.tsb
    else if w.1 = 2 then one (r.accB * accWords) (r.accN * accWords) (q.accB * accWords)
    else one (r.latB * latBytes) (r.latN * latBytes) (q.latB * latBytes)

/-- The stores that a task holds under allocation r, as they stand under allocation q. -/
def SpireMem.carry (x : SpireMem) (r q : TaskRes) : SpireMem where
  ts := shiftRange x.ts r.tsb (r.tsp * 0x4000) q.tsb
  tag := shiftRange x.tag (r.tsb / 0x4000) r.tsp (q.tsb / 0x4000)
  touched := shiftRange x.touched (r.tsb / 0x4000) r.tsp (q.tsb / 0x4000)
  acc := shiftRange x.acc (r.accB * accWords) (r.accN * accWords) (q.accB * accWords)
  accSt := shiftRange x.accSt r.accB r.accN q.accB
  lat := shiftRange x.lat (r.latB * latBytes) (r.latN * latBytes) (q.latB * latBytes)
  latSc := shiftRange x.latSc (r.latB * latScBytes) (r.latN * latScBytes) (q.latB * latScBytes)
  poison := shiftPoison x.poison r q
  phaseOps := shiftRange x.phaseOps r.tsb (r.tsp * 0x4000) q.tsb

/-- Stores carried into a spire's, under allocation q. -/
def SpireMem.merge (x y : SpireMem) (q : TaskRes) : SpireMem where
  ts := replaceRange x.ts q.tsb (q.tsp * 0x4000) y.ts
  tag := replaceRange x.tag (q.tsb / 0x4000) q.tsp y.tag
  touched := replaceRange x.touched (q.tsb / 0x4000) q.tsp y.touched
  acc := replaceRange x.acc (q.accB * accWords) (q.accN * accWords) y.acc
  accSt := replaceRange x.accSt q.accB q.accN y.accSt
  lat := replaceRange x.lat (q.latB * latBytes) (q.latN * latBytes) y.lat
  latSc := replaceRange x.latSc (q.latB * latScBytes) (q.latN * latScBytes) y.latSc
  poison := x.poison ++ y.poison
  phaseOps := replaceRange x.phaseOps q.tsb (q.tsp * 0x4000) y.phaseOps

/-- The allocation of an image: from 0. -/
def TaskRes.atZero (r : TaskRes) : TaskRes := { r with tsb := 0, accB := 0, latB := 0 }

-- The save area (R417, Table 19-9)

/-- A word of a slot's header; 0 where the area is not there. -/
def State.headWord (s : State) (l : Launch) (img k : Nat) : Nat :=
  match s.saveAddr l (img * slotBytes l.words + 8 * k) with
  | some a => readLE s.mem a 8
  | none => 0
def State.putHead (s : State) (l : Launch) (img k v : Nat) : State :=
  match s.saveAddr l (img * slotBytes l.words + 8 * k) with
  | some a => s.dramPut (((List.range 8).zip (leBytes v 8)).map (fun p => (a + p.1, p.2)))
  | none => s

/-- What R418 finds wrong with a slot: it lies beyond the object, or a page is not in HBM. -/
def State.slotFault (s : State) (l : Launch) (img : Nat) : Option Cause :=
  let h := l.words.getD 7 0
  let n := slotBytes l.words
  match s.liveOf h 0 with
  | none => some (causeO 14 1 0 h 0 [(0x40, 8, img), (0x48, 8, h.toNat)])
  | some o =>
    if o.bytes < (img + 1) * n then some (causeO 14 1 0 h 0 [(0x40, 8, img), (0x48, 8, h.toNat)])
    else match ((List.range (o.pages)).drop (img * n / 65536)).find? (fun p => decide (p * 65536 < (img + 1) * n) && peST (o.page 0 p) != 1) with
      | some p => some (causeO 14 2 0 h 0 [(0x40, 8, img), (0x48, 8, p)])
      | none => none

/-- Chunks of 16 KiB of a saved task's stores, as (offset in the slot, bytes): tile store pages, accumulator tiles, latches. -/
def imgChunks (m : SpireMem) (r : TaskRes) : List (Nat × Array Byte) :=
  ((List.range r.tsp).map fun k => (0x10000 + k * 0x4000, dense m.ts (k * 0x4000) 0x4000)) ++
  ((List.range (4 * r.accN)).map fun k => (0x10000 + r.tsp * 0x4000 + k * 0x4000,
    let w := dense m.acc (k * 4096) 4096
    ((List.range 4096).flatMap (fun j => leBytes (w.getD j 0).toNat 4)).toArray)) ++
  ((List.range (2 * r.latN)).map fun k => (0x10000 + r.tsp * 0x4000 + r.accN * 0x10000 + k * 0x4000, dense m.lat (k * 0x4000) 0x4000))

/-- The parts of a chunk at `off` of the save area that stand together in DRAM, as (place in the chunk, bytes, address): all of it, or its sectors (R91). -/
def State.chunkParts (s : State) (l : Launch) (off : Nat) : List (Nat × Nat × Nat) :=
  let at_ (k : Nat) : Option (Nat × Nat × Nat) := (s.saveAddr l (off + 256 * k)).map (fun a => (256 * k, 256, a))
  match at_ 0, at_ 1 with
  | some p, some q => if q.2.2 = p.2.2 + 256 then [(0, 0x4000, p.2.2)] else (List.range 64).filterMap at_
  | _, _ => []

/-- A chunk written to the slot. -/
def State.putChunk (s : State) (l : Launch) (img : Nat) (c : Nat × Array Byte) : State :=
  (s.chunkParts l (img * slotBytes l.words + c.1)).foldl (fun (s : State) p => { s with
      mem := putRange s.mem p.2.2 p.2.1 (fun k => c.2.getD (p.1 + k) 0)
      poison := s.poison.filter (fun w => !(decide (p.2.2 ≤ w) && decide (w < p.2.2 + p.2.1))) }) s

/-- A chunk read back (DESIGN CHOICE, log 29). -/
def State.getChunk (s : State) (l : Launch) (img off : Nat) : Array Byte :=
  (s.chunkParts l (img * slotBytes l.words + off)).foldl (fun a p => a ++ dense s.mem p.2.2 p.2.1) #[]

/-- The stores of a saved task as the save area holds them now (R420). -/
def State.loadImage (s : State) (l : Launch) (img : Nat) (m : SpireMem) (r : TaskRes) : SpireMem :=
  let bytes (base n : Nat) : List (Nat × Byte) := (List.range n).flatMap fun k =>
    let a := s.getChunk l img (base + k * 0x4000)
    (List.range 0x4000).filterMap fun j => if a.getD j 0 = 0 then none else some (k * 0x4000 + j, a.getD j 0)
  let accBase := 0x10000 + r.tsp * 0x4000
  { m with
    ts := bytes 0x10000 r.tsp
    acc := (List.range (4 * r.accN)).flatMap fun k =>
      let a := s.getChunk l img (accBase + k * 0x4000)
      (List.range 4096).filterMap fun j =>
        let v := ofBytes ((List.range 4).map (fun i => a.getD (4 * j + i) 0))
        if v = 0 then none else some (k * 4096 + j, BitVec.ofNat 32 v)
    lat := bytes (accBase + r.accN * 0x10000) (2 * r.latN) }

/-- Code of a context state (Table 19-5). -/
def CState.code : CState → Nat
  | .free => 0
  | .ready => 1
  | .wait => 2
  | .stall => 3
  | .halt => 4
  | .frozen => 5
  | .saving => 6

/-- SPEN bits of the dome of a spire. -/
def State.domeBits (s : State) (sp : Nat) : Nat := bits s.cfg.fuses.spen (sp / 8 * 8) 8

/-- The header's words 1 to 4 (Table 19-9) (DESIGN CHOICE, log 29). -/
def State.headerOf (s : State) (sp : Nat) (x : Ctx) : List Nat :=
  [s.cfg.fuses.dhs,
    s.cfg.pkn * 2 ^ 56 + sp * 2 ^ 48 + s.domeBits sp * 2 ^ 40 + (x.inflight.length + x.deferred.length) * 2 ^ 32 + x.prev.code * 2 ^ 24
      + x.pflt.toNat,
    x.sys.cvr * 2 ^ 32 + x.pc,
    x.res.tsp * 2 ^ 32 + x.res.accN * 2 ^ 24 + x.res.latN * 2 ^ 16 + x.res.ltwr * 2 ^ 8 + x.res.lslot]

def saveMagic : Nat := 0x5356453100010000

-- Pre-emption and saving (R72, R73)

/-- Contexts of a launch that are being saved. -/
def State.savingOf (s : State) (t slot : Nat) : Nat :=
  (s.spires.flatMap (fun p => p.2.ctxs.filter (fun q => q.2.st == .saving && q.2.res.ltwr == t && q.2.res.lslot == slot))).length

/-- A free save slot of the launch of a context, those of saves under way set aside. -/
def State.freeSave (s : State) (x : Ctx) : Option Nat :=
  match s.slot x.res.ltwr x.res.lslot with
  | none => none
  | some y =>
    let free := (List.range (recSaven y.l.words)).filter (fun k => !Tab.has y.imgs k)
    if s.savingOf x.res.ltwr x.res.lslot < free.length then free.head? else none

/-- The context enters SAVING: it issues nothing further, its results wait in its snapshot (R73 steps 1 and 2). -/
def State.beginSave (s : State) (sp c : Nat) : State :=
  (s.modCtx sp c (fun x => { x with st := .saving, prev := x.st, stall := none, stepping := none, halting := false })).later
    [.saveComplete (Fin.ofNat 128 sp) (Fin.ofNat 8 c)]

/-- The arbiter may choose the context for pre-emption (R46, R72, R407, R418). -/
def State.preemptible (s : State) (x : Ctx) : Bool :=
  (x.st == .ready || x.st == .wait || x.st == .stall) && (match s.slot x.res.ltwr x.res.lslot with
    | some y => decide (y.l.pri < 7) && recSaven y.l.words != 0 && !y.preoff && (s.freeSave x).isSome
    | none => false)

/-- `preempt`: the arbiter orders the pre-emption of a context, at a bundle boundary (R73). -/
def execPreempt (sp : Fin 128) (c : Fin 8) (s : State) : Out :=
  .next (if s.preemptible (s.ctx sp c) then s.beginSave sp c else s)

/-- Victims for a gang of priority p in these towers, in the order of R72. -/
def State.preemptOrder (s : State) (ts : List Nat) (p : Nat) : List (Nat × Nat) :=
  let l := s.spires.flatMap fun q => if ts.contains (towerOf q.1) then
      q.2.ctxs.filterMap (fun y => if s.preemptible y.2 && decide (y.2.sys.pri < p) then some (q.1, y.1, y.2.sys.pri, y.2.res.order) else none)
    else []
  let before (a b : Nat × Nat × Nat × Nat) : Bool := decide (a.2.2.1 < b.2.2.1) || (a.2.2.1 == b.2.2.1 && decide (b.2.2.2 ≤ a.2.2.2))
  (l.mergeSort before).map (fun a => (a.1, a.2.1))

/-- The state with those contexts' room given back, as far as placement sees it. -/
def State.without (s : State) (l : List (Nat × Nat)) : State := l.foldl (fun s p => s.setCtx p.1 p.2 .reset) s

/-- The next context to pre-empt for a slot whose gang finds no room, if pre-emption can make it room; none while a save is under
way in its towers. -/
def State.victim (s : State) (t slot : Nat) (l : Launch) : Option (Nat × Nat) :=
  let ts := gangTowers t l
  let v := s.preemptOrder ts l.pri
  let saving := s.spires.any (fun p => ts.contains (towerOf p.1) && p.2.ctxs.any (fun q => q.2.st == .saving))
  if v.isEmpty || saving || ((s.without v).chooseGang t slot l).isNone then none else v.head?

/-- Everything that R73 steps 2 to 4 and R274 wait for is over: samples taken, tile-store writes landed, M-class operations done. -/
def State.saveReady (s : State) (sp c : Nat) : Bool :=
  let x := s.ctx sp c
  let y := s.spire sp
  !x.tsw.any (fun w => w.tid == x.res.tid) && !y.engine.any (fun m => m.tid == x.res.tid) && !y.busy.any (fun b => b.tid == x.res.tid)
    && x.inflight.all (fun f => match f.val with
      | .sampS _ _ => false
      | .sampV _ => false
      | _ => true)

/-- A context's loop, fetch and results go on as before the save (R74, R418). -/
def State.abandonSave (s : State) (sp c : Nat) (k : Cause) : State :=
  let x := s.ctx sp c
  let s1 := s.post sp (s.recordOf sp c x k false false false true x.pc x.pc)
  let s2 := s1.modCtx sp c (fun x => { x with
    st := if x.prev = .stall then .ready else x.prev
    inflight := if x.prev = .frozen ∨ x.prev = .halt then x.inflight else x.inflight.map (fun f => { f with delay := f.delay + 1 }) })
  (s2.modSlot x.res.ltwr x.res.lslot (fun y => { y with preoff := true })).wakeCopies x.res.tid

/-- `saveComplete`: the whole slot is checked (R418); the image is written, its first word last; context and resources become free, the
weight stays outstanding (R73 steps 6 and 7). -/
def execSaveComplete (sp : Fin 128) (c : Fin 8) (s : State) : Out :=
  let x := s.ctx sp c
  .next (if x.st ≠ .saving ∨ !s.saveReady sp c then s
    else match s.slot x.res.ltwr x.res.lslot with
    | none => s
    | some y =>
      let free := (List.range (recSaven y.l.words)).filter (fun k => !Tab.has y.imgs k)
      match free.head? with
      | none => s
      | some img =>
        match s.slotFault y.l img with
        | some k => s.abandonSave sp c k
        | none =>
          let m := (s.spire sp).mem.carry x.res x.res.atZero
          let st := match x.prev with
            | .wait => CState.wait
            | _ => .ready
          let kept : Ctx := { x with st := st, res := x.res.atZero, dtrap := [], tsw := [] }
          let s1 := (imgChunks m kept.res).foldl (fun s ch => s.putChunk y.l img ch) s
          let head := s.headerOf sp x
          let s2 := ((List.range head.length).zip head).foldl (fun s p => s.putHead y.l img (p.1 + 1) p.2) s1
          let s3 := s2.putHead y.l img 0 (saveMagic + 1)
          let s4 := s3.modSlot x.res.ltwr x.res.lslot (fun z => { z with imgs := Tab.set z.imgs img ⟨true, false, [], kept, m⟩ })
          s4.modSpire sp (fun z => { z.setCtx c { Ctx.reset with tsw := x.tsw, dtrap := x.dtrap } with
            loopOwner := if z.loopOwner = some c.val then none else z.loopOwner }))

-- Restoring (R74, R420, R421)

/-- The header's own checks (R420). -/
def State.headerOk (s : State) (l : Launch) (img : Nat) : Bool :=
  let w0 := s.headWord l img 0
  let w2 := s.headWord l img 2
  let w4 := s.headWord l img 4
  w0 == saveMagic + 1 && !bit w2 55 && bits w2 1 23 == 0 && bits w4 41 23 == 0 && bits w4 19 5 == 0 && bits w4 10 6 == 0
    && bits w4 32 9 == recTsp l.words && bits w4 24 8 == recAcc l.words && bits w4 16 3 == recLat l.words

/-- The mismatch mask for a target spire (R421). -/
def State.mismatch (s : State) (l : Launch) (img sp : Nat) : Nat :=
  let w2 := s.headWord l img 2
  let tied := (recLevels l.words).any (fun v => v.hwd == 1 || v.hwd == 2) || bit (wordAt l.words 0) 40
  let den := bits w2 40 8
  (if s.headWord l img 1 ≠ s.cfg.fuses.dhs then 1 else 0) + (if bits w2 56 8 ≠ s.cfg.pkn then 2 else 0)
    + (if tied ∧ bits w2 48 7 % 8 ≠ sp % 8 then 4 else 0) + (if tied ∧ den &&& s.domeBits sp ≠ den then 8 else 0)

/-- An arbiter's record about a save slot: SPNE = 1. -/
def State.saveEvent (s : State) (t sub : Nat) (l : Launch) (img v : Nat) : State :=
  s.eventHru t (causeO 14 sub 0 (l.words.getD 7 0) 0 [(0x40, 8, img), (0x48, 8, v)])

/-- `restore`: the arbiter restores a saved task into context c of spire sp (R74); an invalid image is left (R420), a mismatch is reported
(R421). An image with PFLT restores FROZEN (R419). The bytes of its pages, tiles and latches come from the save area. -/
def execRestore (t : Fin 4) (slot : Fin 64) (img : Nat) (sp : Fin 128) (c : Fin 8) (s : State) : Out :=
  .next (match s.slot t slot with
    | none => s
    | some y =>
      match y.imgs.find? (fun p => p.1 == img) with
      | none => s
      | some (_, i) =>
        let mark (f : SaveImg → SaveImg) (s : State) : State := s.modSlot t slot (fun z => { z with
          imgs := z.imgs.map (fun (p : Nat × SaveImg) => if p.1 = img then (p.1, f p.2) else p) })
        if i.stopped || !s.takes sp c || i.tried.contains sp then s
        else if !s.headerOk y.l img then mark (fun i => { i with stopped := true }) (s.saveEvent t 4 y.l img (s.headWord y.l img 0))
        else if s.mismatch y.l img sp ≠ 0 then mark (fun i => { i with tried := sp.val :: i.tried }) (s.saveEvent t 3 y.l img (s.mismatch y.l img sp))
        else match s.room sp y.l with
          | none => s
          | some b =>
            let res := { i.ctx.res with tsb := b.1 * 0x4000, accB := b.2.1, latB := b.2.2, lck := s.lckBit t i.ctx.sys.sid }
            let x : Ctx := { i.ctx with
              res := res
              st := if i.ctx.pflt then .frozen else i.ctx.st
              pflt := false
              fst0 := i.ctx.sys.fst
              prev := .free
              dtrap := (s.ctx sp c).dtrap
              tsw := (s.ctx sp c).tsw
              inflight := i.ctx.inflight.map (fun f => { f with delay := if i.ctx.pflt then f.delay else f.delay + 1 }) }
            let m := (s.loadImage y.l img i.mem i.ctx.res).carry i.ctx.res res
            let s1 := s.putHead y.l img 0 (s.headWord y.l img 0 - 1)
            let s2 := s1.modSlot t slot (fun z => { z with imgs := Tab.del z.imgs img })
            ((s2.modSpire sp (fun z =>
              let z1 := { z with
                mem := z.mem.merge m res
                linger := z.linger.filter (fun r => s.outstanding r.tid) }
              (z1.setCtx c x).wakeFor res)).wakeCopies x.res.tid).pinKernel sp x (64 * res.ltwr + res.lslot))

-- CTL (R411 to R413)

/-- A write that is discarded and reported as an access error. -/
def State.accessError (s : State) : State := { s with cfg := { s.cfg with accessErrors := s.cfg.accessErrors + 1 } }

/-- RES of a context's control register. -/
def State.setRes (s : State) (sp c v : Nat) : State := s.modSpire sp (fun y => { y with ctlRes := Tab.set y.ctlRes c v })

/-- A command to a context: only for a keep core in SID 0, or one whose grant covers the context's space; `ok` says whether
Table 19-6 accepts it (DESIGN CHOICE, log 62). -/
def State.ctl (s : State) (who sp c : Nat) (ok : Ctx → Bool) (f : State → State) : State :=
  let x := s.ctx sp c
  if !s.enabled sp || !(who == 0 || s.granted x.sys.sid) then s.accessError
  else if ok x then (f s).setRes sp c 0
  else s.setRes sp c 1

/-- The debugger's hold on a context's launch (R423). -/
def State.setDebug (s : State) (x : Ctx) (b : Bool) : State :=
  s.modSlot x.res.ltwr x.res.lslot (fun y => { y with l := { y.l with dbg := b } })

def State.noPend (s : State) (x : Ctx) : Bool := s.pend x.res.tid == 0

def execResume (who : Nat) (sp : Fin 128) (c : Fin 8) (s : State) : Out :=
  .next (s.ctl who sp c (fun x => x.st == .frozen && s.noPend x) fun s => s.resumeCtx sp c)

def execSave (who : Nat) (sp : Fin 128) (c : Fin 8) (s : State) : Out :=
  .next (s.ctl who sp c
    (fun x => (x.st == .ready || x.st == .wait || x.st == .stall || x.st == .halt || x.st == .frozen) && (s.freeSave x).isSome)
    fun s => s.beginSave sp c)

def execTerminate (who : Nat) (sp : Fin 128) (c : Fin 8) (s : State) : Out :=
  .next (s.ctl who sp c (fun x => x.st == .frozen || x.st == .halt) fun s => s.terminate sp c)

def execHalt (who : Nat) (sp : Fin 128) (c : Fin 8) (s : State) : Out :=
  .next (s.ctl who sp c (fun x => x.st == .ready || x.st == .wait || x.st == .stall) fun s =>
    let x := s.ctx sp c
    let s1 := s.setCtx sp c { x with st := .halt, stall := none, stepping := none, halting := false, nstep := 0 }
    (s1.setDebug x true).post sp (s1.recordOf sp c x (.mk' 15 2 0 []) false false false true x.pc x.pc))

def execStep (who : Nat) (sp : Fin 128) (c : Fin 8) (n : Fin 256) (s : State) : Out :=
  .next (s.ctl who sp c (fun x => x.st == .halt && s.noPend x) fun s =>
    s.modCtx sp c (fun x => { x with stepping := some (n.val + 1), nstep := 0 }))

def execRelease (who : Nat) (sp : Fin 128) (c : Fin 8) (s : State) : Out :=
  .next (s.ctl who sp c (fun x => x.st == .halt && s.noPend x) fun s =>
    let x := s.ctx sp c
    (((s.setDebug x false).resumeCtx sp c).modCtx sp c (fun x => { x with stepping := none, halting := false })).wakeCopies x.res.tid)

-- LSC (R422)

/-- A command to a launch slot: refused for a slot that holds no active launch (DESIGN CHOICE, log 62). -/
def State.lsc (s : State) (who t slot : Nat) (ok : Slot → Bool) (f : State → Slot → State) : State :=
  let done (s : State) (v : Nat) : State := s.modArb t (fun a => { a with lscRes := Tab.set a.lscRes slot v })
  match s.slot t slot with
  | none => if who = 0 then done s 1 else s.accessError
  | some y =>
    if !(who == 0 || s.granted y.l.sid) then s.accessError
    else if ok y then done (f s y) 0
    else done s 1

def execPreon (who : Nat) (t : Fin 4) (slot : Fin 64) (s : State) : Out :=
  .next (s.lsc who t slot (fun _ => true) fun s _ => s.modSlot t slot (fun z => { z with preoff := false }))

/-- Weights that an ended image gives back: its own, those of its inline frames, the outer pair (R413, R422). -/
def Ctx.weights (x : Ctx) : List (Entry × Nat) :=
  (x.sys.cls, x.sys.wgt) :: x.rstk.filterMap (fun f => match f with
    | .fork _ wgt cls _ _ => some (cls, wgt)
    | .call _ => none) ++ (if x.sys.opv then [(x.sys.ocls, x.sys.owgt)] else [])
/-- Code versions it has pinned. -/
def Ctx.codePins (x : Ctx) : List Nat :=
  x.sys.cvr :: x.rstk.filterMap (fun f => match f with
    | .fork _ _ _ cver _ => some cver
    | .call _ => none)

/-- R422: the task in save slot `img` ends. -/
def execTermimg (who : Nat) (t : Fin 4) (slot : Fin 64) (img : Nat) (s : State) : Out :=
  .next (s.lsc who t slot
    (fun y => decide (img < recSaven y.l.words) && Tab.has y.imgs img && s.headWord y.l img 0 / 2 ^ 16 == saveMagic / 2 ^ 16)
    fun s y =>
      match y.imgs.find? (fun p => p.1 == img) with
      | none => s
      | some (_, i) =>
        let x := i.ctx
        let sp := bits (s.headWord y.l img 2) 48 7
        let s1 := x.weights.foldl (fun s p => s.sendReturn p.1 p.2) s
        let s2 := x.codePins.foldl (fun s v => s.unpinCode x.res.codeh v) s1
        let w0 := s2.headWord y.l img 0
        let s3 := s2.putHead y.l img 0 (w0 / 2 ^ 16 * 2 ^ 16)
        ((s3.modSlot t slot (fun z => { z with imgs := Tab.del z.imgs img })).sendLeaves sp 8 x x.pins x.drafts).taskGone t slot)

/-- R422: the arbiter tries again to restore save slot `img`. -/
def execRetry (who : Nat) (t : Fin 4) (slot : Fin 64) (img : Nat) (s : State) : Out :=
  .next (s.lsc who t slot (fun y => decide (img < recSaven y.l.words) && Tab.has y.imgs img) fun s _ =>
    s.modSlot t slot (fun z => { z with
      imgs := z.imgs.map (fun (p : Nat × SaveImg) => if p.1 = img then (p.1, { p.2 with stopped := false, tried := [] }) else p) }))

-- Trap queue registers (Table 19-4)

/-- Held records enter the tower's queue while it has room, its HRU's first and then those of its spires (R410). -/
def State.refill (s : State) (t : Nat) : State :=
  let x := s.tower t
  let p := x.tq.take x.hru.held
  let s1 := s.setTower t { x with tq := p.1, hru := { x.hru with held := p.2 } }
  (s1.spires.map (·.1)).foldl (fun s n =>
    if towerOf n = t then
      let q := (s.tower t).tq.take (s.spire n).held
      (s.modTower t (fun y => { y with tq := q.1 })).modSpire n (fun y => { y with held := q.2 })
    else s) s1

/-- A write of HEAD acknowledges every record before it; one that sets a reserved bit or lies out of ring order is discarded (R27,
R410). -/
def execTqHeadWrite (t : Fin 4) (v : Entry) (s : State) : Out :=
  let q := (s.tower t).tq
  let n := 2 ^ q.tqlog
  let h := bits v.toNat 0 16
  .next (if bits v.toNat 48 16 = 0 ∧ bits v.toNat 16 16 = 0 ∧ h < n ∧ (h + n - q.head) % n ≤ (q.tail + n - q.head) % n then
      (s.modTower t (fun x => { x with tq := { x.tq with head := h } })).refill t
    else s.accessError)

/-- A write of TQB and TQLOG: taken while HEAD = TAIL, and then sets both to 0; else discarded and reported, as is one that sets a
reserved bit (R27, R410). -/
def execTqConfigWrite (t : Fin 4) (v : Entry) (s : State) : Out :=
  let q := (s.tower t).tq
  .next (if bits v.toNat 48 16 ≠ 0 ∨ bits v.toNat 5 7 ≠ 0 ∨ q.head ≠ q.tail then s.accessError
    else (s.modTower t (fun x => { x with tq := { x.tq with
        tqb := bits v.toNat 12 36 * 4096, tqlog := bits v.toNat 0 5, head := 0, tail := 0 } })).refill t)

end Sys2Proof.Machine
end

