-- ==== Sys2Proof/Machine/Remote.lean ====
section
/-! DEFINITION. Machine/Remote.lean: what a home HRU does for other packages (R97, R137, R287, R291, R352, R358, R359, R468): reads, commits of
writes, page map entries and shard map entries. Such a request stands in the HRU as one of spire 128 + package. -/

namespace Sys2Proof.Machine

/-- The object that holds the bytes another package asks for: homed here, or homed elsewhere with frames here. -/
def State.heldObj (s : State) (t : Nat) (h : Entry) : Except Cause (Option Obj) := s.objFor t 0 3 h

/-- The answer to a read: its bytes in responses of up to 192 (R352), or why there are none. -/
def State.sendBytes (s : State) (r : Req) (ver off : Nat) (data : List Byte) : State :=
  let segs := chunks 192 (cdiv data.length 192) data
  ((List.range segs.length).zip segs).foldl (fun s p =>
    s.sendBare (s.newFlit (r.sp - 128) 2
      { XferHdr.zero with obj := r.a, ver := ver, off := off + 192 * p.1, segi := p.1, segn := segs.length, rtag := r.tag } p.2)) s

/-- A read of another package (R358, R468); a poisoned byte is answered with CHECK/0x02 (R441). -/
def State.readServe (s : State) (t : Nat) (r : Req) : State :=
  let ver := wordAt r.words 0
  let off := wordAt r.words 1
  let n := if wordAt r.words 2 = 0 then 256 else wordAt r.words 2
  let bad (k : Cause) : State := s.respond (r.sp - 128) 2 r.a r.tag 0 (causeWords k)
  match s.heldObj t r.a with
  | .error k => bad k
  | .ok none => s.waitSpot t r (.askObj r.a)
  | .ok (some o) =>
    match s.byteSpot t r.a o ver off with
    | .mem m =>
      if s.dramPoisoned ((List.range n).map (m + ·)) then bad (causeO 13 2 3 r.a ver [(0x40, 1, 7), (0x48, 8, off)])
      else (s.learnPage t r.a o ver off).sendBytes r ver off (dense s.mem m n).toList
    | .zero => s.sendBytes r ver off (List.replicate n 0)
    | .remote _ _ _ _ => s.holdReq t r 2 r.a ver (off / 65536) (o.page ver (off / 65536))
    | p => s.waitSpot t r p

/-- The acknowledgement of a commit, with the bytes that it added to ARV (Table 13-2). -/
def State.sendAck (s : State) (r : Req) (arv : Nat) : State :=
  let f := s.newFlit (r.sp - 128) 5 { XferHdr.zero with obj := r.a, segn := 1, rtag := r.tag, sseq := r.slot, off := arv } []
  (s.keepAnswer (r.sp - 128) r.a r.tag r.slot f).sendBare f

/-- The bytes that a commit carries: (offset, byte). -/
def Req.commitBytes (r : Req) : List (Nat × Byte) := (r.words.drop 4).map (fun w => (w.toNat / 256, BitVec.ofNat 8 w.toNat))

/-- Reducing updates of whole elements, each applied once (R291). -/
def State.reduceInto (s : State) (f : Fmt) (op : Red) (addr : Nat → Option Nat) : Nat → List (Nat × Byte) → State
  | 0, _ => s
  | n + 1, l =>
    let w := max 1 (f.width / 8)
    match l with
    | [] => s
    | (o, _) :: _ =>
      let x := ofBytes ((l.take w).map (·.2))
      let s1 := match addr o with
        | some m => s.dramPut (((List.range w).zip (leBytes (redCode op f (readLE s.mem m w) x) w)).map (fun p => (m + p.1, p.2)))
        | none => s
      State.reduceInto s1 f op addr n (l.drop w)

/-- A commit of another package into a draft, a live object or a window (R137, R287, R291, R359); the draft must still be open (R430). -/
def State.writeServe (s : State) (t : Nat) (r : Req) : State :=
  let ver := wordAt r.words 0
  let bytes := r.commitBytes
  let off0 := if bytes.isEmpty then wordAt r.words 1 else (bytes.headD (0, 0)).1
  let row := r.eidx = 0 ∧ 1 ≤ wordAt r.words 3
  let bad (k : Cause) : State := s.respond (r.sp - 128) 5 r.a r.tag r.slot (causeWords k)
  match s.heldObj t r.a with
  | .error k => bad k
  | .ok none => s.waitSpot t r (.askObj r.a)
  | .ok (some o) =>
    if !o.live && !s.elsewhere r.a && o.dver != ver then bad (o.verCause 4 3 r.a [])
    else match (if s.elsewhere r.a then .go s else s.readyPage t r r.a ver off0) with
      | .pool => s.holdPool t r 4 t
      | .wait s1 => s1
      | .go s0 =>
        let s1 := if o.live then s0 else s0.flushRange r.a ver (off0 / 256 * 256) (if row then 1024 else 256)
        let q := (s1.here r.a).getD o
        match s1.byteSpot t r.a q (if q.live then 0 else ver) off0 with
        | .mem _ =>
          let addr (f : Nat) : Option Nat := match q.locate (if q.live then 0 else ver) f with
            | .mem m => some m
            | _ => none
          let put := bytes.filterMap (fun p => (addr p.1).map (fun m => (m, p.2)))
          let red := r.eidx = 1
          if row ∧ bytes.isEmpty then ((match addr off0 with
            | some m => s1.poisonRow m
            | none => s1)).sendAck r 0
          else if red ∧ s1.dramPoisoned (put.map (·.1)) then bad (causeO 13 2 3 r.a ver [(0x40, 1, 5), (0x48, 8, (put.headD (0, 0)).1)])
          else
            let f := (Fmt.ofCode (wordAt r.words 2)).getD .z8
            let op : Red := match wordAt r.words 3 with
              | 1 => .max
              | 2 => .min
              | _ => .add
            let s2 := if red then s1.reduceInto f op addr bytes.length bytes else s1.dramPut put
            let win := q.live && q.lkind == 4
            (s2.addArv r.a q bytes.length).sendAck r (if win then bytes.length else 0)
        | .remote _ _ _ _ => s1.holdReq t r 2 r.a ver (off0 / 65536) (q.page ver (off0 / 65536))
        | .zero => s1.holdReq t r 2 r.a ver (off0 / 65536) (q.page ver (off0 / 65536))
        | p => s1.waitSpot t r p

/-- A page map entry (words 1, version, page) or a handle of a shard map (words 2, number) for another package's caches (R97). An entry of a
page that is absent or in transit is answered when the page is there (DEDUCED, log 71). -/
def State.mapServe (s : State) (t : Nat) (r : Req) : State :=
  let answer (w : List Entry) : State := s.respond (r.sp - 128) 9 r.a r.tag 0 w
  match s.lookup t 3 r.a with
  | .error k => answer (causeWords k)
  | .ok o =>
    if wordAt r.words 0 = 1 then
      let ver := wordAt r.words 1
      let p := wordAt r.words 2
      match o.locate ver (p * 65536) with
      | .held sub page e => s.holdReq t r sub r.a ver page e
      | _ => answer [0, o.page ver p]
    else
      let off := 8 * wordAt r.words 1
      match o.locate 0 off with
      | .held sub page e => s.holdReq t r sub r.a 0 page e
      | _ => answer [0, BitVec.ofNat 64 (s.objRead o 0 off 8)]

/-- An object table entry and the rights of a space for another package's caches (R97). -/
def State.entryServe (s : State) (t peer rtag : Nat) (h : Entry) (sid : Nat) : State :=
  match s.lookup t 3 h with
  | .error k => s.respond peer 9 h rtag 0 (causeWords k)
  | .ok o => s.respond peer 9 h rtag 0 ([0] ++ (List.range 16).map (fun k => o.w.getD k 0) ++ [BitVec.ofNat 64 (o.rightsOf sid)])

end Sys2Proof.Machine
end

