-- ==== Sys2Proof/Machine/Hru.lean ====
section
/-! DEFINITION. Machine/Hru.lean: the HRU of a tower takes its requests one by one (R19, R86, R96): the event `l2Miss`, `ldo` (R293), the exception
list (R167, R434), and requests of other packages. -/

namespace Sys2Proof.Machine

-- `ldo` (R293)

/-- The element of an index word. -/
def ldoIx (b : Entry) : List Nat := [ixLo b, ixHi b, 0, 0, 0, 0]

/-- Checks of `ldo` on an object: rights, live kind or pin, format, bounds (DEDUCED, log 40). -/
def Obj.ldoCheck (o : Obj) (away : Bool) (r : Req) (pin : List Entry) : Except Cause Unit :=
  match o.checkRights 3 r.sid (needs rRD away) r.a with
  | .error k => .error k
  | .ok _ =>
    if o.live && o.lkind != 0 && o.lkind != 5 then .error (o.kindCause 3 r.a)
    else if !o.live && pin.headD 0 != 1 then .error (o.verCause 8 3 r.a [])
    else if o.fmt = .q4 then .error (fmtsCause 3 r.a o.fmtCode)
    else if !o.inExt (ldoIx r.b) then .error (ixCause 3 r.a r.b 0 0)
    else .ok ()

/-- The element of a live object, at its home. -/
def State.ldoLive (s : State) (away : Bool) (r : Req) : LiveAns :=
  match s.lookup 0 3 r.a with
  | .error k => .fail k
  | .ok o => match o.ldoCheck away r [1, 0] with
    | .error k => .fail k
    | .ok _ =>
      if !o.live then .fail (o.kindCause 3 r.a)
      else
        let off := o.offset (ldoIx r.b)
        match o.locate 0 off with
        | .mem m =>
          if s.dramPoisoned [m] then .fail (causeO 13 2 3 r.a 0 [(0x40, 1, if away then 7 else 5), (0x48, 8, m)])
          else .done s (putPat o.fmt (readLE s.mem m (o.fmt.width / 8))) 0
        | .held sub p e => .held sub p e
        | _ => .held 1 (off / 65536) (o.page 0 (off / 65536))

/-- The sector of a versioned element that was read enters L1 and the dome L2, its translation the HRU (R96, R97). -/
def State.fillLdo (s : State) (t : Nat) (r : Req) (b : Entry) (p : Obj) (ver off : Nat) : State :=
  let o0 := off / 256 * 256
  let both (s : State) (l : List Byte) (bad : List Nat) : State :=
    (s.l2Fill r.sp r.sid b ver off l bad).modSpire r.sp (fun x => { x with l1 := fillLine geoL1 x.l1 r.sid b ver off l bad })
  match s.byteSpot t b p ver o0 with
  | .mem m => both (s.learnPage t b p ver off) (dense s.mem m 256).toList ((s.poison.filter (fun w => decide (m ≤ w) && decide (w < m + 256))).map (· - m))
  | .zero => both (s.learnPage t b p ver off) (List.replicate 256 0) []
  | _ => s

/-- An element that L1 or the dome L2 holds for the reader's space, and whether it is poisoned: its rights are not checked again (R86). -/
def State.ldoHit (s : State) (r : Req) (b : Entry) (ver off n : Nat) : Option (Nat × Bool) :=
  match readLine (s.spire r.sp).l1 r.sid b ver off n with
  | some p => some p
  | none => s.l2Read r.sp r.sid b ver off n

/-- `ldo` at the HRU: a live element at its home, a versioned one through its pin, from wherever its frame is. -/
def State.serveLdo (s : State) (t : Nat) (r : Req) : State :=
  match s.objFor t r.sid 3 r.a with
  | .error k => s.failReq r k
  | .ok none => s.waitSpot t r (.askObj r.a)
  | .ok (some o) =>
    if o.live then
      (if s.elsewhere r.a then (if s.granuleBusy t r then s.again t r else s.sendLive t r r.a false) else s.endReq t r 0 (s.ldoLive false r))
    else
      let pin := s.latePin r r.a r.words
      let ver := wordAt pin 1
      let n := o.fmt.width / 8
      let ix := ldoIx r.b
      let hit : Option (Nat × Bool) :=
        if pin.headD 0 != 1 || o.fmt == .q4 || !o.inExt ix then none
        else match s.place t r.sid r.a o ver ix false false with
          | .ok (some q) => s.ldoHit r q.1 ver q.2.2.1 n
          | _ => none
      match hit with
      | some (v, bad) =>
        if bad then s.failReq r (causeO 13 2 3 r.a ver [(0x40, 1, 4), (0x48, 8, o.offset ix)]) else s.finishReq t r (putPat o.fmt v) 0
      | none =>
        match o.ldoCheck (s.elsewhere r.a) r pin with
        | .error k => s.failReq r k
        | .ok _ =>
          match s.place t r.sid r.a o ver ix false false with
          | .error p => s.waitSpot t r p
          | .ok none => s.finishReq t r 0 0
          | .ok (some (b, p, off, _)) =>
            match s.byteSpot t b p ver off with
            | .mem m =>
              if s.dramPoisoned [m] then s.failReq r (causeO 13 2 3 r.a ver [(0x40, 1, if 2 ^ 39 ≤ m then 6 else 5), (0x48, 8, m)])
              else (s.fillLdo t r b p ver off).finishReq t r (putPat o.fmt (readLE s.mem m n)) 0
            | .zero => (s.fillLdo t r b p ver off).finishReq t r 0 0
            | .remote q h ver off =>
              match (if s.elsewhere r.a then .ok () else o.checkRights 3 r.sid (needs rRD true) r.a) with
              | .error k => s.failReq r k
              | .ok _ => s.sendItem t q 1 { XferHdr.zero with obj := h, ver := ver, off := off, segi := n / 16, segn := n % 16, fmt := o.fmtCode }
                  [[]] false none (some r) 0
            | p => s.waitSpot t r p

-- The exception list (R167, R434)

/-- Byte after an object's last element (DEDUCED, log 68). -/
def Obj.endByte (o : Obj) : Nat := o.offset ((List.range 6).map (fun k => o.ext k - 1)) + o.fmt.width / 8

/-- One entry appended: at index CNT while CNT is below CAP and the entry lies within the object; else LOST grows (DEDUCED, log 68). -/
def State.appendOne (s : State) (o : Obj) (a b : Entry) : State :=
  let cap := s.objRead o 0 4 4
  let cnt := s.objRead o 0 0 4
  if cnt < cap ∧ 16 + 16 * cnt + 16 ≤ o.endByte then
    ((s.liveWriteLE o (16 + 16 * cnt) a.toNat 8).liveWriteLE o (24 + 16 * cnt) b.toNat 8).liveWriteLE o 0 (cnt + 1) 4
  else s.liveWriteLE o 8 (min (s.objRead o 0 8 8 + 1) (2 ^ 64 - 1)) 8

/-- The entries of a request appended in order. -/
def State.appendAll (s : State) (o : Obj) : List Entry → State
  | a :: b :: r => State.appendAll (s.appendOne o a b) o r
  | _ => s

/-- The home's part of an append; a list that fails its checks drops it (R434). -/
def State.appendServe (s : State) (away : Bool) (r : Req) : LiveAns :=
  let bad : LiveAns := .fail (causeO 9 0x10 r.slot r.a 0 [(0x40, 8, r.a.toNat)])
  match s.lookup 0 3 r.a with
  | .error _ => bad
  | .ok o =>
    if o.rightsOf r.sid &&& needs rWR away != needs rWR away || !o.live || o.lkind != 0 || decide (o.endByte < 16) then bad
    else match o.blocked 0 [0] with
      | some (.held sub p e) => .held sub p e
      | _ => .done (s.appendAll o r.words) 0 0

/-- Entries for a list homed elsewhere travel ten to a message; the first message reports a dropped list (DEDUCED, log 68). -/
def State.sendAppends (s : State) (t : Nat) (r : Req) : Nat → List Entry → State
  | 0, _ => s
  | n + 1, l =>
    if l.isEmpty then s
    else
      let q := { r with words := l.take 20, b := if l.length = r.words.length then 1 else 0 }
      let w0 := BitVec.ofNat 64 (5 + r.sid * 2 ^ 16)
      State.sendAppends (s.sendItem t (hpkg r.a) 6 { XferHdr.zero with obj := r.a, opc := 6 } [wordBytes ([w0, r.a, 0] ++ l.take 20)] true none
        (some q) 0) t r n (l.drop 20)

/-- An earlier append of the same task has not been performed (R167). -/
def State.appendWaits (s : State) (t : Nat) (r : Req) : Bool :=
  let before (q : Req) : Bool := q.appends && q.tid == r.tid && decide (q.tag < r.tag)
  (s.hru t).q.any before || (s.hru t).miss.any (fun q => before q.2.2.2) || s.fab.items.any (fun i => match i.req with
    | some q => before q
    | none => false)

/-- An append at the HRU; the appends of one task are made in issue order (R167). -/
def State.serveAppend (s : State) (t : Nat) (r : Req) : State :=
  if s.appendWaits t r then s.again t r
  else if s.elsewhere r.a then s.sendAppends t r r.words.length r.words
  else match s.appendServe false r with
    | .fail k => (s.noteReq r k).appended r
    | .held sub p e => s.holdReq t r sub r.a 0 p e
    | .done s1 _ _ => s1.appended r
    | .ask h => s.askEntry t r h
    | .pool _ => s

-- Requests of other packages

/-- One request of another package, answered by a response. -/
def State.serveAway (s : State) (t : Nat) (r : Req) : State :=
  if r.flitKind = 9 then s.objRequest t r
  else if r.appends then s.conclude t r (s.appendServe true r) (fun s _ _ => s)
  else match r.ins with
    | .ldo _ _ _ => s.conclude t r (s.ldoLive true r) (fun s _ _ => s)
    | .tld _ _ => s.readServe t r
    | .tst _ _ => s.writeServe t r
    | .tgath _ _ => s.mapServe t r
    | _ => s.conclude t r (s.liveServe t true r) (fun s _ _ => s)

-- The event

/-- The page that a registration waits for. -/
def State.waitFuture (s : State) (w : List Entry) : Entry :=
  let here (h : Entry) (i : Nat) : Bool := match s.here h with
    | some o => peST (o.page 0 (o.wordOff i / 65536)) == 1
    | none => true
  if here (w.getD 12 0) (bits (wordAt w 14) 0 10) then w.getD 13 0 else w.getD 12 0

/-- The 128 bytes of a launch's format table at the HRU: here, or from where their page is (R39). -/
def State.serveFmt (s : State) (t : Nat) (r : Req) : State :=
  if 16 ≤ r.words.length then s.gotFmt t r.tag r.words
  else match s.objFor t r.sid 3 r.a with
    | .error _ => s.gotFmt t r.tag []
    | .ok none => s.waitSpot t r (.askObj r.a)
    | .ok (some o) =>
      let ver := if o.live then 0 else o.cver
      if !o.live && ver == 0 then s.gotFmt t r.tag []
      else match (s.versionSpot t r.sid r.a ver 0 false).2 with
        | .mem m => s.gotFmt t r.tag (bytesWords 16 (dense s.mem m 128).toList)
        | .zero => s.gotFmt t r.tag (List.replicate 16 0)
        | .beyond => s.gotFmt t r.tag []
        | .remote q h v off => s.sendItem t q 1 { XferHdr.zero with obj := h, ver := v, off := off, segi := 8 } [[]] false none (some r) 0
        | p => s.waitSpot t r p

/-- One request of this package. -/
def State.serve (s : State) (t : Nat) (r : Req) : State :=
  match r.ins with
  | .tld _ _ | .tst _ _ | .tstW _ _ | .tmc _ _ _ | .tcopy _ _ _ | .tgath _ _ | .tscat _ _ _ | .tfill _ _ _ => s.serveCopy t r
  | .barArr _ _ => s.serveBarArr t r
  | .ldo _ _ _ => s.serveLdo t r
  | .mmaH _ _ _ _ _ | .latLdh _ _ => s.serveFetch t r
  | .adrainh _ _ _ _ => if r.eidx = 1 then s.serveAppend t r else s.serveFetch t r
  | .fcvt _ _ _ _ _ | .vcvt _ _ _ _ _ _ _ | .vpack _ _ _ _ _ _ _ | .adrain _ _ _ _ _ _ _ _ => s.serveAppend t r
  | .futRes _ _ _ =>
    if s.elsewhere r.a then s.failReq r (causeO 10 3 3 r.a 0 [(0x40, 1, hpkg r.a)]) else s.liveRequest t r
  | .futWait _ => match s.serveFutWait t r with
    | .held sub p e => s.holdReq t r sub (s.waitFuture r.words) 0 p e
    | x => s.endReq t r 0 x
  | .cntAdd _ _ _ | .cntRd _ _ _ _ | .waitc _ _ | .atom _ _ _ _ _ _ | .atomCas _ _ _ _ | .futNew _ _ | .futRd _ _ _ _ | .qOpen _ | .waitq _ =>
    s.liveRequest t r
  | .objOpenw _ _ | .objPub _ _ | .objAbandon _ | .objPin _ _ | .objUnpin _ | .objSub _ _ | .objVer _ _ _ | .objDesc _ _ _ | .waitv _ =>
    s.objRequest t r
  | .launch _ => s.serveLaunch t r
  | .launchCopy _ => s.serveFmt t r
  | .cpQueueLaunch m rec => s.launching m rec r.sid r.eidx
  | .coll _ => s.serveColl t r
  | .relLd _ _ => s.serveRelLd t r
  | .drOp _ _ _ => s.serveDrOp t r
  | .nbLoad _ | .nbRun _ | .nbAcc _ => s.serveNb t r
  | _ => s

/-- Draft bytes that a release at tower scope or wider must find in their frames: the dirty lines of its space in its dome (R132). -/
def Req.releases (r : Req) (t i : Nat) (l : CLine) : Bool := t == towerOf r.sp && i / 4 == r.sp % 32 / 8 && l.sid == r.sid

/-- `l2Miss`: HRU t takes the oldest request of its queue; a release at tower scope or wider first has its draft bytes written back (R132). -/
def execL2Miss (t : Fin 4) (s : State) : Out :=
  .next (match (s.hru t).q with
    | [] => s
    | r :: l =>
      let s1 := s.modHru t (fun u => { u with q := l })
      if r.away then s1.serveAway t r
      else if isRelease r.ins && !r.own && decide (3 ≤ r.scope) then
        let s2 := s1.flush r.releases
        if s2.dirtyLeft r.releases then s2.again t r else s2.serve t r
      else s1.serve t r)

end Sys2Proof.Machine
end

