-- ==== Sys2Proof/Machine/Flits.lean ====
section
/-! DEFINITION. Machine/Flits.lean: the receiving side of the fabric (R349 to R360, R364, R445, R446, R450, R453, R456): what a lane counts and
discards, path order, streams and their duplicates, and what each kind of flit does here. -/

namespace Sys2Proof.Machine

-- Lanes and peers

def State.lane (s : State) (n : Nat) : Lane := Tab.get s.fab.lanes n .reset
def State.modLane (s : State) (n : Nat) (f : Lane → Lane) : State := { s with fab := { s.fab with lanes := Tab.set s.fab.lanes n (f (s.lane n)) } }
def State.peer (s : State) (q : Nat) : Peer := Tab.get s.fab.peers q .reset
def State.modPeer (s : State) (q : Nat) (f : Peer → Peer) : State := { s with fab := { s.fab with peers := Tab.set s.fab.peers q (f (s.peer q)) } }

/-- A record of the fabric in tower t's queue: SPN 0, CTX 0b111, SPNE 1 (R445, R469) (PRESUMED, log 70). -/
def State.fabricEvent (s : State) (t sub : Nat) (detail : List (Nat × Nat × Nat)) : State :=
  s.postHru t (s.recordSpne 0 (.mk' 12 sub 0 detail) false)
/-- A record of lane n; the lane number takes the two bytes from 0x40. -/
def State.laneEvent (s : State) (n sub : Nat) (more : List (Nat × Nat × Nat)) : State := s.fabricEvent (n / 128) sub ([(0x40, 2, n)] ++ more)

/-- A saturating 32-bit counter. -/
def sat32 (n : Nat) : Nat := min n (2 ^ 32 - 1)

/-- Flits of one window (R446). -/
def windowFlits : Nat := 2 ^ 24

/-- A flit has arrived on its lane: bit errors and flits of the window are counted; the full window closes (R446, R447). -/
def State.counted (s : State) (f : Flit) : State :=
  let n := f.lane.val
  let s1 := s.modLane n (fun l => { l with bec := sat32 (l.bec + f.errs), wfc := l.wfc + 1 })
  if windowFlits ≤ (s1.lane n).wfc then s1.soon [.laneWindowClose f.lane] else s1

/-- A tag failure: counted, and the first of a window reported (Table 21-1). -/
def State.tagFail (s : State) (f : Flit) : State :=
  let n := f.lane.val
  let l := s.lane n
  let s1 := s.modLane n (fun l => { l with tagf := sat32 (l.tagf + 1) })
  if l.tagf = l.tagf0 then s1.laneEvent n 2 [(0x42, 1, f.h.hsrc), (0x48, 4, (s1.lane n).tagf)] else s1

/-- Reserved header bits or a reserved KIND (R350). -/
def flitReserved (f : Flit) : Bool := f.h.rsv != 0 || decide (0xB < f.h.kind)

/-- A flit from a package has passed its tag check: the package is heard of, its relay credits come back (R356, R451),
and its new key is in use on the lane (R365). -/
def State.hopped (s : State) (f : Flit) : State :=
  let q := f.h.hsrc
  let t := f.lane.val / 256 * 2 + s.cfg.pkn % 32 / 16
  let s1 := s.modPeer q (fun p => { p with
    heard := some s.fab.ns
    newOn := if p.oldKey ∧ f.h.kp = (p.epoch % 2 == 1) ∧ !p.newOn.contains f.lane then p.newOn ++ [f.lane.val] else p.newOn
    credit := if f.h.crd = 0 then p.credit else Tab.set p.credit t (min 256 (Tab.get p.credit t 0 + f.h.crd)) })
  let s2 := if (s.peer q).oldKey ∧ 16 ≤ (s1.peer q).newOn.length then s1.soon [.oldKeyErase (Fin.ofNat 256 q)] else s1
  if (s.peer q).unreachable then s2.later [.peerReachable (Fin.ofNat 256 q)] else s2

/-- The tag is checked under the key of the flit's phase: one whose key this package does not hold fails it (R364, R365) (DEDUCED, log 74). -/
def State.tagPasses (s : State) (f : Flit) : Bool :=
  let p := s.peer f.h.hsrc
  f.tagOk && (p.oldKey || f.h.kp == (p.epoch % 2 == 1))

-- Streams at their destination (R359)

/-- What a commit segment is to its stream: a duplicate, one segment of several, or the last of its commit. -/
inductive Taken
  | dup (answer : Option Flit)
  | part (s : State)
  | whole (s : State) (l : List (List Byte))
deriving DecidableEq, Repr

/-- B advances past every applied sequence. -/
def advanceBase : Nat → Nat → List Nat → Nat
  | 0, b, _ => b
  | n + 1, b, l => if l.contains b then advanceBase n (b + 1) l else b

def Stream.reset (key : Entry × Nat × Nat) : Stream where
  key := key
  base := 1
  applied := []
  segs := []
  results := []

/-- A segment enters its stream; the commit is applied once all its segments are here (R352, R359). -/
def State.takeCommit (s : State) (f : Flit) : Taken :=
  let key := (f.x.obj, f.h.esrc, f.x.rtag / 2 ^ 14)
  let y := (s.fab.streams.find? (fun (y : Stream) => y.key == key)).getD (.reset key)
  let put (z : Stream) : State := { s with fab := { s.fab with streams := z :: s.fab.streams.filter (fun (w : Stream) => w.key != key) } }
  let n := f.x.sseq
  if n < y.base ∨ y.applied.contains n then .dup ((y.results.find? (fun r => r.1 == n)).map (·.2))
  else
    let segs := if y.segs.any (fun g => g.1 == n && g.2.1 == f.x.segi) then y.segs else y.segs ++ [(n, f.x.segi, f)]
    let mine := segs.filter (fun g => g.1 == n)
    if mine.length < f.x.segn then .part (put { y with segs := segs })
    else
      let applied := n :: y.applied
      let base := advanceBase 65 y.base applied
      .whole (put { y with base := base, applied := applied.filter (fun a => decide (base ≤ a)), segs := segs.filter (fun g => g.1 != n) })
        ((List.range f.x.segn).map (fun k => match mine.find? (fun g => g.2.1 == k) with
          | some g => g.2.2.data
          | none => []))

/-- A commit of a stream: `k` is done once; a duplicate is answered again and not applied. -/
def State.once (s : State) (f : Flit) (k : State → List (List Byte) → State) : State :=
  match s.takeCommit f with
  | .dup (some a) => s.sendBare a
  | .dup none => s
  | .part s1 => s1
  | .whole s1 l => k s1 l

-- Requests of other packages

/-- A request of another package joins the queue of the object's home HRU. -/
def State.takeAway (s : State) (f : Flit) (i : Instr) (sid : Nat) (a b : Entry) (eidx : Nat) (words : List Entry) : State :=
  let t := match s.here a with
    | some o => if o.live then o.homeTower (o.wordOff eidx) % 4 else homeOf a
    | none => homeOf a
  let r : Req := ⟨i, 128 + f.h.esrc, 8, 0, sid, 0, f.x.sseq, 3, a, b, eidx, words, f.x.rtag⟩
  (s.modHru t (fun u => { u with q := u.q ++ [r] })).later [.l2Miss (Fin.ofNat 4 t)]

def zS : SrcS := ⟨0, false⟩
def zS2 : Src2 := ⟨zS, zS⟩

/-- A read request (R358). -/
def State.takeRdreq (s : State) (f : Flit) : State :=
  s.takeAway f (.tld zS2 0) 0 f.x.obj 0 0 [BitVec.ofNat 64 f.x.ver, BitVec.ofNat 64 f.x.off, BitVec.ofNat 64 (f.x.segi * 16 + f.x.segn)]

/-- A commit of a write, whole rows of a row operation among them (OPC 1, or 2 for a poisoned row; log 21), or of a reducing write. -/
def State.takeWrite (s : State) (f : Flit) (red : Bool) : State :=
  s.once f fun s l =>
    let part : List (Nat × Byte) := if !red ∧ f.x.opc = 1 then (List.range 1024).zip l.flatten else if !red ∧ f.x.opc = 2 then [] else segBytes l
    let bytes := part.map (fun p => BitVec.ofNat 64 ((f.x.off + p.1) * 256 + p.2.toNat))
    s.takeAway f (.tst zS2 0) 0 f.x.obj 0 (if red then 1 else 0)
      ([BitVec.ofNat 64 f.x.ver, BitVec.ofNat 64 f.x.off, BitVec.ofNat 64 f.x.fmt, BitVec.ofNat 64 f.x.opc] ++ bytes)

/-- The live operation that a LIVE request asks for (Table 13-3; log 21). -/
def liveIns (opc sub : Nat) : Instr :=
  match opc with
  | 0 => .ldo 0 zS2 .rlx
  | 1 => .cntAdd zS2 .rlx 0
  | 2 => .cntRd 0 zS .rlx 0
  | 3 => .atom 0 zS 0 ((AtomOp.ofCode sub).getD .add) .rlx 0
  | 4 => .atomCas 0 zS2 .rlx 0
  | 5 => match sub with
    | 0 => .futNew zS 0
    | 1 => .futRes zS2 false 0
    | 2 => .futRes zS2 true 0
    | _ => .futRd 0 zS .rlx 0
  | _ => match sub with
    | 0 => .qOpen zS2
    | 1 => .weightReturn
    | 2 => .borrow 0 0
    | 3 => .waitq zS
    | 4 => .launchActivate 0
    | 6 => .cpQueueLaunch ⟨false, 0, 0, 0, false, false, none⟩ []
    | _ => Instr.fcvt (Reg2.mk 0 zS) .f32 false .rne .f32

/-- A live request (R130, R358); one with an SSEQ is applied once. -/
def State.takeLiveReq (s : State) (f : Flit) : State :=
  let go (s : State) (l : List (List Byte)) : State :=
    let b := l.flatten
    let w := bytesWords (b.length / 8) b
    let w0 := wordAt w 0
    s.takeAway f (liveIns f.x.opc (bits w0 0 16)) (bits w0 16 16) (w.getD 1 0) (w.getD 2 0) (bits w0 32 32) (w.drop 3)
  if f.x.sseq = 0 then go s [f.data] else s.once f go

/-- The collective of a match here, if it is under way. -/
def State.collOf (s : State) (memb ix : Nat) : Option CollRun := s.colls.find? (fun a => a.memb == memb && a.ix == ix)
/-- The match was accepted here and is over. -/
def State.collOver (s : State) (memb ix : Nat) : Bool :=
  decide (ix < (s.collIx.filter (fun p => p.1 == memb)).length) && (s.collOf memb ix).isNone

/-- An acknowledgement of a commit that needs no HRU. -/
def State.ackNow (s : State) (f : Flit) : State :=
  let a := s.newFlit f.h.esrc 5 { XferHdr.zero with obj := f.x.obj, segn := 1, rtag := f.x.rtag, sseq := f.x.sseq } []
  (s.keepAnswer f.h.esrc f.x.obj f.x.rtag f.x.sseq a).sendBare a

/-- The collective of a match goes on. -/
def State.stepColl (s : State) (memb ix : Nat) : State :=
  match s.collOf memb ix with
  | some a => s.later [.collStep a.id]
  | none => s

/-- A part of a collective's step is received and held (R362, R454). -/
def State.takeColl (s : State) (f : Flit) : State :=
  s.once f fun s l =>
    let p := partOf f.h.esrc f.x.off l
    let s1 := s.ackNow f
    if s.collOver p.memb p.ix then s1 else ({ s1 with collIn := s1.collIn ++ [p] }).stepColl p.memb p.ix

/-- A tracked release message is delivered (R320, R360); one for an abandoned collective returns its weight (R454). -/
def State.takeRel (s : State) (f : Flit) : State :=
  s.once f fun s l =>
    let w := bytesWords 6 ((l.flatten))
    let n (k : Nat) : Nat := wordAt w k
    let memb := n 0 + n 1 * 2 ^ 64 + n 2 * 2 ^ 128 + n 3 * 2 ^ 192
    let s1 := s.ackNow f
    if s.collOver memb (n 4) then s1.sendReturn f.x.obj (f.x.off % 2 ^ 32)
    else
      let e : CollRel := ⟨memb, n 4, f.h.esrc, bits (n 5) 0 6, bits (n 5) 8 8, f.x.obj, f.x.off % 2 ^ 32⟩
      ({ s1 with collRel := s1.collRel ++ [e] }).stepColl memb (n 4)

-- Answers to what this package sent

/-- The words of an answer. -/
def flitWords (f : Flit) : List Entry := bytesWords (f.data.length / 8) f.data

/-- Kind of the flit that answers a request of another package. -/
def Req.answerKind (r : Req) : Nat :=
  match r.ins with
  | .tld _ _ => 2
  | .tst _ _ => 5
  | .tgath _ _ => 9
  | _ => r.flitKind

/-- The operation `n` under way fails; none where no such operation is. -/
def State.failRun (s : State) (n : Nat) (k : Cause) : Option State :=
  match s.aops.find? (fun a => a.id == n) with
  | some a => some (match s.engineOp a.r with
    | some m => s.failOp a.r.sp m { k with slot := 2 }
    | none => s.failAop a k)
  | none => match s.collRun n with
    | some a => some ((s.breakColl a).deferTrap a.r.sp a.r.c a.r.tid k a.r.off)
    | none => (s.rowRun n).map fun a =>
      ({ s with rows := s.rows.filter (fun b => b.id != n) }.leaveBank n).serveIdle.deferTrap a.r.sp a.r.c a.r.tid k a.r.off

/-- A request fails. -/
def State.failAsk (s : State) (r : Req) (k : Cause) : State :=
  if r.appends then (if r.b = 1 then s.noteReq r k else s).appended r
  else if r.own then (match r.ins with
    | .releaseStepPush => ((s.sendReturn r.a r.b.toNat).relMade (wordAt r.words 3)).relNext
    | .launchCopy t => s.gotFmt t r.tag []
    | .cpQueueLaunch m rec => s.launching m rec r.sid 2
    | .objDesc _ _ _ => s.modHru (towerOf r.sp) (fun u => u.learn [(r.a, 2 ^ 32 + 2, 0, 0)])
    | _ => s.ownDone r)
  else if r.away then s.respond (r.sp - 128) r.answerKind r.a r.tag r.slot (causeWords k)
  else match s.engineOp r with
    | some m => s.failOp r.sp m { k with slot := 2 }
    | none => s.failReq r k

/-- Accesses held for what another package would not give fail with its cause. -/
def State.failHeld (s : State) (t : Nat) (m : Entry → Nat → Nat → Bool) (k : Cause) : State :=
  let l := (s.hru t).miss.filter (fun q => m q.1 q.2.1 q.2.2.1)
  let s1 := s.modHru t (fun u => { u with miss := u.miss.filter (fun q => !m q.1 q.2.1 q.2.2.1) })
  l.foldl (fun s q => ((if q.2.2.2.away then none else s.failRun q.2.2.2.tag k)).getD (s.failAsk q.2.2.2 k)) s1

/-- The copy of a shared page comes to nothing: its frame goes back, and the writes that wait for it fail (R102). -/
def State.failPull (s : State) (n : Nat) (k : Cause) : State :=
  match s.pulls.find? (fun p => p.id == n) with
  | none => s
  | some p =>
    ({ s with pulls := s.pulls.filter (fun q => q.id != n) }.giveBack [(p.frame, p.t)]).failHeld p.t
      (fun h v g => h == p.h && v == 2 ^ 34 + p.ver && g == p.page) k

/-- What waited for an item fails. -/
def State.failItem (s : State) (i : Item) (k : Cause) : State :=
  match i.op, i.req with
  | some n, _ => (s.failRun n k).getD (s.failPull n k)
  | none, some r => s.failAsk r k
  | none, none => s

/-- Bytes of a shared page have come; the last of them give the draft its frame, and the writes that wait go on (R102). -/
def State.gotPull (s : State) (n : Nat) (l : List (Entry × Nat × Byte)) : State :=
  match s.pulls.find? (fun p => p.id == n) with
  | none => s
  | some p =>
    let buf := p.buf ++ (l.filter (fun b => p.page * 65536 ≤ b.2.1)).map (fun b => (b.2.1 - p.page * 65536, b.2.2))
    if buf.length < 65536 then { s with pulls := s.pulls.map (fun (q : Pull) => if q.id = n then { q with buf := buf } else q) }
    else
      let s1 := { s with pulls := s.pulls.filter (fun q => q.id != n) }
      let s2 := match s1.here p.h with
        | some o => if o.dver = p.ver ∧ o.mustPull p.page then (s1.giveFrame p.t (honum p.h) o p.page p.frame (buf.filter (fun b => b.2 != 0)) []).1
          else s1.giveBack [(p.frame, p.t)]
        | none => s1.giveBack [(p.frame, p.t)]
      s2.retryHeld p.t (fun h v g => h == p.h && v == 2 ^ 34 + p.ver && g == p.page)

/-- Bytes read for an asynchronous operation (R358, R468). -/
def State.gotBytes (s : State) (n : Nat) (l : List (Entry × Nat × Byte)) : State :=
  match s.aops.find? (fun a => a.id == n) with
  | some a => (s.modAop n (fun a => { a with buf := a.buf ++ l })).later a.event
  | none => match s.collRun n with
    | some a => (s.modColl { a with buf := a.buf ++ l }).later [.collStep n]
    | none => match s.rowRun n with
      | some a => (s.modRow { a with buf := a.buf ++ l }).later [.fallbackRow n]
      | none => s.gotPull n l

/-- A read response: collected until every part is here; one that answers nothing is discarded (R358, R450). -/
def State.takeRdrsp (s : State) (f : Flit) : State :=
  match s.fab.items.find? (fun i => i.peer == f.h.esrc && i.rtag == f.x.rtag) with
  | none => s
  | some i =>
    let got := if i.got.any (fun g => g.x.segi == f.x.segi) then i.got else i.got ++ [f]
    if f.x.opc = 7 then
      match s.takeItem f.h.esrc f.x.rtag with
      | some (i, s1) => s1.failItem i (wordsCause (flitWords f))
      | none => s
    else if got.length < f.x.segn then
      { s with fab := { s.fab with items := s.fab.items.map (fun (j : Item) =>
          if j.peer = i.peer ∧ j.rtag = i.rtag then { j with got := got } else j) } }
    else
      match s.takeItem f.h.esrc f.x.rtag with
      | none => s
      | some (i, s1) =>
        let parts := (List.range f.x.segn).filterMap (fun k => got.find? (fun g => g.x.segi == k))
        match i.op, i.req with
        | some n, _ => s1.gotBytes n (parts.flatMap (fun g => ((List.range g.data.length).zip g.data).map (fun p => (g.x.obj, g.x.off + p.1, p.2))))
        | none, some r =>
          let data := parts.flatMap (fun g => g.data)
          let t := towerOf r.sp % 4
          (match r.ins with
            | .ldo _ _ _ =>
              let fm := (Fmt.ofCode ((i.flits.map (fun g => g.x.fmt)).headD 0)).getD .z8
              s1.finishReq t r (putPat fm (ofBytes data)) 0
            | _ => (s1.modHru t (fun u => { u with q := u.q ++ [{ r with words := r.words ++ bytesWords (data.length / 8) data }] })).later
                [.l2Miss (Fin.ofNat 4 t)])
        | none, none => s1

/-- An acknowledgement: the commit stands; its bytes are signalled, and what waited for the last one goes on (R121, R359, R451). -/
def State.takeAck (s : State) (f : Flit) : State :=
  match s.takeItem f.h.esrc f.x.rtag with
  | none => s
  | some (i, s1) =>
    if f.x.opc = 7 then s1.failItem i (wordsCause (flitWords f))
    else match i.op with
      | none => s1
      | some n =>
        match s1.aops.find? (fun a => a.id == n) with
        | some a =>
          let t := towerOf a.r.sp
          let d := a.r.desc
          let s2 := (s1.modAop n (fun a => { a with bytes := a.bytes + i.bytes })).signal t a.r a.tsb d.tk d.bar d.th d.tix i.bytes n
          match s2.aops.find? (fun a => a.id == n) with
          | some b => if b.plan.length ≤ b.done.length ∧ s2.quiet n then s2.endAop t b else s2
          | none => s2
        | none => match s1.collRun n with
          | some _ => s1.later [.collStep n]
          | none => match s1.rowRun n with
            | some a => if a.cls = some 3 ∧ s1.quiet n then s1.rowEnds a 2 else if a.fin ∧ s1.quiet n then s1.later [.rowOpDone n] else s1
            | none => s1

/-- The answer to a live request. -/
def State.takeLiveRsp (s : State) (f : Flit) : State :=
  match s.takeItem f.h.esrc f.x.rtag with
  | none => s
  | some (i, s1) =>
    let w := flitWords f
    if w.headD 1 ≠ 0 then s1.failItem i (wordsCause w)
    else match i.req with
      | some r => if r.appends then s1.appended r else s1.finishReq (f.x.rtag / 2 ^ 14 % 4) r (w.getD 1 0) (w.getD 2 0)
      | none => s1

/-- An HRU message: a request for an entry, a page map entry, a shard map entry or an object instruction; or its answer (R97, R358). -/
def State.takeHru (s : State) (f : Flit) : State :=
  let w := flitWords f
  let h := f.x.obj
  if f.x.opc ≠ 7 then
    match f.x.opc with
    | 0 => s.entryServe (homeOf h) f.h.esrc f.x.rtag h (wordAt w 0)
    | 1 => s.takeAway f (.tgath zS2 0) (wordAt w 0) h 0 0 [1, BitVec.ofNat 64 f.x.ver, BitVec.ofNat 64 (f.x.off / 65536)]
    | 2 => s.takeAway f (.tgath zS2 0) (wordAt w 0) h 0 0 [2, BitVec.ofNat 64 (f.x.off / 65536)]
    | _ =>
      let w0 := wordAt w 0
      s.takeAway f (objOfCode (bits w0 0 16)) (bits w0 16 16) h (w.getD 1 0) (bits w0 32 32) (w.drop 2)
  else
    match s.takeItem f.h.esrc f.x.rtag with
    | none => s
    | some (i, s1) =>
      let t := f.x.rtag / 2 ^ 14 % 4
      let q := i.flits.headD (s.newFlit 0 0 XferHdr.zero [])
      let page := q.x.off / 65536
      let ver := if q.x.opc = 0 then 2 ^ 32 else if q.x.opc = 2 then 2 ^ 33 else q.x.ver
      let this (a : Entry) (v p : Nat) : Bool := a == h && v == ver && (p == page || q.x.opc == 0)
      let learn (s : State) (l : List (Entry × Nat × Nat × Entry)) : State := s.modHru t (fun u => u.learn l)
      if q.x.opc = 3 then
        match i.req with
        | none => s1
        | some r => if w.headD 1 ≠ 0 then s1.failItem i (wordsCause w) else s1.finishObj t r (w.getD 1 0) (w.getD 2 0)
      else if w.headD 1 ≠ 0 then
        (if (i.req.map Req.own).getD false then learn s1 [(h, 2 ^ 32 + 2, 0, 0)] else s1).failHeld t this (wordsCause w)
      else
        let s2 := match q.x.opc with
          | 0 => learn s1 (((List.range 16).map (fun k => (h, 2 ^ 32, k, w.getD (k + 1) 0))) ++
              [(h, 2 ^ 32 + 1, (i.req.map (fun (r : Req) => r.sid)).getD 0, w.getD 17 0)])
          | 1 => learn s1 [(h, ver, page, s1.nearEntry f.h.esrc (w.getD 1 0))]
          | _ => learn s1 [(h, ver, page, w.getD 1 0)]
        s2.retryHeld t this

-- The time base (R349, R456)

/-- Relay buffers lose what they hold (R453). -/
def State.clearRelays (s : State) : State := { s with towers := s.towers.map (fun (p : Nat × Tower) => (p.1, { p.2 with relay := [] })) }

/-- Alignment is lost: emission stops, FABRIC/0x0A with the last offset, relay buffers are discarded (R456). -/
def State.loseAlignment (s : State) : State :=
  if !s.fab.aligned then s
  else ({ s with fab := { s.fab with aligned := false, unalignedAt := s.fab.ns, dark := true } }.fabricEvent 0 0x0A
    [(0x40, 8, s.fab.lastOff.toNat)]).clearRelays

/-- A TIME flit (R349). The time master answers one with its count. At another package one from the master within ±8 ns steers the time base to within
±2 ns of it, by an open value (DESIGN CHOICE, log 5) (DEDUCED, log 75) (DESIGN CHOICE, log 73). -/
def State.takeTime (s : State) (f : Flit) : State :=
  if s.fab.master = s.cfg.pkn then
    (if f.x.opc = 7 then s else s.sendBare (s.newFlit f.h.esrc 0xA { XferHdr.zero with opc := 7 } (leBytes s.fab.ns 8)))
  else if f.h.esrc ≠ s.fab.master then s
  else
    let off : Int := (BitVec.ofNat 64 f.x.off).toInt
    let s1 := { s with fab := { s.fab with timeSeen := s.fab.ns, lastOff := BitVec.ofNat 64 f.x.off } }
    if !s.fab.aligned then s1
    else if 8 < off ∨ off < -8 then s1.loseAlignment
    else
      let rest : Int := ((Config.freeWord s.free).toNat % 5 : Nat) - 2
      { s1 with free := s.free + 1, fab := { s1.fab with ns := ((s.fab.ns : Int) - off + rest).toNat } }

-- Path order (R357)

/-- A flit handed to its consumer. -/
def State.consume (s : State) (f : Flit) : State :=
  match f.h.kind with
  | 1 => s.takeRdreq f
  | 2 => s.takeRdrsp f
  | 3 => s.takeWrite f false
  | 4 => s.takeWrite f true
  | 5 => s.takeAck f
  | 6 => if f.x.opc = 7 then s.takeLiveRsp f else s.takeLiveReq f
  | 7 => s.takeColl f
  | 8 => s.takeRel f
  | 9 => s.takeHru f
  | 0xA => s.takeTime f
  | _ => s

/-- The path that a flit came by. -/
def flitPath (f : Flit) : Nat × Nat := (f.h.esrc, if f.h.rly then f.h.hsrc else 256)
/-- The PSEQ that a path expects next. -/
def State.nextPseq (s : State) (p : Nat × Nat) : Nat :=
  ((s.fab.pseqRx.find? (fun q => q.1 == p.1 && q.2.1 == p.2)).map (·.2.2)).getD 0

/-- Flits of a path that are now in turn, handed on in order. -/
def State.handOn (s : State) (p : Nat × Nat) : Nat → State
  | 0 => s
  | n + 1 =>
    let k := s.nextPseq p
    match s.fab.reorder.find? (fun f => (flitPath f) == p && f.h.pseq == k) with
    | none => s
    | some f =>
      let s1 := { s with fab := { s.fab with
        reorder := s.fab.reorder.erase f
        pseqRx := (p.1, p.2, (k + 1) % 2 ^ 16) :: s.fab.pseqRx.filter (fun q => !(q.1 == p.1 && q.2.1 == p.2)) } }
      State.handOn (s1.consume f) p n

/-- A flit for this package waits until every earlier flit of its path has been handed on. -/
def State.inOrder (s : State) (f : Flit) : State :=
  let s1 := { s with fab := { s.fab with reorder := s.fab.reorder ++ [f] } }
  s1.handOn (flitPath f) s1.fab.reorder.length

/-- A flit that a lane receives: counted; discarded for its tag or its header; held for relay; or handed on in path order. The place of a
discarded flit in its path counts as handed on (log 21). -/
def State.receive (s : State) (f : Flit) : State :=
  let s1 := s.counted f
  let skip (s : State) : State :=
    if f.h.edst = s.cfg.pkn ∧ f.h.kind ≠ 0 then s.inOrder { f with h := { f.h with kind := 0xC } } else s
  if !s.tagPasses f then skip (s1.tagFail f)
  else if flitReserved f then skip (s1.laneEvent f.lane 1 [(0x42, 1, f.h.hsrc)])
  else
    let s2 := s1.hopped f
    if f.h.kind = 0 then s2
    else if f.h.edst ≠ s.cfg.pkn then s2.modTower (f.lane.val / 128) (fun t => { t with relay := t.relay ++ [(s.fab.ns / 512, f)] })
    else s2.inOrder f

/-- A flit of the kind that its event names. -/
def flitOfKind (f : Flit) (k : Nat) : Flit := { f with h := { f.h with kind := k } }

-- The events

def execIdle (f : Flit) (s : State) : Out := .next (s.receive (flitOfKind f 0))
def execRdreq (f : Flit) (s : State) : Out := .next (s.receive (flitOfKind f 1))
def execRdrsp (f : Flit) (s : State) : Out := .next (s.receive (flitOfKind f 2))
def execWrite (f : Flit) (s : State) : Out := .next (s.receive (flitOfKind f 3))
def execRedw (f : Flit) (s : State) : Out := .next (s.receive (flitOfKind f 4))
def execAck (f : Flit) (s : State) : Out := .next (s.receive (flitOfKind f 5))
def execLive (f : Flit) (s : State) : Out := .next (s.receive (flitOfKind f 6))
def execCollFlit (f : Flit) (s : State) : Out := .next (s.receive (flitOfKind f 7))
def execRel (f : Flit) (s : State) : Out := .next (s.receive (flitOfKind f 8))
def execHruFlit (f : Flit) (s : State) : Out := .next (s.receive (flitOfKind f 9))
/-- The offset that the package measures stands where a transfer header would. -/
def execTime (f : Flit) (offset : Int) (s : State) : Out :=
  .next (s.receive { flitOfKind f 0xA with x := { f.x with off := (BitVec.ofInt 64 offset).toNat } })
/-- The keep cores take the message; what they derive from it arrives as `keyEpochInstall` (R365). -/
def execKey (f : Flit) (s : State) : Out := .next (s.receive (flitOfKind f 0xB))

/-- `flitDiscard`: a flit that fails its tag or header checks, or that the lane's code could not correct (UCW) (R350, R364, R446). -/
def execFlitDiscard (f : Flit) (s : State) : Out :=
  .next (if !s.tagPasses f || flitReserved f then s.receive f
    else
      let s1 := (s.counted f).modLane f.lane (fun l => { l with ucw := sat32 (l.ucw + 1) })
      if f.h.edst = s.cfg.pkn ∧ f.h.kind ≠ 0 then s1.inOrder { f with h := { f.h with kind := 0xC } } else s1)

end Sys2Proof.Machine
end

