-- ==== Sys2Proof/Machine/Lantern.lean ====
section
/-! DEFINITION. Machine/Lantern.lean: the sending side of the fabric: the calendar (R346, R347), the choice of a path (R354), the lanes' order
(R353), relays and credits (R355, R356), keys and counters (R364, R365, R455), retraining (R446 to R449, R469), resending and reachability
(R450, R451), alignment (R456). Flight times and the advance of R348 are left out: a slot's times are those of the time base (log 22). -/

namespace Sys2Proof.Machine

-- The calendar (R346, R347)

/-- Octant and index of this package. -/
def State.octantOf (s : State) : Nat := s.cfg.pkn / 32
def State.indexOf (s : State) : Nat := s.cfg.pkn % 32
/-- The slot of the calendar cycle, and the flit time of the slot; 15 is the guard. -/
def State.slotNow (s : State) : Nat := s.fab.ns / 512 % 8
def State.flitTime (s : State) : Nat := s.fab.ns % 512 / 32
/-- The slot in which this package faces q. -/
def State.directSlot (s : State) (q : Nat) : Nat := s.octantOf ^^^ (q / 32)
/-- The package that lane n faces in slot k. -/
def State.facedBy (s : State) (n k : Nat) : Nat := (s.octantOf ^^^ k) * 32 + n / 8 % 32
/-- Lanes toward q, ascending. -/
def lanesToward (q : Nat) : List Nat := (List.range 8).map (8 * (q % 32) + ·) ++ (List.range 8).map (8 * (q % 32 + 32) + ·)
/-- Present packages faced in slot k. -/
def State.facedIn (s : State) (k : Nat) : List Nat :=
  ((List.range 32).map (fun j => (s.octantOf ^^^ k) * 32 + j)).filter (fun q => q != s.cfg.pkn && s.present q)

/-- Lane n carries flits to q: active, or facing the retraining of another package (R447, R469). -/
def State.serves (s : State) (n q : Nat) : Bool :=
  let l := s.lane n
  !l.ldis && (l.lst == 0 || (l.lst == 1 && (match l.facing with
    | some p => p != q
    | none => false)))
/-- Lanes in service toward q. -/
def State.inService (s : State) (q : Nat) : List Nat := (lanesToward q).filter (fun n => s.serves n q)

/-- The package emits: aligned, its lasers on, not in thermal stop (R456, R463). -/
def State.emits (s : State) : Bool := s.fab.aligned && !s.fab.dark && !s.cfg.thermal

-- The choice of a path (R354)

/-- Flit times of the slot that q's lanes have used. -/
def State.usedTimes (s : State) (q : Nat) : Nat := ((s.fab.used.find? (fun p => p.1 == q)).map (·.2)).getD 0
/-- Flit times left in the slot for q's lanes. -/
def State.timesLeft (s : State) (q : Nat) : Nat := 15 - max (s.usedTimes q) (min 15 s.flitTime)

/-- Tower of m at which flits sent on our lane n arrive. -/
def State.arrivalTower (s : State) (n : Nat) : Nat := n / 256 * 2 + s.indexOf / 16
/-- Credit that m has given for one of its towers; withheld while m is unreachable (R451). -/
def State.creditOf (s : State) (m t : Nat) : Nat := if s.unreachable m then 0 else Tab.get (s.peer m).credit t 0

/-- The path of a flit: none is the direct one, else the intermediate; `b` direct flits for EDST are ahead of it. -/
def State.choose (s : State) (f : Flit) (b : Nat) : Option Nat :=
  let q := f.h.edst
  let k := s.slotNow
  let d := s.directSlot q
  let dd := (d + 8 - k) % 8 + 8 * (b / 240)
  let m := (s.octantOf ^^^ k) * 32 + q % 32
  let rd0 := ((k ^^^ d) + 8 - k) % 8
  let rd := if rd0 = 0 then 8 else rd0
  if f.h.kind = 7 ∨ d = 0 ∨ k = 0 then none
  else if d = k ∧ b < (s.inService q).length * s.timesLeft q then none
  else if rd < dd ∧ s.present m ∧ m ≠ s.cfg.pkn ∧ m ≠ q ∧ 0 < s.timesLeft m
      ∧ (s.inService m).any (fun n => decide (0 < s.creditOf m (s.arrivalTower n))) then some m
  else none

/-- Paths for the flits that are not yet sent, in the order in which they were queued. -/
def State.choosePaths (s : State) : List Flit → List Flit → List Flit
  | [], done => done.reverse
  | f :: r, done =>
    let b := (done.filter (fun g => g.h.edst == f.h.edst && !g.h.rly)).length
    let g : Flit := match s.choose f b with
      | none => { f with h := { f.h with hdst := f.h.edst, rly := false } }
      | some m => { f with h := { f.h with hdst := m, rly := true } }
    State.choosePaths s r (g :: done)

/-- Every unsent flit has its path: flits that joined since get one; at a slot's start all choose afresh. -/
def State.paths (s : State) (afresh : Bool) : State :=
  let l := s.fab.outq
  if afresh then { s with fab := { s.fab with outq := s.choosePaths l [] } }
  else
    let old := l.filter (fun f => f.h.hdst != s.cfg.pkn)
    let new := l.filter (fun f => f.h.hdst == s.cfg.pkn)
    { s with fab := { s.fab with outq := old ++ (s.choosePaths new old.reverse).drop old.length } }

-- Sending (R353)

/-- At most 64 commits of a stream are unacknowledged (R359): the flit's commit is among the first 64 of its stream. -/
def State.mayGo (s : State) (f : Flit) : Bool :=
  f.x.sseq == 0 || f.h.esrc != s.cfg.pkn || f.x.opc == 7 || f.h.kind == 5
    || decide ((s.fab.items.filter (fun i => i.sseq != 0 && decide (i.sseq < f.x.sseq) && i.rtag / 2 ^ 14 == f.x.rtag / 2 ^ 14
      && (i.flits.any (fun g => g.x.obj == f.x.obj)))).length < 64)

/-- What is left to send toward q in one flit time: forwarding flits with their relay tower, direct flits, first-hop relay flits. -/
structure Loads where
  fwd : List (Nat × Nat × Flit)
  direct : List Flit
  relay : List Flit
deriving DecidableEq, Repr

/-- Flits of a path, by its destination and its first hop, that have been sent and, as far as this package knows, not been handed on (R357)
(DEDUCED, log 72). -/
def State.onPath (s : State) (dst hop : Nat) : Nat :=
  ((s.fab.items.flatMap (·.flits)).filter (fun g => g.h.edst == dst && g.h.hdst == hop)).length

/-- Flits that may leave for hop q in their order: a path holds at most 2^15 that are on their way, and more of them wait (R357). -/
def State.leaving (s : State) (q : Nat) : List Flit :=
  (s.fab.outq.filter (fun f => f.h.hdst == q && s.mayGo f)).foldl (fun l f =>
    if s.onPath f.h.edst q + (l.filter (fun g => g.h.edst == f.h.edst)).length < 2 ^ 15 then l ++ [f] else l) []

/-- Flits held as intermediate for q whose forwarding slot has come, oldest arrival first (R355). -/
def State.forwards (s : State) (q : Nat) : List (Nat × Nat × Flit) :=
  let all := [0, 1, 2, 3].flatMap (fun t => ((s.tower t).relay.filter (fun p => p.2.h.edst == q && decide (p.1 < s.fab.ns / 512))).map
    (fun p => (t, p.1, p.2)))
  let rec insert (x : Nat × Nat × Flit) : List (Nat × Nat × Flit) → List (Nat × Nat × Flit)
    | [] => [x]
    | y :: r => if y.2.1 ≤ x.2.1 then y :: insert x r else x :: y :: r
  all.foldl (fun l x => insert x l) []

def State.loads (s : State) (q : Nat) : Loads :=
  let mine := s.leaving q
  let d := mine.filter (fun f => !f.h.rly)
  ⟨s.forwards q, d.filter (fun f => f.h.kind == 7) ++ d.filter (fun f => f.h.kind != 7), mine.filter (fun f => f.h.rly)⟩

/-- A path's next PSEQ is taken (DEDUCED, log 72). -/
def State.takePseq (s : State) (dst via : Nat) : State × Nat :=
  let n := ((s.fab.pseqTx.find? (fun p => p.1 == dst && p.2.1 == via)).map (·.2.2)).getD 0
  ({ s with fab := { s.fab with
      pseqTx := (dst, via, (n + 1) % 2 ^ 16) :: s.fab.pseqTx.filter (fun p => !(p.1 == dst && p.2.1 == via)) } }, n)

/-- A flit goes out on lane n toward q: the hop's fields are filled, owed credits of the lane's tower go back with it, CTR advances, and a lane
that has sent CTR 2^32 - 2 enters key-wait (R350, R356, R364, R455). -/
def State.emit (s : State) (n q : Nat) (f : Flit) : State :=
  let p := s.peer q
  let t := n / 128
  let crd := min 255 (Tab.get p.owed t 0)
  let l := s.lane n
  let ctr := Tab.get l.ctr q 0
  let g : Flit := { f with
    lane := Fin.ofNat 512 n
    tagOk := true
    errs := 0
    h := { f.h with hsrc := s.cfg.pkn, hdst := q, kp := p.epoch % 2 == 1, rsv := 0, crd := crd, ctr := ctr, tns := s.fab.ns % 4096 } }
  let s1 := (s.modPeer q (fun p => { p with owed := Tab.set p.owed t (Tab.get p.owed t 0 - crd) })).modLane n (fun l =>
    { l with ctr := Tab.set l.ctr q (ctr + 1), lst := if ctr = 2 ^ 32 - 2 then 2 else l.lst })
  let s2 := { s1 with fab := { s1.fab with sent := s1.fab.sent ++ [g] } }
  if ctr = 2 ^ 32 - 2 then s2.laneEvent n 6 [(0x42, 1, q)] else s2

/-- A flit of this package leaves the queue; its item remembers the lane that each of its flits went out on (DEDUCED, log 73). -/
def State.leaves (s : State) (f : Flit) (n q : Nat) : State :=
  { s with fab := { s.fab with
      outq := s.fab.outq.erase f
      items := s.fab.items.map (fun (i : Item) =>
        if i.peer = f.h.edst ∧ i.rtag = f.x.rtag ∧ f.x.opc ≠ 7 then
          { i with flits := i.flits.map (fun (g : Flit) =>
              if g.x.segi = f.x.segi then { g with lane := Fin.ofNat 512 n, h := { g.h with hdst := q } } else g) }
        else i) } }

/-- One lane's flit of the flit time: the order of R353. -/
def State.laneSend (s : State) (q n : Nat) (w : Loads) : State × Loads :=
  match w.fwd, w.direct with
  | (t, _, f) :: r, _ =>
    let s1 := (s.modTower t (fun x => { x with relay := x.relay.eraseP (fun p => p.2 == f) })).modPeer f.h.esrc (fun p =>
      { p with owed := Tab.set p.owed t (Tab.get p.owed t 0 + 1) })
    (s1.emit n q f, { w with fwd := r })
  | [], f :: r =>
    let p := s.takePseq f.h.edst 256
    ((p.1.leaves f n q).emit n q { f with h := { f.h with pseq := p.2 } }, { w with direct := r })
  | [], [] =>
    let t := s.arrivalTower n
    match w.relay with
    | f :: r =>
      if 0 < s.creditOf q t then
        let p := s.takePseq f.h.edst q
        let s1 := p.1.modPeer q (fun y => { y with credit := Tab.set y.credit t (Tab.get y.credit t 0 - 1) })
        ((s1.leaves f n q).emit n q { f with h := { f.h with pseq := p.2 } }, { w with relay := r })
      else (s.emit n q ⟨{ FlitHdr.zero with esrc := s.cfg.pkn, edst := q }, XferHdr.zero, [], 0, true, 0⟩, w)
    | [] => (s.emit n q ⟨{ FlitHdr.zero with esrc := s.cfg.pkn, edst := q }, XferHdr.zero, [], 0, true, 0⟩, w)

/-- `flitSend`: one flit time of the slot on the lanes that face q, in ascending lane number (R353) (DEDUCED, log 73). -/
def execFlitSend (peer : Fin 256) (s : State) : Out :=
  let q := peer.val
  let k := s.flitTime
  .next (if !s.emits || q == s.cfg.pkn || !s.present q || s.directSlot q != s.slotNow || decide (15 ≤ k) || decide (k < s.usedTimes q) then s
    else
      let s0 := s.paths false
      let s1 := { s0 with fab := { s0.fab with sent := [], used := (q, k + 1) :: s0.fab.used.filter (fun p => p.1 != q) } }
      ((s1.inService q).foldl (fun (x : State × Loads) n => x.1.laneSend q n x.2) (s1, s1.loads q)).1)

-- Slots

/-- A flit that is not acknowledged goes out again on a path chosen afresh (R366, R450). -/
def State.requeue (s : State) (l : List Flit) : State :=
  let new := (l.filter (fun f => !s.fab.outq.any (fun g => g.h.edst == f.h.edst && g.x.rtag == f.x.rtag && g.x.segi == f.x.segi
    && g.h.kind == f.h.kind))).map (fun (f : Flit) => { f with h := { f.h with hdst := s.cfg.pkn, rly := false } })
  { s with fab := { s.fab with outq := s.fab.outq ++ new } }

/-- Unacknowledged flits that went out on lane n to one of `q` go again (R366). -/
def State.laneLost (s : State) (n : Nat) (q : Nat → Bool) : State :=
  s.requeue (s.fab.items.flatMap (fun i => i.flits.filter (fun f => f.lane.val == n && f.h.hdst != s.cfg.pkn && q f.h.hdst)))

/-- Calendar cycle in ns, the interval of R450, and the limit of R448. -/
def cycleNs : Nat := 4096
def resendNs : Nat := 8 * cycleNs
def retrainNs : Nat := 64 * cycleNs

/-- What a slot's start brings (R347, R447, R448, R450, R456). -/
def State.slotEvents (s : State) : List Instr :=
  let lanes := s.fab.lanes
  (lanes.filter (fun p => p.2.wantTrain)).map (fun p => .retrainStart (Fin.ofNat 512 p.1))
    ++ (lanes.filter (fun p => p.2.lst == 1 && p.2.facing.isNone && (match p.2.outSince with
      | some t => decide (t + retrainNs ≤ s.fab.ns)
      | none => false))).map (fun p => .retrainTimeout (Fin.ofNat 512 p.1))
    ++ (s.fab.items.filter (fun i => decide (i.sentNs + resendNs ≤ s.fab.ns))).map (fun i => .resendTimer (i.peer * 2 ^ 16 + i.rtag))
    ++ (s.fab.peers.filter (fun p => p.2.oldKey && decide (p.2.epochNs + cycleNs ≤ s.fab.ns))).map (fun p => .oldKeyErase (Fin.ofNat 256 p.1))
    ++ (if s.fab.aligned ∧ s.fab.timeSeen + 4096 * cycleNs ≤ s.fab.ns ∧ s.fab.master ≠ s.cfg.pkn then [.timeFlitTimeout] else [])
    ++ s.colls.map (fun a => .collStep a.id)

/-- The flits of a flit time toward every package faced. -/
def State.sends (s : State) : List Instr :=
  if s.emits ∧ s.flitTime < 15 then (s.facedIn s.slotNow).map (fun q => .flitSend (Fin.ofNat 256 q)) else []

/-- Every 1,024 calendar cycles the package asks the time master for its count (R349) (DESIGN CHOICE, log 73). -/
def State.askTime (s : State) (slot : Nat) : State :=
  if slot % 8192 ≠ 0 ∨ s.fab.master = s.cfg.pkn ∨ !s.present s.fab.master then s
  else s.sendBare (s.newFlit s.fab.master 0xA XferHdr.zero (leBytes s.fab.ns 8))

/-- `slotStart`: the next slot begins: the time base has reached its boundary; emission resumes at a slot 0 once aligned; paths are chosen
afresh (R347, R354, R456) (DESIGN CHOICE, log 22). -/
def execSlotStart (s : State) : Out :=
  let k := max s.fab.slotAt (s.fab.ns / 512)
  let s1 := { s with fab := { s.fab with
    ns := max s.fab.ns (k * 512)
    slotAt := k + 1
    used := []
    dark := if k % 8 = 0 ∧ s.fab.aligned ∧ !s.cfg.thermal then false else s.fab.dark } }
  let s2 := (s1.askTime k).paths true
  .next (s2.later (s2.slotEvents ++ s2.sends))

/-- Collectives with ALGN = 0 whose first step may begin at a flit time of slot 0 (R362). -/
def State.collsToBegin (s : State) : List Instr :=
  if s.slotNow ≠ 0 then []
  else (s.colls.filter (fun a => a.phase == 1 && !a.r.cAlgn && a.segs.any (fun g => g.step == 0 && g.last.isNone))).map (fun a => .collStep a.id)

/-- The time base runs on by one reference pulse of 5/8 ns (R5, R29, R33; DESIGN CHOICE, log 22); boundaries of slots and flit times bring their events. -/
def State.tick (s : State) : State :=
  let f := s.fab.frac + 5
  let ns := s.fab.ns + f / 8
  let s1 := { s with fab := { s.fab with ns := ns, frac := f % 8 } }
  if s.fab.slotAt ≤ ns / 512 then s1.later [.slotStart]
  else if ns / 32 ≠ s.fab.ns / 32 then s1.later (s1.collsToBegin ++ s1.sends)
  else s1

-- Resending and reachability (R450, R451)

/-- Everything outstanding toward q is abandoned with FABRIC/0x0D. -/
def State.abandonPeer (s : State) (q : Nat) : State :=
  let l := s.fab.items.filter (fun i => i.peer == q)
  let s1 := { s with fab := { s.fab with
    items := s.fab.items.filter (fun i => i.peer != q)
    outq := s.fab.outq.filter (fun f => !l.any (fun i => f.h.edst == q && f.x.rtag == i.rtag && f.x.opc != 7)) } }
  l.foldl (fun s i => s.failItem i (.mk' 12 0x0D 3 [(0x40, 1, q), (0x48, 8, if i.sseq = 0 then i.rtag else i.sseq)])) s1

/-- `resendTimer`: the item named by peer · 2^16 + RTAG is sent again after 8 calendar cycles; after 32 sends with nothing heard its peer is
unreachable, and what waits for a peer that is so is abandoned. -/
def execResendTimer (i : Nat) (s : State) : Out :=
  let q := i / 2 ^ 16
  .next (match s.fab.items.find? (fun j => j.peer == q && j.rtag == i % 2 ^ 16) with
    | none => s
    | some it =>
      if s.unreachable q then s.abandonPeer q
      else if s.fab.ns < it.sentNs + resendNs then s
      else if decide (32 ≤ it.sends) && (match (s.peer q).heard with
          | none => true
          | some t => decide (t < it.firstNs)) then
        ((s.modPeer q (fun p => { p with unreachable := true })).fabricEvent 0 8 [(0x40, 1, q)]).abandonPeer q
      else
        ({ s with fab := { s.fab with items := s.fab.items.map (fun (j : Item) =>
            if j.peer = q ∧ j.rtag = it.rtag then { j with sends := j.sends + 1, sentNs := s.fab.ns } else j) } }).requeue it.flits)

/-- `peerReachable`: a flit of an unreachable peer has passed its tag check. -/
def execPeerReachable (q : Fin 256) (s : State) : Out :=
  .next (if !s.unreachable q then s
    else (s.modPeer q (fun p => { p with unreachable := false, credit := Peer.reset.credit })).fabricEvent 0 9 [(0x40, 1, q.val)])

-- Keys (R365, R455)

/-- `keyEpochInstall`: the next epoch toward q: CTR restarts on every lane, the old key stays for what is on its way, and lanes in key-wait
leave it. -/
def execKeyEpochInstall (q : Fin 256) (s : State) : Out :=
  let s1 := s.modPeer q (fun p => { p with epoch := p.epoch + 1, oldKey := true, newOn := [], epochNs := s.fab.ns })
  .next ((lanesToward q).foldl (fun s n =>
    let l := s.lane n
    let c := Tab.set l.ctr q 0
    let wait := l.lst == 2 && Tab.get l.ctr q 0 == 2 ^ 32 - 1
    let s1 := s.modLane n (fun l => { l with ctr := c, lst := if wait then 0 else l.lst })
    if wait then s1.laneEvent n 7 [(0x42, 1, q.val)] else s1) s1)

/-- `oldKeyErase`: the old key goes once the new one has been seen on every lane of the pair, or after one calendar cycle. -/
def execOldKeyErase (q : Fin 256) (s : State) : Out :=
  let p := s.peer q
  .next (if p.oldKey ∧ (16 ≤ p.newOn.length ∨ p.epochNs + cycleNs ≤ s.fab.ns) then s.modPeer q (fun p => { p with oldKey := false, newOn := [] })
    else s)

-- Lanes (R446 to R449)

/-- `laneWindowClose`: the window's errors go to LWIN; retraining is due where R447 says so (DEDUCED, log 69). -/
def execLaneWindowClose (n : Fin 512) (s : State) : Out :=
  let l := s.lane n
  .next (if l.wfc < windowFlits then s
    else s.modLane n (fun l => { l with
      lwin := l.bec
      bec := 0
      wfc := 0
      ucw0 := l.ucw
      tagf0 := l.tagf
      wantTrain := l.wantTrain || (l.rte && l.lst == 0 && (decide (l.thr < l.bec) || decide (l.ucw0 + 64 ≤ l.ucw) || decide (l.tagf0 + 64 ≤ l.tagf))) }))

/-- A retraining counts (DEDUCED, log 69). -/
def Lane.train (l : Lane) (ns : Nat) (facing : Option Nat) : Lane :=
  { l with lst := 1, rtc := min 65535 (l.rtc + 1), outSince := some ns, facing := facing, wantTrain := false, failed := false }

/-- `retrainStart`: from this slot on the lane carries no flit (R447). -/
def execRetrainStart (n : Fin 512) (s : State) : Out :=
  let l := s.lane n
  .next (if !l.wantTrain || l.ldis then s
    else ((s.modLane n (fun l => l.train s.fab.ns none)).laneEvent n 3 [(0x48, 4, l.lwin)]).laneLost n (fun _ => true))

/-- `trainingPatternReceived`: the lane faces the retraining of the package it faces in this slot (R447, R469). -/
def execTrainingPatternReceived (n : Fin 512) (s : State) : Out :=
  let q := s.facedBy n s.slotNow
  .next (if (s.lane n).lst ≠ 0 then s
    else (s.modLane n (fun l => l.train s.fab.ns (some q))).laneLost n (fun p => p == q))

/-- `laneHandBack`: at flit time 0 of a slot the lane carries flits again; only the retraining end reports it (R448, R469) (DEDUCED, log 69). -/
def execLaneHandBack (n : Fin 512) (s : State) : Out :=
  let l := s.lane n
  .next (if l.lst ≠ 1 ∨ s.flitTime ≠ 0 then s
    else
      let s1 := s.modLane n (fun l => { l with lst := 0, outSince := none, facing := none })
      if l.facing.isSome then s1 else s1.laneEvent n 4 [(0x48, 4, (s.fab.ns - l.outSince.getD s.fab.ns) / cycleNs)])

/-- `retrainTimeout`: a retraining that 64 calendar cycles have not completed leaves the lane failed (R448). -/
def execRetrainTimeout (n : Fin 512) (s : State) : Out :=
  let l := s.lane n
  .next (if l.lst ≠ 1 ∨ l.facing.isSome ∨ s.fab.ns < l.outSince.getD s.fab.ns + retrainNs then s
    else (s.modLane n (fun l => { l with lst := 3, failed := true })).laneEvent n 5 [])

/-- `lostCarrier`: the lane stops carrying traffic as a failed one does; what it had not delivered goes again (R366; DEDUCED, log 23). -/
def execLostCarrier (n : Fin 512) (s : State) : Out :=
  .next (if (s.lane n).lst = 4 then s
    else (s.modLane n (fun l => { l with lst := 3, failed := true, facing := none, outSince := some s.fab.ns })).laneLost n (fun _ => true))

/-- The lane faces a present package in some slot (R446). -/
def State.facesAny (s : State) (n : Nat) : Bool := (List.range 8).any (fun k => s.facedBy n k != s.cfg.pkn && s.present (s.facedBy n k))

/-- A write of word w of a lane's registers (Table 21-2): none where it sets a reserved bit (R27). -/
def Lane.write (l : Lane) (faces : Bool) (w v : Nat) : Option Lane :=
  match w with
  | 0 => if bits v 24 8 ≠ 0 then none else some { l with bec := bits v 32 32 }
  | 1 => some { l with
      ucw := bits v 32 32, tagf := bits v 0 32
      ucw0 := min l.ucw0 (bits v 32 32), tagf0 := min l.tagf0 (bits v 0 32) }
  | 2 => if bits v 48 13 ≠ 0 then none else some { l with rtc := bits v 32 16 }
  | _ =>
    if bits v 32 30 ≠ 0 then none
    else
      let dis := bit v 62
      some { l with
        rte := bit v 63
        ldis := dis
        thr := bits v 0 32
        lst := if dis || !faces then 4 else if l.ldis then (if l.failed then 3 else 0) else l.lst
        wantTrain := if dis then false else l.wantTrain || (l.ldis && l.failed) }

/-- `laneRegWrite`: a keep core writes a lane register (R446, R448); a write that sets a reserved bit is an access error (R27). -/
def execLaneRegWrite (n : Fin 512) (w : Fin 4) (v : Entry) (s : State) : Out :=
  .next (match (s.lane n).write (s.facesAny n) w v.toNat with
    | none => s.accessError
    | some l =>
      let s1 := s.modLane n (fun _ => l)
      if l.lst = 4 ∧ (s.lane n).lst ≠ 4 then s1.laneLost n (fun _ => true) else s1)

/-- The words of a lane's registers (Table 21-2). -/
def Lane.word (l : Lane) (w : Nat) : Nat :=
  match w with
  | 0 => l.bec * 2 ^ 32 + l.wfc % 2 ^ 24
  | 1 => l.ucw * 2 ^ 32 + l.tagf
  | 2 => l.lst * 2 ^ 61 + l.rtc * 2 ^ 32 + l.lwin
  | _ => (if l.rte then 2 ^ 63 else 0) + (if l.ldis then 2 ^ 62 else 0) + l.thr

-- Alignment (R456)

/-- `timeFlitTimeout`: no TIME flit of the master for 4,096 calendar cycles. -/
def execTimeFlitTimeout (s : State) : Out :=
  .next (if s.fab.timeSeen + 4096 * cycleNs ≤ s.fab.ns then s.loseAlignment else s)

/-- `alignmentRegained`: the keep cores' repeated step 6 has aligned the package; emission resumes at the next slot 0. -/
def execAlignmentRegained (s : State) : Out :=
  .next (if s.fab.aligned then s
    else ({ s with fab := { s.fab with aligned := true, timeSeen := s.fab.ns } }).fabricEvent 0 0x0B
      [(0x40, 4, (s.fab.ns - s.fab.unalignedAt) / cycleNs)])

end Sys2Proof.Machine
end

