-- ==== Sys2Proof/Machine/Regs.lean ====
section
/-! DEFINITION. Machine/Regs.lean: the registers that keep cores and hosts reach by physical address (R27, R31, R114, R371, R409, R411,
R422, R446, R457, R459, R462): their words, the write rules, the semaphore block (R371, R372), and the writes of TDMODE and PKID. -/

namespace Sys2Proof.Machine

-- Semaphores (R371, R372)

/-- Number of a master in the order of R372: port A, port B, keep cores. -/
def rankOf : Master → Nat
  | .portA => 0
  | .portB => 1
  | .kc n => 2 + n.val

def State.sem (s : State) (k : Nat) : Sem := Tab.get s.cfg.sems k .reset
def State.setSem (s : State) (k : Nat) (x : Sem) : State := { s with cfg := { s.cfg with sems := Tab.set s.cfg.sems k x } }

/-- The semaphore is held by m. -/
def Sem.heldBy (x : Sem) (m : Master) : Bool := x.held && x.own == min (rankOf m) 2 && (rankOf m < 2 || x.kcn == rankOf m - 2)

/-- The master that TIE names: port A for 0, port B for 1 (R372). -/
def Sem.named (x : Sem) : Nat := if x.tie then 1 else 0

/-- Which of several masters is granted: the first in order, the one that TIE names after all others (R372) (DEDUCED, log 79). -/
def Sem.winner (x : Sem) (m : Master) (rivals : List Master) : Nat :=
  let key (n : Master) : Nat := if rankOf n = x.named then 100 else rankOf n
  rankOf (rivals.foldl (fun a n => if key n < key a then n else a) m)

/-- An acquire by m, with the rivals that ask in the same cycle: the semaphore after it, and whether m is granted (DEDUCED, log 79). -/
def Sem.acquire (x : Sem) (m : Master) (rivals : List Master) : Sem × Bool :=
  let others := rivals.filter (fun n => rankOf n != rankOf m)
  if x.held || x.winner m others != rankOf m then (x, false)
  else
    let contested := !others.isEmpty && (m :: others).any (fun n => rankOf n == x.named)
    ({ x with
        held := true
        own := min (rankOf m) 2
        kcn := rankOf m - 2
        cnt := (x.cnt + 1) % 2 ^ 32
        tie := if contested then rankOf m != 0 else x.tie }, true)

/-- A release: only by the holder. -/
def Sem.release (x : Sem) (m : Master) : Sem × Bool := if x.heldBy m then ({ x with held := false }, true) else (x, false)

/-- The status word (Table 14-2). -/
def Sem.word (x : Sem) : Nat := (if x.held then 2 ^ 63 else 0) + x.own * 2 ^ 61 + (if x.tie then 2 ^ 60 else 0) + x.kcn * 2 ^ 48 + x.cnt

def State.semAsk (s : State) (m : Master) (k : Nat) (rivals : List Master) : State × Bool :=
  let p := (s.sem k).acquire m rivals
  (s.setSem k p.1, p.2)
def State.semDrop (s : State) (m : Master) (k : Nat) : State × Bool :=
  let p := (s.sem k).release m
  (s.setSem k p.1, p.2)

/-- `semAcquire`: a keep core's acquire through SEMOP; it learns the outcome from the status word. -/
def execSemAcquire (kc : Fin 16) (k : Fin 64) (rivals : List Master) (s : State) : Out := .next (s.semAsk (.kc kc) k rivals).1
/-- `semRelease`: a keep core's release through SEMOP. -/
def execSemRelease (kc : Fin 16) (k : Fin 64) (s : State) : Out := .next (s.semDrop (.kc kc) k).1

-- Words of the registers

def countBits (v n : Nat) : Nat := ((List.range n).filter (fun k => bit v k)).length

/-- PKID (Table 01-2). -/
def Config.pkid (c : Config) : Nat := c.pkn * 2 ^ 56 + countBits c.fuses.spen 128 * 2 ^ 48 + c.fuses.grade * 2 ^ 40 + c.fuses.stepping * 2 ^ 32

def State.port (s : State) (b : Bool) : Port := Tab.get s.cfg.ports (if b then 1 else 0) .reset
def State.setPort (s : State) (b : Bool) (p : Port) : State := { s with cfg := { s.cfg with ports := Tab.set s.cfg.ports (if b then 1 else 0) p } }

/-- PSTA and PSTB (Table 21-3). -/
def Port.word (p : Port) : Nat := (if p.lnk then 2 ^ 63 else 0) + (if p.pfl then 2 ^ 62 else 0) + p.frc * 2 ^ 32 + p.dfr

/-- PRESj (Table 14-6). -/
def Config.presWord (c : Config) (j : Nat) : Nat := ((List.range 64).map (fun i => if c.pres.getD (64 * j + i) false then 2 ^ i else 0)).foldl (· + ·) 0

/-- A word of the configuration block. -/
def State.cfgWord (s : State) (o : Nat) : Option Nat :=
  match o with
  | 0x00 => some s.cfg.pkid
  | 0x08 => some (s.cfg.fuses.spen % 2 ^ 64)
  | 0x10 => some (s.cfg.fuses.spen / 2 ^ 64 % 2 ^ 64)
  | 0x18 => some s.cfg.tdmode
  | 0x20 => some s.cfg.bsts
  | 0x28 => some (s.cfg.fidx * 2 ^ 16 + s.cfg.fcause)
  | 0x40 => some (s.port false).word
  | 0x48 => some (s.port true).word
  | 0x50 => some s.cfg.ldt
  | 0x60 => some (s.cfg.presWord 0)
  | 0x68 => some (s.cfg.presWord 1)
  | 0x70 => some (s.cfg.presWord 2)
  | 0x78 => some (s.cfg.presWord 3)
  | _ => none

/-- A word of an HRU's registers (Tables 03-9 and 20-2). -/
def Hru.word (u : Hru) (o : Nat) : Option Nat :=
  match o with
  | 0x00 => some (u.otb + u.otlog)
  | 0x08 => some u.cmdb
  | 0x10 => some (u.head * 256 + u.tail)
  | 0x18 => some (u.lckb + u.lcke.toNat)
  | _ => none

/-- Records that wait in the spires of tower t (Table 19-4) (DEDUCED, log 88). -/
def State.heldRecords (s : State) (t : Nat) : Nat := (s.spires.map (fun p => if towerOf p.1 = t then p.2.held.length else 0)).foldl (· + ·) 0

/-- A word of a trap queue's registers (Tables 19-4, 20-3, 21-5). -/
def State.tqWord (s : State) (t o : Nat) : Option Nat :=
  let q := (s.tower t).tq
  match o with
  | 0x00 => some (q.tqb + q.tqlog)
  | 0x08 => some (q.tail * 2 ^ 32 + q.head)
  | 0x10 => some (s.heldRecords t)
  | 0x18 => some q.tqik
  | 0x20 => some (q.cecd * 2 ^ 32 + q.cecs)
  | 0x28 => some (q.kmax * 2 ^ 58 + q.tmax * 2 ^ 48 + q.pev)
  | _ => none

/-- CTL of a context (Table 19-5); 0 on a spire that is fused off (R411). -/
def State.ctlWord (s : State) (sp c : Nat) : Nat :=
  let x := s.ctx sp c
  if !s.enabled sp then 0
  else x.st.code * 2 ^ 48 + (if x.st = .free then 0 else min (s.pend x.res.tid) 255) * 2 ^ 40 + Tab.get (s.spire sp).ctlRes c 0

/-- LSC of a launch slot (Table 19-10). -/
def State.lscWord (s : State) (t l : Nat) : Nat :=
  let r := Tab.get (s.arb t).lscRes l 0
  match s.slot t l with
  | none => r
  | some y =>
    (if y.preoff then 2 ^ 55 else 0) + 2 ^ 54
      + (y.imgs.filter (fun p => p.2.valid && bit (s.headWord y.l p.1 0) 0)).length * 2 ^ 40 + r

/-- Where an address lies. -/
inductive Place64
  | cfg (o : Nat)
  | hru (t o : Nat)
  | sem (k : Nat) (op : Bool)
  | tq (t o : Nat)
  | ctl (sp c : Nat)
  | lsc (t l : Nat)
  | lane (n w : Nat)
  | nothing
deriving DecidableEq, Repr

/-- The blocks at keep-core physical address 0x00F0_0000_0000. -/
def placeOf (a : Nat) : Place64 :=
  let o := a - 0x00F000000000
  if a < 0x00F000000000 ∨ a % 8 ≠ 0 then .nothing
  else if o < 0x1000 then .cfg o
  else if 0x10000 ≤ o ∧ o < 0x14000 then .hru ((o - 0x10000) / 0x1000) (o % 0x1000)
  else if 0x20000 ≤ o ∧ o < 0x20400 then .sem ((o - 0x20000) / 16) (o % 16 == 8)
  else if 0x30000 ≤ o ∧ o < 0x34000 then .tq ((o - 0x30000) / 0x1000) (o % 0x1000)
  else if 0x40000 ≤ o ∧ o < 0x48000 then (if o % 0x100 < 0x40 then .ctl ((o - 0x40000) / 0x100) (o % 0x100 / 8) else .nothing)
  else if 0x48000 ≤ o ∧ o < 0x48800 then .lsc ((o - 0x48000) / 0x200) (o % 0x200 / 8)
  else if 0x50000 ≤ o ∧ o < 0x54000 then .lane ((o - 0x50000) / 0x20) (o % 0x20 / 8)
  else .nothing

/-- A register's word; none where no register is. A write-only word reads as 0 (DEDUCED, log 76). -/
def State.regRead (s : State) (a : Nat) : Option Nat :=
  match placeOf a with
  | .cfg o => s.cfgWord o
  | .hru t o => (s.hru t).word o
  | .sem k op => some (if op then 0 else (s.sem k).word)
  | .tq t o => s.tqWord t o
  | .ctl sp c => some (s.ctlWord sp c)
  | .lsc t l => some (s.lscWord t l)
  | .lane n w => some ((s.lane n).word w)
  | .nothing => none

-- Writes

/-- Who writes: a keep core, by its number and space, or a host port. -/
inductive Writer
  | kc (n : Fin 16) (space : Nat)
  | port (b : Bool)
deriving DecidableEq, Repr

def Writer.master : Writer → Master
  | .kc n _ => .kc n
  | .port b => if b then .portB else .portA

/-- What a meaning leads to, where it goes on. -/
def outState (o : Out) (s : State) : State :=
  match o with
  | .next t => t
  | _ => s

/-- `pkidWrite`: PKN is written once; later writes are discarded without an access error (R27). -/
def execPkidWrite (v : Entry) (s : State) : Out :=
  .next (if bits v.toNat 0 32 ≠ 0 then s.accessError
    else if s.cfg.pknSet then s
    else { s with cfg := { s.cfg with pkn := bits v.toNat 56 8, pknSet := true } })

/-- A tower holds an active launch. -/
def State.active (s : State) (t : Nat) : Bool := (s.arb t).slots.any (fun p => p.2.isSome)

/-- The domes of the timed domain that holds dome d of tower t, as (tower, dome) (R31). -/
def State.timedDomain (s : State) (t d : Nat) : List (Nat × Nat) :=
  let domes (k : Nat) : List (Nat × Nat) := [0, 1, 2, 3].map (fun j => (k, j))
  match s.tdmode t with
  | 0 => [(t, d)]
  | 1 => domes t
  | _ => ([0, 1, 2, 3].filter (fun k => s.tdmode k == 2)).flatMap domes

/-- The swallow count of dome d of tower t (R33). -/
def State.swallowOf (s : State) (t d : Nat) : Nat := Tab.get (s.tower t).swallow d 0

/-- Every dome takes the highest swallow count of its timed domain, whose islands receive one pulse pattern (R31, R33) (DEDUCED, log 78). -/
def State.equalise (s : State) : State :=
  ([0, 1, 2, 3].flatMap (fun t => [0, 1, 2, 3].map (fun d => (t, d)))).foldl (fun u p =>
    let k := (s.timedDomain p.1 p.2).foldl (fun k q => max k (s.swallowOf q.1 q.2)) 0
    if s.swallowOf p.1 p.2 = k then u else u.modTower p.1 (fun x => { x with swallow := Tab.set x.swallow p.2 k })) s

/-- `tdmodeWrite`: discarded and reported where it sets a reserved bit or code, or while a tower holds an active launch (R27, R31)
(DEDUCED, log 78). -/
def execTdmodeWrite (v : Entry) (s : State) : Out :=
  let w := v.toNat
  .next (if bits w 8 56 ≠ 0 || [0, 1, 2, 3].any (fun t => bits w (2 * t) 2 == 3 || s.active t) then s.accessError
    else ({ s with cfg := { s.cfg with tdmode := w } }).equalise)

/-- A write of the configuration block: words that are wholly read-only ignore it (DEDUCED, log 78). -/
def State.cfgWrite (s : State) (o : Nat) (v : Entry) : State :=
  let w := v.toNat
  match o with
  | 0x00 => outState (execPkidWrite v s) s
  | 0x08 => s
  | 0x10 => s
  | 0x18 => outState (execTdmodeWrite v s) s
  | 0x20 => if bits w 8 56 ≠ 0 then s.accessError else s
  | 0x28 => if bits w 24 40 ≠ 0 ∨ bits w 8 8 ≠ 0 then s.accessError else s
  | 0x40 => if bits w 48 14 ≠ 0 then s.accessError else s
  | 0x48 => if bits w 48 14 ≠ 0 then s.accessError else s
  | 0x50 => if bits w 16 48 ≠ 0 ∨ w = 0 then s.accessError else { s with cfg := { s.cfg with ldt := w } }
  | 0x60 => s
  | 0x68 => s
  | 0x70 => s
  | 0x78 => s
  | _ => s.accessError

/-- A write of an HRU's registers; a write of TAIL is the doorbell (R114, R115). -/
def State.hruWrite (s : State) (t o : Nat) (w : Nat) : State :=
  match o with
  | 0x00 => if bits w 48 16 ≠ 0 ∨ bits w 5 7 ≠ 0 then s.accessError else s.modHru t (fun u => { u with otb := bits w 12 36 * 4096, otlog := bits w 0 5 })
  | 0x08 => if bits w 48 16 ≠ 0 ∨ bits w 0 13 ≠ 0 then s.accessError else s.modHru t (fun u => { u with cmdb := bits w 13 35 * 8192 })
  | 0x10 =>
    let idle := (s.hru t).head == (s.hru t).tail
    let s1 := s.modHru t (fun u => { u with tail := bits w 0 8 })
    if bits w 16 48 ≠ 0 then s.accessError else if idle then s1.ringNext t 256 else s1
  | 0x18 => if bits w 48 16 ≠ 0 ∨ bits w 1 12 ≠ 0 then s.accessError else s.modHru t (fun u => { u with lckb := bits w 13 35 * 8192, lcke := bit w 0 })
  | _ => s.accessError

/-- A write of a trap queue's registers. -/
def State.tqWrite (s : State) (t o : Nat) (v : Entry) : State :=
  let w := v.toNat
  let set (f : TrapQ → TrapQ) : State := s.modTower t (fun x => { x with tq := f x.tq })
  match o with
  | 0x00 => outState (execTqConfigWrite (Fin.ofNat 4 t) v s) s
  | 0x08 => outState (execTqHeadWrite (Fin.ofNat 4 t) v s) s
  | 0x10 => if bits w 32 32 ≠ 0 then s.accessError else s
  | 0x18 => if bits w 4 60 ≠ 0 then s.accessError else set (fun q => { q with tqik := bits w 0 4 })
  | 0x20 => set (fun q => { q with cecd := bits w 32 32, cecs := bits w 0 32 })
  | 0x28 => if bits w 56 2 ≠ 0 ∨ bits w 4 44 ≠ 0 then s.accessError
      else set (fun q => { q with kmax := bits w 58 6, tmax := bits w 48 8, pev := q.pev &&& (15 - bits w 0 4) })
  | _ => s.accessError

/-- A write of CTL: its command, where a keep core may command the context (R411, R412) (DEDUCED, log 77). -/
def State.ctlWrite (s : State) (who : Writer) (sp c : Nat) (w : Nat) : State :=
  match who with
  | .port _ => s.accessError
  | .kc _ space =>
    let p := Fin.ofNat 128 sp
    let k := Fin.ofNat 8 c
    if bits w 56 4 ≠ 0 ∨ bits w 8 32 ≠ 0 then s.accessError
    else match bits w 60 4 with
      | 1 => outState (execResume space p k s) s
      | 2 => outState (execSave space p k s) s
      | 3 => outState (execTerminate space p k s) s
      | 4 => outState (execHalt space p k s) s
      | 5 => outState (execStep space p k (Fin.ofNat 256 (bits w 0 8)) s) s
      | 6 => outState (execRelease space p k s) s
      | _ => s.ctl space sp c (fun _ => false) id

/-- A write of LSC (R422) (DEDUCED, log 77). -/
def State.lscWrite (s : State) (who : Writer) (t l : Nat) (w : Nat) : State :=
  match who with
  | .port _ => s.accessError
  | .kc _ space =>
    let p := Fin.ofNat 4 t
    let k := Fin.ofNat 64 l
    if bits w 56 4 ≠ 0 ∨ bits w 48 6 ≠ 0 ∨ bits w 16 24 ≠ 0 ∨ bits w 4 4 ≠ 0 then s.accessError
    else match bits w 60 4 with
      | 1 => outState (execPreon space p k s) s
      | 2 => outState (execTermimg space p k (bits w 8 8) s) s
      | 3 => outState (execRetry space p k (bits w 8 8) s) s
      | _ => s.lsc space t l (fun _ => false) (fun s _ => s)

/-- A write of SEMOP (Table 14-3) (DEDUCED, log 78). -/
def State.semWrite (s : State) (who : Writer) (k : Nat) (op : Bool) (w : Nat) : State :=
  if !op then (if bits w 52 8 ≠ 0 ∨ bits w 32 16 ≠ 0 then s.accessError else s)
  else if w = 1 then (s.semAsk who.master k []).1
  else if w = 2 then (s.semDrop who.master k).1
  else s.accessError

/-- A WRITE OF A REGISTER: a write that the rules discard leaves everything but the count of access errors (R27) (DEDUCED, log 76). -/
def State.regWrite (s : State) (who : Writer) (a : Nat) (v : Entry) : State :=
  match placeOf a with
  | .cfg o => s.cfgWrite o v
  | .hru t o => s.hruWrite t o v.toNat
  | .sem k op => s.semWrite who k op v.toNat
  | .tq t o => s.tqWrite t o v
  | .ctl sp c => s.ctlWrite who sp c v.toNat
  | .lsc t l => s.lscWrite who t l v.toNat
  | .lane n w => outState (execLaneRegWrite (Fin.ofNat 512 n) (Fin.ofNat 4 w) v s) s
  | .nothing => s.accessError

/-- Bytes of the object table or of a page map: keep cores change them only through the command ring (R114). -/
def State.tableByte (s : State) (a : Nat) : Bool :=
  s.objs.any (fun p => p.1 == a / 128 || [6, 7].any (fun k => let b := wordAt p.2.w k; b != 0 && decide (b ≤ a) && decide (a < b + 8 * p.2.pages)))

/-- `registerWrite`: keep core kc of space `who` writes v at physical address a: into a frame (R114), or a register; an access error is reported to
it (R27) (DESIGN CHOICE, log 83). -/
def execRegisterWrite (a : Nat) (v : Entry) (kc : Fin 16) (who : Nat) (s : State) : Out :=
  .next (if a % 8 = 0 ∧ inDram a 8 then
      (if s.tableByte a then s else s.dramPut (((List.range 8).zip (leBytes v.toNat 8)).map (fun p => (a + p.1, p.2))))
    else
      let s1 := s.regWrite (.kc kc who) a v
      if s1.cfg.accessErrors = s.cfg.accessErrors then s1
      else { s1 with cfg := { s1.cfg with kcErrors := s1.cfg.kcErrors ++ [(kc.val, a)] } })

end Sys2Proof.Machine
end

