-- ==== Sys2Proof/Machine/Power.lean ====
section
/-! DEFINITION. Machine/Power.lean: gating and waking (R34 to R36, R464), throttling, stops and operating points (R33, R462, R463), corrected
and uncorrectable errors (R440, R441), the SVN fuses (R378, R439, R461). -/

namespace Sys2Proof.Machine

-- Registers of events (Table 21-5)

/-- Bits of PEV set; one that was 0 makes an interrupt (R462). -/
def TrapQ.raisePev (q : TrapQ) (b : Nat) : TrapQ := { (if q.pev ||| b = q.pev then q else q.interrupt) with pev := q.pev ||| b }
def State.setPev (s : State) (t b : Nat) : State := s.modTower t (fun x => { x with tq := x.tq.raisePev b })
/-- The highest temperature since TMAX was last written. -/
def State.noteTemp (s : State) (t temp : Nat) : State :=
  s.modTower t (fun x => { x with tq := { x.tq with tmax := max x.tq.tmax (min temp 255) } })

-- Gating and waking (R34, R35, R464)

/-- `gateTsBank`: a bank is gated only when no allocation covers it; its contents are lost, and its pages are untouched when it wakes (DEDUCED, log 84). -/
def execGateTsBank (sp : Fin 128) (b : Fin 64) (s : State) : Out :=
  let x := s.spire sp
  let used := (s.held sp).any (fun r => !apart (4 * b.val) 4 (r.tsb / 0x4000) r.tsp)
  let res : TaskRes := { TaskRes.reset with tsb := b.val * 0x10000, tsp := 4 }
  .next (if used || x.gated.contains b.val || x.failed.contains b.val || x.waking.any (fun w => w.1 == b.val) then s
    else s.modSpire sp (fun x => { x with gated := x.gated ++ [b.val], mem := x.mem.clearAlloc res }))

/-- `gateL2Way`: at least four ways of a slice stay enabled; the way takes no new fill, its dirty sectors are written back and its lines go, the pinned ones
when they are released (R34, `State.sweepL2`). Of a way that is gated the order enables it again (DESIGN CHOICE, log 84). -/
def execGateL2Way (t dome slice : Fin 4) (way : Fin 16) (s : State) : Out :=
  let x := s.tower t
  let at_ := (dome.val, slice.val, way.val)
  let mine := x.l2gated.filter (fun w => w.1 == dome.val && w.2.1 == slice.val)
  .next (if x.l2gated.contains at_ then
      (if x.l2waking.any (fun w => (w.1, w.2.1, w.2.2.1) == at_) || (s.l2 t (4 * dome.val + slice.val)).any (fun l => l.way == way.val) then s
      else s.modTower t (fun x => { x with l2waking := x.l2waking ++ [(dome.val, slice.val, way.val, 0)] }))
    else if 12 ≤ mine.length then s
    else s.modTower t (fun x => { x with l2gated := x.l2gated ++ [at_] }))

/-- The lines of a tower's gated ways: dirty sectors are written back, and lines that nothing pins any more go (R34). -/
def State.sweepL2 (s : State) (t : Nat) : State :=
  let off (i : Nat) (l : CLine) : Bool := (s.tower t).l2gated.contains (i / 4, i % 4, l.way)
  if !(s.tower t).l2.any (fun q => q.2.any (off q.1)) then s
  else
    let s1 := s.flush (fun n i l => n == t && off i l)
    s1.modTower t (fun x => { x with l2 := x.l2.map (fun (q : Nat × List CLine) => (q.1, q.2.filter (fun l => !(off q.1 l && l.dirty.isEmpty && l.pins.isEmpty)))) })

/-- `bankWakeComplete`: a waking bank is awake and reads as zero; an L2 way is enabled again and holds only invalid lines (DEDUCED, log 84). -/
def execBankWakeComplete (u : WakeAt) (s : State) : Out :=
  .next (match u with
    | .ts sp b => s.modSpire sp (fun x => { x with waking := x.waking.filter (fun w => w.1 != b.val) })
    | .l2 t dome slice way => s.modTower t (fun x => { x with
        l2gated := x.l2gated.filter (fun w => w != (dome.val, slice.val, way.val))
        l2waking := x.l2waking.filter (fun w => (w.1, w.2.1, w.2.2.1) != (dome.val, slice.val, way.val)) }))

/-- Contexts of a spire that stall on a bank. -/
def Spire.stalledOn (x : Spire) (b : Nat) : List Nat := (List.range 8).filter (fun c => (x.ctx c).st == .stall && (x.ctx c).stall == some (.wake b))

/-- `bankWakeTimeout`: a bank still waking after 2,048 sc has failed: its stalled contexts freeze with CHECK/0x04, EFF = 0, ROFF = BOFF,
and WKF is set. An L2 way stays gated without a trap. -/
def execBankWakeTimeout (u : WakeAt) (s : State) : Out :=
  .next (match u with
    | .ts sp b =>
      if !(s.spire sp).waking.any (fun w => w.1 == b.val && decide (2048 ≤ w.2)) then s
      else
        let s1 := s.modSpire sp (fun x => { x with waking := x.waking.filter (fun w => w.1 != b.val), failed := x.failed ++ [b.val] })
        ((s1.spire sp).stalledOn b).foldl (fun s c =>
          let x := s.ctx sp c
          s.freeze sp c (.mk' 13 4 0 [(0x40, 8, b.val)]) false false x.pc x.pc) (s1.setPev (towerOf sp) 8)
    | .l2 t dome slice way =>
      let here (w : Nat × Nat × Nat × Nat) : Bool := (w.1, w.2.1, w.2.2.1) == (dome.val, slice.val, way.val)
      if (s.tower t).l2waking.any (fun w => here w && decide (2048 ≤ w.2.2.2)) then
        (s.modTower t (fun x => { x with l2waking := x.l2waking.filter (fun w => !here w) })).setPev t 8
      else s)

-- Timed domains and throttling (R31, R33, R463)

/-- The swallow count of every dome of a timed domain. -/
def State.setSwallow (s : State) (l : List (Nat × Nat)) (k : Nat) : State :=
  l.foldl (fun s p => s.modTower p.1 (fun x => { x with swallow := Tab.set x.swallow p.2 k, tq := { x.tq with kmax := max x.tq.kmax k } })) s

/-- `powerThrottle`: over a limit, k is raised on the timed domain with the highest spire numbers whose count lies below it; when every
timed domain of the tower swallows 56, issue stops on its highest spire that still issues (R463) (DEDUCED, log 84). -/
def execPowerThrottle (t : Fin 4) (k : Fin 57) (thermal : Bool) (temp : Nat) (s : State) : Out :=
  let x := s.tower t
  let s1 := s.noteTemp t temp
  .next (match [3, 2, 1, 0].find? (fun d => decide (Tab.get x.swallow d 0 < k.val)) with
    | some d =>
      let l := s.timedDomain t d
      (l.map (·.1)).eraseDups.foldl (fun s n => s.setPev n (if thermal then 2 else 1)) (s1.setSwallow l k)
    | none =>
      if k.val ≠ 56 then s1
      else match ((List.range 32).reverse.map (32 * t.val + ·)).find? (fun sp => s.enabled sp && !(s.spire sp).stopped) with
        | none => s1
        | some sp => (s1.modSpire sp (fun y => { y with stopped := true })).setPev t 4)

/-- `powerExcessEnd`: the excess has ended: the domain's count falls to k, and the tower's stopped spires issue again. -/
def execPowerExcessEnd (t dom : Fin 4) (k : Fin 57) (s : State) : Out :=
  let l := (s.timedDomain t dom).filter (fun p => decide (k.val ≤ Tab.get (s.tower p.1).swallow p.2 0))
  let s1 := l.foldl (fun s p => s.modTower p.1 (fun x => { x with swallow := Tab.set x.swallow p.2 k.val })) s
  .next { s1 with spires := s1.spires.map (fun (p : Nat × Spire) => (p.1, if towerOf p.1 = t.val then { p.2 with stopped := false } else p.2)) }

/-- `thermalStop`: at 105 °C spire clocks stop, the lasers go dark, relay buffers are discarded, until a reset (R453, R463). -/
def execThermalStop (t : Fin 4) (temp : Nat) (s : State) : Out :=
  let s1 := s.noteTemp t temp
  .next (if temp < 105 then s1
    else ({ s1 with cfg := { s1.cfg with thermal := true }, fab := { s1.fab with dark := true } }).clearRelays)

/-- `operatingPointChange`: voltage and nominal frequency change on every island of a timed domain at once (R33). -/
def execOperatingPointChange (t dom : Fin 4) (point : Nat) (s : State) : Out :=
  .next ((s.timedDomain t dom).foldl (fun s p => s.modTower p.1 (fun x => { x with point := Tab.set x.point p.2 point })) s)

-- Errors (R440, R441)

/-- `eccCorrected`: a corrected error is counted, and changes nothing else. -/
def execEccCorrected (t : Fin 4) (dram : Bool) (s : State) : Out :=
  .next (s.modTower t (fun x => { x with tq := if dram then { x.tq with cecd := sat32 (x.tq.cecd + 1) } else { x.tq with cecs := sat32 (x.tq.cecs + 1) } }))

/-- Places poisoned in the stores of a spire, each once. -/
def SpireMem.spoil (x : SpireMem) (l : List (Nat × Nat)) : SpireMem := { x with poison := x.poison ++ l.filter (fun w => !x.poison.contains w) }

/-- An upset of a clean line, counted in CHKN (R441). -/
def State.upset (s : State) (sp : Nat) : State := s.modSpire sp (fun x => { x with chkn := min (x.chkn + 1) (2 ^ 32 - 1) })

/-- `uncorrectableError`: the word is poisoned (eight bytes of an SRAM, thirty-two of DRAM); a clean line goes, to be fetched again, and is counted in
CHKN (R440, R441) (DEDUCED, log 85). -/
def execUncorrectableError (w : EccAt) (s : State) : Out :=
  .next (match w with
    | .ts sp off => s.modSpire sp (fun x => { x with mem := x.mem.spoil [(1, off / 8 * 8)] })
    | .acc sp word => s.modSpire sp (fun x => { x with mem := x.mem.spoil [(2, word / 2 * 2), (2, word / 2 * 2 + 1)] })
    | .lat sp word => s.modSpire sp (fun x => { x with mem := x.mem.spoil [(3, word * 8)] })
    | .queue sp c vec q k => s.modCtx sp c (fun x =>
        if (if vec then (x.vOf q).length else (x.sOf q).length) ≤ k ∨ x.qbad.contains (vec, q, k) then x else { x with qbad := x.qbad ++ [(vec, q, k)] })
    | .cleanLine sp => s.upset sp
    | .line sp icache k => (s.upset sp).modSpire sp (fun x => if icache then { x with icache := x.icache.eraseIdx k } else { x with l1 := x.l1.eraseIdx k })
    | .l2 sp slice k off =>
      let t := towerOf sp
      let i := sp.val % 32 / 8 * 4 + slice.val
      let ls := s.l2 t i
      match ls[k]? with
      | none => s
      | some l =>
        let w := off.val / 8 * 8
        if l.dirty.isEmpty then (s.upset sp).setL2 t i (if l.pins.isEmpty then ls.eraseIdx k else ls)
        else s.setL2 t i (ls.set k (if l.bad.contains w then l else { l with bad := l.bad ++ [w] }))
    | .dram a =>
      let l := [0, 8, 16, 24].map (a / 32 * 32 + ·)
      { s with poison := s.poison ++ l.filter (fun w => !s.poison.contains w) })

-- The SVN fuses (R378, R461)

/-- The context runs a task on a translation that is stale. -/
def State.runsStale (s : State) (x : Ctx) : Bool := (x.st == .ready || x.st == .wait || x.st == .stall) && decide (x.res.tsvn < s.cfg.fuses.svn)

/-- Code objects of stale translations: those of tasks, those of launches. -/
def State.staleHandles (s : State) : List Entry :=
  s.spires.flatMap (fun p => p.2.ctxs.filterMap (fun q => if q.2.st != .free && decide (q.2.res.tsvn < s.cfg.fuses.svn) then some q.2.res.codeh else none))
    ++ s.towers.flatMap (fun p => p.2.arb.slots.filterMap (fun q => match q.2 with
      | some y => if y.l.tsvn < s.cfg.fuses.svn then some (y.l.words.getD 1 0) else none
      | none => none))

/-- The SVN has risen: instruction lines of stale translations go, on every spire, and every context that runs on one stands at a bundle boundary and
freezes (R439) (DEDUCED, log 86). -/
def State.stopStale (s : State) : State :=
  let l := s.staleHandles
  let s1 := { s with spires := s.spires.map (fun (p : Nat × Spire) => (p.1, { p.2 with icache := p.2.icache.filter (fun c => !l.contains c.h) })) }
  (s.spires.flatMap (fun p => p.2.ctxs.map (fun q => (p.1, q.1)))).foldl (fun s p =>
    let x := s.ctx p.1 p.2
    if s.runsStale x then s.freeze p.1 p.2 (s.staleCode x) false false x.pc x.pc else s) s1

/-- `svnRaise`: taken only under a manifest that names the target, when it is above the fused SVN and not above the running FSVN; `blown`
bits verify, and the SVN is what they count (DEDUCED, log 86). -/
def execSvnRaise (target : Nat) (signed : Bool) (blown : Nat) (s : State) : Out :=
  let v := s.cfg.fuses.svn
  .next (if !signed || decide (target ≤ v) || decide (s.cfg.fsvn < target) || decide (64 < target) then s
    else { s with cfg := { s.cfg with fuses := { s.cfg.fuses with svn := min target (v + blown) } } }.stopStale)

end Sys2Proof.Machine
end

