-- ==== Sys2Proof/Machine/HostPort.lean ====
section
/-! DEFINITION. Machine/HostPort.lean: the host ports: sessions and control messages (R368, R373, R374, R377, R460), RoCEv2 and storage
transfers (R369, R370), frames and links (R367, R457, R458). -/

namespace Sys2Proof.Machine

-- Sessions and replies (R368)

/-- `sessionOpen`: the SM2 key exchange with an enrolled client key opens a session; a number in use stays as it is. -/
def execSessionOpen (portB : Bool) (sess sid : Nat) (enrolled : Bool) (s : State) : Out :=
  .next (if !enrolled || s.cfg.sessions.any (fun x => x.sess == sess) then s
    else { s with cfg := { s.cfg with sessions := s.cfg.sessions ++ [⟨portB, sess, sid, 0⟩] } })

/-- A reply under the message's SEQ. -/
def State.reply (s : State) (m : CpMsg) (op sts : Nat) (words : List Nat) : State :=
  { s with cfg := { s.cfg with replies := s.cfg.replies ++ [⟨m.portB, m.sess, m.seq, op, sts, words⟩] } }

/-- The session of a message whose tag passes, whose session is open on its port, and whose SEQ is new (R368); a request of a keep core needs none, and acts in
its space (R84). -/
def State.sessionOf (s : State) (m : CpMsg) : Option Session :=
  match m.kc with
  | some k => some ⟨m.portB, m.sess, k.2, 0⟩
  | none => match s.cfg.sessions.find? (fun x => x.sess == m.sess && x.portB == m.portB) with
  | some x => if m.tagOk && decide (x.seq ≤ m.seq) then some x else none
  | none => none

/-- The message's SEQ is the highest accepted in its session: only greater ones are accepted from now on. -/
def State.tookMsg (s : State) (m : CpMsg) : State :=
  if m.kc.isSome then s
  else { s with cfg := { s.cfg with
    sessions := s.cfg.sessions.map (fun x => if x.sess = m.sess then { x with seq := m.seq + 1 } else x) } }

/-- A CONTROL MESSAGE: discarded in silence, or answered; a protocol version other than 1 or a reserved bit is malformed (R368). Until
bring-up is complete only the requests that R374 names (`early`) are answered. -/
def State.control (s : State) (m : CpMsg) (op : Nat) (early : Bool) (k : Session → State → State) : State :=
  match s.sessionOf m with
  | none => s
  | some x =>
    if s.cfg.bsts ≠ 0xFF ∧ !early then s
    else if m.cpv ≠ 1 ∨ m.rsv then (s.tookMsg m).reply m op 3 []
    else k x (s.tookMsg m)

/-- `cpMessageDiscard`: a message that the rules discard has no effect; one that they accept, under an operation code that is reserved,
is malformed. -/
def execCpMessageDiscard (m : CpMsg) (s : State) : Out := .next (s.control m 0 false fun _ s => s.reply m 0 3 [])

/-- Registers that R374 still reads when bring-up has failed (DEDUCED, log 81). -/
def earlyRead (a : Nat) : Bool := a == 0x00F000000000 || a == 0x00F000000020

/-- `cpRegisterRead`: OP 0x01. -/
def execCpRegisterRead (m : CpMsg) (a : Nat) (s : State) : Out :=
  .next (s.control m 1 (earlyRead a) fun _ s => match s.regRead a with
    | some v => s.reply m 1 0 [v]
    | none => s.reply m 1 2 [])

/-- The master that a message comes from. -/
def portMaster (m : CpMsg) : Master :=
  match m.kc with
  | some k => .kc k.1
  | none => if m.portB then .portB else .portA

/-- A register write discarded under R27, for which a host is answered STS 0x02 (DEDUCED, log 76). -/
def State.writeDiscarded (s t : State) (a : Nat) : Bool :=
  t.cfg.accessErrors != s.cfg.accessErrors || (a == 0x00F000000000 && s.cfg.pknSet)

/-- `cpRegisterWrite`: OP 0x02: refused unless the port holds semaphore 0 (R373); a discarded write gets STS 0x02 (R27). -/
def execCpRegisterWrite (m : CpMsg) (a : Nat) (v : Entry) (s : State) : Out :=
  .next (s.control m 2 false fun _ s =>
    if !(s.sem 0).heldBy (portMaster m) then s.reply m 2 2 []
    else
      let t := s.regWrite (.port m.portB) a v
      if s.writeDiscarded t a then s.reply m 2 2 [] else t.reply m 2 0 [])

/-- The tower that queues a message's launch: the port's, or the keep core's. -/
def msgTower (m : CpMsg) : Nat :=
  match m.kc with
  | some k => k.1.val / 4
  | none => if m.portB then 1 else 0

/-- The tower queues a record for space `sid` and answers; a launch that waits for its closure's home, which opens it or raises ISSUED (R68), or for a page of its
code object, goes on, and is answered, when that is done. One whose closure has been opened waits for room, and gives the weight back if it is rejected
(DEDUCED, log 80). -/
def State.queueFor (s : State) (m : CpMsg) (rec : List Entry) (sid : Nat) (opened : Bool) : State :=
  let t := msgTower m
  let c := rec.getD 3 0
  let lw := BitVec.ofNat 64 (bits (wordAt rec 4) 0 32)
  let own (h : Entry) : Req := { ownReq (.cpQueueLaunch m rec) t sid h lw opened.toNat [] with tag := s.fresh }
  let no (s : State) : State := (if opened then s.sendReturn c lw.toNat else s).reply m 3 2 []
  match s.queueLaunch t ⟨sid, 0, none, none, opened, 0, 0, 0⟩ rec with
  | .ok s1 => s1.reply m 3 0 []
  | .busy => if opened then s.again t (own c) else s.reply m 3 1 []
  | .opening => s.newId.sendLive t (own c) c true
  | .held h p => match p with
    | .held sub pg e => s.newId.holdReq t (own h) sub h (bits (wordAt rec 2) 32 32) pg e
    | _ => no s
  | .stale v ver => no (s.eventHru t (causeO 7 0x0A 0 (rec.getD 1 0) ver [(0x40, 4, v), (0x44, 4, s.cfg.fuses.svn)]))
  | .rejected _ => no s
  | .closure => no s
  | .refused => no s

/-- `cpQueueLaunch`: OP 0x03: the tower queues the record (R42 to R48, R68, R439); no host queues one in space 0 (R84) (DEDUCED, log 80). -/
def execCpQueueLaunch (m : CpMsg) (rec : List Entry) (s : State) : Out :=
  .next (match s.cfg.launching.find? (fun p => p.1 == m) with
    | some p =>
      let s1 := { s with cfg := { s.cfg with launching := s.cfg.launching.erase p } }
      if p.2.2 = 2 then s1.reply m 3 2 [] else s1.queueFor m rec p.2.1 (p.2.2 == 1)
    | none => s.control m 3 false fun x s =>
      if rec.length ≠ 32 then s.reply m 3 3 []
      else if x.sid = 0 ∧ m.kc.isNone then s.reply m 3 2 []
      else s.queueFor m rec x.sid false)

/-- `cpSemAcquire`: OP 0x04; the reply carries the status word (R371, R372) (DEDUCED, log 81). -/
def execCpSemAcquire (m : CpMsg) (k : Fin 64) (rivals : List Master) (s : State) : Out :=
  .next (s.control m 4 false fun _ s =>
    let p := s.semAsk (portMaster m) k rivals
    p.1.reply m 4 (if p.2 then 0 else 2) [(p.1.sem k).word])

/-- `cpSemRelease`: OP 0x05. -/
def execCpSemRelease (m : CpMsg) (k : Fin 64) (s : State) : Out :=
  .next (s.control m 5 false fun _ s =>
    let p := s.semDrop (portMaster m) k
    p.1.reply m 5 (if p.2 then 0 else 2) [(p.1.sem k).word])

-- Attestation (R377, R460)

/-- Bytes 0x000 to 0x13F of the report (Table 14-5); measurement registers as the bytes of their hashes. -/
def State.report (s : State) (nonce : List Byte) : List Byte :=
  nonce ++ leBytes s.cfg.pkid 8 ++ leBytes (s.cfg.fuses.svn * 2 ^ 32 + s.cfg.fsvn) 8 ++ leBytes s.cfg.fuses.dhs 8 ++ leBytes s.cfg.bsts 8
    ++ (List.range 8).flatMap (fun k => leBytes (Tab.get s.cfg.meas k 0) 32)

/-- The 64 bytes of the signature over a report (PRESUMED, log 6). -/
def signature (b : List Byte) : List Byte := (List.range 64).map (fun k => (Config.sm2 b).getD k 0)

/-- `cpAttestation`: OP 0x06: a payload that is not 32 bytes is malformed; an identity key that fails its check code gives no report. -/
def execCpAttestation (m : CpMsg) (nonce : List Byte) (idKeyOk : Bool) (s : State) : Out :=
  .next (s.control m 6 true fun _ s =>
    if nonce.length ≠ 32 then s.reply m 6 3 []
    else if !idKeyOk then s.reply m 6 2 []
    else
      let b := s.report nonce
      s.reply m 6 0 ((bytesWords 48 (b ++ signature b)).map (·.toNat)))

-- The trap queue (Table 19-1)

/-- The records of tower t's queue from HEAD to TAIL. -/
def State.queued (s : State) (t : Nat) : List TrapRec :=
  let q := (s.tower t).tq
  let n := (q.tail + 2 ^ q.tqlog - q.head) % 2 ^ q.tqlog
  (List.range n).filterMap (fun i => (q.ring.find? (fun p => p.1 == (q.head + i) % 2 ^ q.tqlog)).map (·.2))

/-- `cpTrapQueueRead`: OP 0x07: the queue's HEAD and TAIL word and its unacknowledged records; nothing is acknowledged (DEDUCED, log 81). -/
def execCpTrapQueueRead (m : CpMsg) (t : Fin 4) (s : State) : Out :=
  .next (s.control m 7 false fun _ s => s.reply m 7 0 (((s.tqWord t 8).getD 0) :: (s.queued t).flatMap TrapRec.words))

-- RoCEv2 and storage (R369, R370)

/-- The answer to a verb: codes 0x81 WRITE, 0x82 READ; status 0 done, 1 to be tried again, 2 refused. -/
def State.rdmaReply (s : State) (portB : Bool) (op sts : Nat) (words : List Nat) : State :=
  { s with cfg := { s.cfg with replies := s.cfg.replies ++ [⟨portB, 0, 0, op, sts, words⟩] } }

/-- `roceSend`: a message for a queue pair is received. -/
def execRoceSend (portB : Bool) (qp len : Nat) (s : State) : Out :=
  .next { s with cfg := { s.cfg with received := s.cfg.received ++ [(portB, qp, len)] } }

/-- The object of a memory region: homed here, registered with right MP (R85, R369), the bytes within its pages (DEDUCED, log 82). -/
def State.memRegion (s : State) (r : RoceReq) (n : Nat) : Option Obj :=
  match s.lookup (if r.portB then 1 else 0) 3 r.h with
  | .error _ => none
  | .ok o => match o.checkRights 3 r.sid rMP r.h with
    | .error _ => none
    | .ok _ => if s.elsewhere r.h ∨ o.bytes < r.off + n then none else some o

/-- Bytes written into a draft or a live object; none where the object has no open draft or its publish has closed; the flag says that a
page or the shadow pool keeps the write waiting (DEDUCED, log 82). -/
def State.portWrite (s : State) (t : Nat) (h : Entry) (o : Obj) (off : Nat) (data : List Byte) : Option (State × Bool) :=
  let b := ((List.range data.length).zip data).map (fun p => (off + p.1, p.2))
  if o.live then
    (match o.blocked 0 (b.map (·.1)) with
      | some _ => some (s, true)
      | none => some ((s.liveWrite o b).addArv h o data.length, false))
  else if o.dver = 0 ∨ o.closing.isSome then none
  else match o.blocked o.dver (b.map (·.1)) with
    | some _ => some (s, true)
    | none =>
      if b.any (fun p => o.mustPull (p.1 / 65536)) then some (s, true)
      else match (s.flushRange h o.dver off data.length).draftWrite t (honum h) o b with
        | none => some (s, true)
        | some s1 => some (s1, false)

/-- A RoCEv2 write. -/
def State.rdmaPut (s : State) (r : RoceReq) (data : List Byte) (more : State → State) : State :=
  match s.memRegion r data.length with
  | none => s.rdmaReply r.portB 0x81 2 []
  | some o => match s.portWrite (if r.portB then 1 else 0) r.h o r.off data with
    | none => s.rdmaReply r.portB 0x81 2 []
    | some (s1, wait) => if wait then s.rdmaReply r.portB 0x81 1 [] else (more s1).rdmaReply r.portB 0x81 0 []

/-- `rdmaWrite`: a region over a versioned object takes the bytes into its draft, one commit for each sector (R369). -/
def execRdmaWrite (r : RoceReq) (data : List Byte) (s : State) : Out := .next (s.rdmaPut r data id)

/-- `writeWithImmediate`: a write, and then the immediate at the queue pair. -/
def execWriteWithImmediate (r : RoceReq) (data : List Byte) (qp imm : Nat) (s : State) : Out :=
  .next (s.rdmaPut r data fun s => { s with cfg := { s.cfg with received := s.cfg.received ++ [(r.portB, qp, imm)] } })

/-- `rdmaRead`: a region over a versioned object reads a version that is pinned (R369). -/
def execRdmaRead (r : RoceReq) (ver len : Nat) (s : State) : Out :=
  .next (match s.memRegion r len with
    | none => s.rdmaReply r.portB 0x82 2 []
    | some o =>
      let v := if o.live then 0 else ver
      let pinned := (v == o.cver && o.pinc != 0) || Tab.has o.retained v
      if !o.live && !pinned then s.rdmaReply r.portB 0x82 2 []
      else match o.blocked v ((List.range len).map (r.off + ·)) with
        | some _ => s.rdmaReply r.portB 0x82 1 []
        | none => s.rdmaReply r.portB 0x82 0 ((List.range len).map (fun k => (s.objByte o v (r.off + k)).toNat)))

/-- `nvmeCompletion`: a storage-direct read has landed in a draft; its target, a counter or a future, is signalled after the last commit
(R121, R370). The keep core acts in SID 0 (DEDUCED, log 82). -/
def execNvmeCompletion (h : Entry) (off : Nat) (data : List Byte) (tk : Fin 4) (th : Entry) (tix : Nat) (s : State) : Out :=
  let q : Req := ⟨.nop, 0, 8, 0, 0, 0, 3, 0, th, 0, 0, [], 0⟩
  .next (match s.lookup 0 3 h with
    | .error _ => s
    | .ok o =>
      if s.elsewhere h || o.live || decide (o.bytes < off + data.length) then s
      else match s.portWrite 0 h o off data with
        | some (s1, false) => (s1.signal 0 q 0 tk 0 th tix data.length 0).signalEnd 0 q tk th tix (BitVec.ofNat 64 data.length) false
        | _ => s)

-- Frames and links (R367, R457, R458)

/-- `frameDiscard`: any other frame is discarded and counted. -/
def execFrameDiscard (portB : Bool) (s : State) : Out :=
  let p := s.port portB
  .next (s.setPort portB { p with dfr := sat32 (p.dfr + 1) })

/-- `portLinkUp`: LNK is set and PFL clears; earlier sessions stay ended. -/
def execPortLinkUp (portB : Bool) (s : State) : Out := .next (s.setPort portB { s.port portB with lnk := true, pfl := false })

/-- `portLinkDown`: LNK clears and the link-down time starts. -/
def execPortLinkDown (portB : Bool) (s : State) : Out := .next (s.setPort portB { s.port portB with lnk := false, downNs := s.fab.ns })

/-- Semaphores that a port holds. -/
def State.heldSems (s : State) (m : Master) : List Nat := (List.range 64).filter (fun k => (s.sem k).heldBy m)

/-- `portFail`: the link has been down for LDT ms: PFL is set, the port's sessions end, its semaphores are released and counted, and a keep
core is interrupted under TQIK of tower 0 for port A, of tower 1 for port B (R458). -/
def execPortFail (portB : Bool) (s : State) : Out :=
  let p := s.port portB
  let m : Master := if portB then .portB else .portA
  let l := s.heldSems m
  .next (if p.lnk ∨ p.pfl ∨ s.fab.ns < p.downNs + s.cfg.ldt * 1000000 then s
    else
      let s1 := s.setPort portB { p with pfl := true, frc := min (p.frc + l.length) 65535 }
      let s2 := l.foldl (fun s k => s.setSem k { s.sem k with held := false }) s1
      { s2 with cfg := { s2.cfg with sessions := s2.cfg.sessions.filter (fun x => x.portB != portB) } }.modTower (if portB then 1 else 0) (fun x =>
        { x with tq := x.tq.interrupt }))

end Sys2Proof.Machine
end

