-- ==== Sys2Proof/Machine/Reset.lean ====
section
/-! DEFINITION. Machine/Reset.lean: reset and the seven steps of bring-up (R374 to R376, R380, R452, R459), the failure of step 6. -/

namespace Sys2Proof.Machine

/-- A step of bring-up that fails writes BSTS and BFAIL and halts bring-up (R374, R459). -/
def State.bringupFail (s : State) (step cause idx : Nat) : State :=
  { s with cfg := { s.cfg with bsts := step, fcause := cause, fidx := idx % 256 } }

/-- A measurement register extended with a hash: M := SM3(M, h) (R375) (DEDUCED, log 87). -/
def State.extend (s : State) (k : Nat) (h : BitVec 256) : State :=
  let m := ofBytes (sm3 (leBytes (Tab.get s.cfg.meas k 0) 32 ++ leBytes h.toNat 32))
  { s with cfg := { s.cfg with meas := Tab.set s.cfg.meas k m } }

/-- What reset leaves before step 1: fuses stay, and DRAM keeps its bytes (DESIGN CHOICE, log 4); the count of open values goes on (log 5). -/
def State.afterReset (s : State) : State :=
  { State.reset with mem := s.mem, poison := s.poison, free := s.free, cfg := { Config.reset with fuses := s.cfg.fuses } }

/-- The package number and the packages present (R376): number 0 and itself without a domain map; none where not exactly one entry holds
the hash of the device's own key. -/
def domainOf (b : Bringup) : Option (Nat × List Bool) :=
  match b.dmap with
  | none => some (0, [true])
  | some l =>
    match (List.range 256).filter (fun k => l.getD k 0 != 0 && l.getD k 0 == b.idHash) with
    | [k] => some (k, (List.range 256).map (fun j => l.getD j 0 != 0))
    | _ => none

/-- Step 2: the image is accepted, measured, and the package takes its number, presence map and grants (R375, R376, R380). -/
def State.step2 (s : State) (b : Bringup) : Except State State :=
  if !b.rootOk then .error (s.bringupFail 2 2 0)
  else if !b.sigOk then .error (s.bringupFail 2 3 0)
  else match b.segBad with
    | some k => .error (s.bringupFail 2 4 k)
    | none =>
      if b.fsvn < s.cfg.fuses.svn then .error (s.bringupFail 2 5 0)
      else
        let s1 := s.extend 0 b.manifestHash
        match domainOf b with
        | none => .error (s1.bringupFail 2 6 0)
        | some (k, l) =>
          .ok { s1 with cfg := { s1.cfg with pkn := k, pknSet := true, pres := l, grants := b.grants.take 64, fsvn := b.fsvn } }

/-- Step 3: the DRAM trains. -/
def State.step3 (s : State) (b : Bringup) : Except State State :=
  match b.hbmBad, b.lpddrBad with
  | some k, _ => .error (s.bringupFail 3 0x10 k)
  | none, some k => .error (s.bringupFail 3 0x11 k)
  | none, none => .ok s

/-- Step 4, skipped without peers: flights are measured, and lanes toward present peers come into service; one that fails its training is
reported and leaves bring-up running (R374, R376, R448). -/
def State.step4 (s : State) (b : Bringup) : Except State State :=
  if (List.range 256).all (fun q => q == s.cfg.pkn || !s.present q) then .ok s
  else match b.flightBad with
    | some q => .error (s.bringupFail 4 0x20 q)
    | none =>
      let s1 := (List.range 512).foldl (fun s n => if s.facesAny n then s.modLane n (fun l => { l with lst := 0 }) else s) s
      .ok ((b.lanesFailed.map (·.val)).foldl (fun s n => (s.modLane n (fun l => { l with lst := 3, failed := true })).laneEvent n 5 []) s1)

/-- Step 5: the table slice is loaded, and every HRU has its base (R114). -/
def State.step5 (s : State) (b : Bringup) : Except State State :=
  if !b.sliceOk then .error (s.bringupFail 5 0x21 0)
  else
    let base := bits b.otb.toNat 12 36 * 4096 / 128
    let objs := b.slice.foldl (fun (t : Tab Obj) p => Tab.set t (base + p.1) { blankObj with w := p.2 }) []
    .ok (([0, 1, 2, 3].foldl (fun s t => s.modHru t (fun u => { u with
      otb := bits b.otb.toNat 12 36 * 4096, otlog := bits b.otb.toNat 0 5 })) { s with objs := objs }))

/-- Later stages extend M1 to M7 with what they load (DEDUCED, log 87). -/
def State.measureStages (s : State) (b : Bringup) : State :=
  ((List.range 7).zip b.stages).foldl (fun s p => s.extend (p.1 + 1) p.2) s

/-- Step 6: the time base is aligned to the master that system software names (R349). -/
def State.step6 (s : State) (b : Bringup) : Except State State :=
  let s1 := { s with fab := { s.fab with master := b.master.val } }
  if b.aligned then .ok { s1 with fab := { s1.fab with aligned := true } } else .error (s1.bringupFail 6 0x30 0)

/-- Step 7: the host ports answer the control protocol (DEDUCED, log 75). -/
def State.step7 (s : State) : State := { s with cfg := { s.cfg with bsts := 0xFF } }

/-- Bring-up from step 1: the state at the step that fails, or after step 7. -/
def State.bringup (s : State) (b : Bringup) : Except State State := do
  if !b.fusesOk then .error (s.bringupFail 1 1 0)
  let s2 ← s.step2 b
  let s3 ← s2.step3 b
  let s4 ← s3.step4 b
  let s5 ← s4.step5 b
  let s6 ← (s5.measureStages b).step6 b
  return s6.step7

/-- `reset`: the package is reset and goes through the steps of bring-up in order; a failing step halts it there (R374). -/
def execReset (b : Bringup) (s : State) : Out :=
  .next (match s.afterReset.bringup b with
    | .ok t => t
    | .error t => t)

/-- `bringupAlignTimeout`: no alignment within 1 s: step 6, or its repetition, fails (R374, R456). -/
def execBringupAlignTimeout (s : State) : Out := .next (if s.fab.aligned then s else s.bringupFail 6 0x30 0)

end Sys2Proof.Machine
end

