-- ==== Sys2Proof/Machine/Cycle.lean ====
section
/-! DEFINITION. Machine/Cycle.lean: the end of a spire's sc: its counters, the events that the sc itself brings to the spire, its tower and
the package, and whose turn is next (the model's own schedule; any other is an agenda, log 1). -/

namespace Sys2Proof.Machine

-- A spire

/-- The spire's counters after one sc: CYC, the ages of return accumulators (R69), waking banks (R35) and the thief's pause (R60). -/
def Spire.age (x : Spire) : Spire :=
  { x with
    cyc := (x.cyc + 1) % 2 ^ 64
    racc := x.racc.map fun a => { a with since := a.since + 1 }
    waking := x.waking.map fun w => (w.1, w.2 + 1)
    restart := x.restart.map (· - 1) }

/-- Flushes that are due, the last accumulator first, so that a flush leaves the places of the others (R69). -/
def Spire.flushes (x : Spire) (sp : Nat) : List Instr :=
  ((List.range x.racc.length).reverse.filterMap fun k => match x.racc[k]? with
    | some a =>
      if a.sum = 0 then none
      else if x.holds a.h = false then some (.accFlushIdle (Fin.ofNat 128 sp) (Fin.ofNat 8 k))
      else if 1024 ≤ a.since then some (.accFlushTimer (Fin.ofNat 128 sp) (Fin.ofNat 8 k))
      else none
    | none => none)

/-- Banks that have been waking for 2,048 sc are awake; one that fails is failed by an event before this one (R35, R464). -/
def Spire.wakes (x : Spire) (sp : Nat) : List Instr :=
  x.waking.filterMap fun w => if 2048 ≤ w.2 then some (.bankWakeComplete (.ts (Fin.ofNat 128 sp) (Fin.ofNat 64 w.1))) else none

/-- Nothing is in flight and no context holds a task: the events of the sc would change nothing. -/
def Spire.idle (x : Spire) : Bool :=
  x.engine.isEmpty && x.busy.isEmpty && x.out.isEmpty && x.arrivals.isEmpty && x.drain.isEmpty
    && x.ctxs.all (fun p => p.2.st == .free && p.2.tsw.isEmpty && p.2.inflight.isEmpty && p.2.deferred.isEmpty)

/-- The events of the start of a spire's next sc: results land before its reads, waits and stalls end after them (R55, R177). -/
def startOfSc (sp : Fin 128) : List Instr :=
  [.resultLanding sp, .deferredResultLanding sp, .busyBitClear sp, .matrixOpComplete sp, .matrixOpStart sp, .waitSatisfied sp,
    .stallCleared sp, .yieldReturn sp]

/-- The events of the end of its sc: tile-store writes land, then the arrivals that wait are applied, one to a barrier (R118, R123). -/
def endOfSc (x : Spire) (sp : Fin 128) : List Instr := .tsWriteLanding sp :: x.arrivals.map (fun _ => .barrierArrival sp)

/-- Copies that had stopped and may go on in this sc: those of a context that steps, one commit each (R75), and those that waited for a
bank (R35). -/
def State.steppedCopies (s : State) (sp : Nat) : List Instr :=
  (s.aops.filter (fun a => a.halted && a.r.sp == sp && !s.copyStops a.r)).flatMap AOp.event

/-- Contexts that are being saved (R73). -/
def State.saves (s : State) (sp : Nat) : List Instr :=
  (ctxNums.filter (fun c => (s.ctx sp c).st == .saving)).map (fun c => .saveComplete (Fin.ofNat 128 sp) (Fin.ofNat 8 c))

/-- What a free context does: it takes its deque's head (R51); the thieves' order starts again (R60). -/
def State.seeks (s : State) (sp : Nat) : List Instr :=
  let x := s.spire sp
  match ctxNums.find? (fun c => s.takes sp c) with
  | none => []
  | some c =>
    if !x.deque.isEmpty then [.dequePop (Fin.ofNat 128 sp) (Fin.ofNat 8 c)]
    else if x.restart = some 0 then [.stealRestart (Fin.ofNat 128 sp)]
    else []

/-- The steals of the sc, after the owners and the tail inserts, in ascending thief (R59, R60) (DESIGN CHOICE, log 89). -/
def State.steals (s : State) : List Instr :=
  (List.range 128).filterMap fun sp =>
    if decide (stealTime (s.spire sp).victim ≤ (s.spire sp).pause) && s.thief sp then
      (ctxNums.find? (fun c => s.takes sp c)).map (fun c => .stealAttempt (Fin.ofNat 128 sp) (Fin.ofNat 8 c))
    else none

/-- All events that the sc of a spire brings. -/
def State.spireEvents (s : State) (sp : Nat) : List Instr :=
  let x := s.spire sp
  if s.cfg.thermal || !s.enabled sp then []
  else s.steppedCopies sp ++ (if x.idle then [] else endOfSc x (Fin.ofNat 128 sp) ++ startOfSc (Fin.ofNat 128 sp)) ++ x.flushes sp ++ x.wakes sp ++ s.saves sp ++ s.seeks sp

-- A tower

/-- The active slots of a tower. -/
def State.served (s : State) (t : Nat) : List (Nat × Slot) := (s.arb t).slots.filterMap (fun p => p.2.map (fun y => (p.1, y)))

/-- A saved task of a slot that comes back (R74). -/
def State.slotBack (s : State) (t : Nat) (p : Nat × Slot) : List Instr :=
  match s.nextRestore t p.2 with
  | some (img, sp, c) => [.restore (Fin.ofNat 4 t) (Fin.ofNat 64 p.1) img (Fin.ofNat 128 sp) (Fin.ofNat 8 c)]
  | none => []

/-- The arbiter's visit to a slot in a round: its gang placed, or a context pre-empted for it (R50, R72). -/
def State.slotVisit (s : State) (t : Nat) (p : Nat × Slot) : List Instr :=
    if p.2.placedAll then []
    else if hasSeq p.2.l.words then [.gangPlace (Fin.ofNat 4 t) (Fin.ofNat 64 p.1) []]
    else match s.chooseGang t p.1 p.2.l with
      | some l => [.gangPlace (Fin.ofNat 4 t) (Fin.ofNat 64 p.1) (l.map (fun a => (Fin.ofNat 128 a.1, Fin.ofNat 8 a.2)))]
      | none => [.gangPlace (Fin.ofNat 4 t) (Fin.ofNat 64 p.1) []] ++ (match s.victim t p.1 p.2.l with
        | some v => [.preempt (Fin.ofNat 128 v.1) (Fin.ofNat 8 v.2)]
        | none => [])

/-- What the arbiter does in a round, by descending priority: the saved tasks of a priority come back before its new gangs are placed (R50, R74). -/
def State.round (s : State) (t : Nat) : List Instr :=
  [7, 6, 5, 4, 3, 2, 1, 0].flatMap fun k =>
    let l := (s.served t).filter (fun p => p.2.l.pri == k)
    l.flatMap (s.slotBack t) ++ l.flatMap (s.slotVisit t)

/-- L2 ways that have been waking for 2,048 sc are awake; one that fails is failed by an event before this one (R35, R464). -/
def Tower.wakes (x : Tower) (t : Nat) : List Instr :=
  x.l2waking.filterMap fun w => if 2048 ≤ w.2.2.2 then some (.bankWakeComplete (.l2 (Fin.ofNat 4 t) (Fin.ofNat 4 w.1) (Fin.ofNat 4 w.2.1) (Fin.ofNat 16 w.2.2.1)))
    else none

/-- Events of a tower in one sc: requests its HRU holds, launches that become ready, copies, its active slots. -/
def State.towerEvents (s : State) (t : Nat) : List Instr :=
  if s.cfg.thermal then []
  else (s.hru t).q.map (fun _ => .l2Miss (Fin.ofNat 4 t))
    ++ (s.dueLaunches t).map (fun i => .launchDependenceMet (Fin.ofNat 4 t) i)
    ++ (s.arb t).copies.map (fun _ => .launchCopy (Fin.ofNat 4 t))
    ++ s.round t ++ (s.tower t).wakes t

-- The package

/-- NBUs that perform a request and are not suspended. -/
def State.runningNbus (s : State) : List Nat := (s.nbus.filter fun p => p.2.cur.isSome && !p.2.suspended).map (·.1)

/-- The end of a tower's sc: its gated L2 ways are swept, those that wake grow older (R34, R35), its arbiter observes dependences (R47), and its events
come. -/
def State.finishTower (s : State) (t : Nat) : State :=
  let s0 := (s.sweepL2 t).stampDue t (fun _ => false)
  let s1 := if (s0.tower t).l2waking.isEmpty then s0
    else s0.modTower t (fun x => { x with l2waking := x.l2waking.map (fun w => (w.1, w.2.1, w.2.2.1, w.2.2.2 + 1)) })
  s1.later (s1.towerEvents t)

/-- The clock of the dome of a spire does not get the coming reference pulse: k of 64 are removed, the same ones from every island of a timed domain (R33)
(DESIGN CHOICE, log 95: which). -/
def State.swallowed (s : State) (sp : Nat) : Bool :=
  let k := Tab.get (s.tower (towerOf sp)).swallow (sp % 32 / 8) 0
  decide (64 ≤ s.pulse * k % 64 + k)

/-- The sc of spire sp is over: its counters, the time of its steal attempt among them, and its events. -/
def State.endSpire (s : State) (sp : Nat) : State :=
  let s0 := s.modSpire sp Spire.age
  let s1 := if s0.thief sp then s0.modSpire sp (fun x => { x with pause := x.pause + 1 }) else s0
  s1.later (s1.spireEvents sp)

/-- The turn of spire `cur` is over; the next spire's comes. The last spire of a tower ends the tower's sc; the last of all ends the
reference pulse: tail inserts and steals, publishes, the time base, and one nc of every near-bank unit; under a thermal stop the time base alone
(R463). -/
def State.nextTurn (s : State) : State :=
  let sp := s.cur
  let s3 := if sp % 32 = 31 then s.finishTower (towerOf sp) else s
  let next := (sp + 1) % 128
  if next = 0 then
    let s4 := if s3.cfg.thermal then s3 else let s4 := s3.insertTails; s4.later (s4.steals ++ s4.publishing)
    { s4.tick with cur := next, nbuTurn := if s3.cfg.thermal then [] else s3.runningNbus, pulse := (s3.pulse + 1) % 64 }
  else { s3 with cur := next }

/-- A sc of spire `cur`, its bundle issued. -/
def State.finishCycle (s : State) : State := (s.endSpire s.cur).nextTurn

end Sys2Proof.Machine
end

