-- ==== Sys2Proof/Machine/Dispatch.lean ====
section
/-! DEFINITION. Machine/Dispatch.lean: one arm for each constructor of Instr. -/

namespace Sys2Proof.Machine

def exec (i : Instr) (s : State) : Host.Outcome State Fault Refusal :=
  match i with
  -- C class (spec/07)
  | .nop => Sys2Proof.Machine.execNop s
  | .add r sat t => Sys2Proof.Machine.execAdd r sat t s
  | .sub r sat t => Sys2Proof.Machine.execSub r sat t s
  | .addi r imm => Sys2Proof.Machine.execAddi r imm s
  | .mul r sat t => Sys2Proof.Machine.execMul r sat t s
  | .mulh r t => Sys2Proof.Machine.execMulh r t s
  | .div r t => Sys2Proof.Machine.execDiv r t s
  | .rem r t => Sys2Proof.Machine.execRem r t s
  | .and r t => Sys2Proof.Machine.execAnd r t s
  | .or r t => Sys2Proof.Machine.execOr r t s
  | .xor r t => Sys2Proof.Machine.execXor r t s
  | .andn r t => Sys2Proof.Machine.execAndn r t s
  | .shl r sat t => Sys2Proof.Machine.execShl r sat t s
  | .shr r t => Sys2Proof.Machine.execShr r t s
  | .rol r t => Sys2Proof.Machine.execRol r t s
  | .clz r t => Sys2Proof.Machine.execClz r t s
  | .ctz r t => Sys2Proof.Machine.execCtz r t s
  | .popc r t => Sys2Proof.Machine.execPopc r t s
  | .min r t => Sys2Proof.Machine.execMin r t s
  | .max r t => Sys2Proof.Machine.execMax r t s
  | .sel r c => Sys2Proof.Machine.execSel r c s
  | .cmpCc r cc t => Sys2Proof.Machine.execCmpCc r cc t s
  | .sext r t => Sys2Proof.Machine.execSext r t s
  | .zext r t => Sys2Proof.Machine.execZext r t s
  | .li d imm => Sys2Proof.Machine.execLi d imm s
  | .lih r imm => Sys2Proof.Machine.execLih r imm s
  | .mov r => Sys2Proof.Machine.execMov r s
  | .mad r sat t => Sys2Proof.Machine.execMad r sat t s
  | .idxPack r => Sys2Proof.Machine.execIdxPack r s
  | .qdrop a vec n => Sys2Proof.Machine.execQdrop a vec n s
  | .qdepth d a vec => Sys2Proof.Machine.execQdepth d a vec s
  | .qclr a vec => Sys2Proof.Machine.execQclr a vec s
  | .fadd r m t => Sys2Proof.Machine.execFadd r m t s
  | .fsub r m t => Sys2Proof.Machine.execFsub r m t s
  | .fmul r m t => Sys2Proof.Machine.execFmul r m t s
  | .fma r m t => Sys2Proof.Machine.execFma r m t s
  | .fdiv r m t => Sys2Proof.Machine.execFdiv r m t s
  | .fsqrt r m t => Sys2Proof.Machine.execFsqrt r m t s
  | .fmin r t => Sys2Proof.Machine.execFmin r t s
  | .fmax r t => Sys2Proof.Machine.execFmax r t s
  | .fcmp r cc t => Sys2Proof.Machine.execFcmp r cc t s
  | .fcvt r src sat m dst => Sys2Proof.Machine.execFcvt r src sat m dst s
  | .fcls r t => Sys2Proof.Machine.execFcls r t s
  | .br imm => Sys2Proof.Machine.execBr imm s
  | .brc cc a imm => Sys2Proof.Machine.execBrc cc a imm s
  | .jmp a => Sys2Proof.Machine.execJmp a s
  | .call imm => Sys2Proof.Machine.execCall imm s
  | .ret => Sys2Proof.Machine.execRet s
  | .loop a n => Sys2Proof.Machine.execLoop a n s
  | .yield => Sys2Proof.Machine.execYield s
  | .tend => Sys2Proof.Machine.execTend s
  | .trap imm => Sys2Proof.Machine.execTrap imm s
  | .sysrd d n => Sys2Proof.Machine.execSysrd d n s
  | .syswr a n => Sys2Proof.Machine.execSyswr a n s
  | .chk sr l => Sys2Proof.Machine.execChk sr l s
  | .brk imm => Sys2Proof.Machine.execBrk imm s
  -- V class (spec/08)
  | .vadd r m t => Sys2Proof.Machine.execVadd r m t s
  | .vsub r m t => Sys2Proof.Machine.execVsub r m t s
  | .vmul r m t => Sys2Proof.Machine.execVmul r m t s
  | .vfma r m t => Sys2Proof.Machine.execVfma r m t s
  | .vfms r m t => Sys2Proof.Machine.execVfms r m t s
  | .vnfma r m t => Sys2Proof.Machine.execVnfma r m t s
  | .vmin r t => Sys2Proof.Machine.execVmin r t s
  | .vmax r t => Sys2Proof.Machine.execVmax r t s
  | .vabs r sat t => Sys2Proof.Machine.execVabs r sat t s
  | .vneg r sat t => Sys2Proof.Machine.execVneg r sat t s
  | .vcmpCc k md a b cc t => Sys2Proof.Machine.execVcmpCc k md a b cc t s
  | .vsel r t => Sys2Proof.Machine.execVsel r t s
  | .vand r t => Sys2Proof.Machine.execVand r t s
  | .vor r t => Sys2Proof.Machine.execVor r t s
  | .vxor r t => Sys2Proof.Machine.execVxor r t s
  | .vnot r t => Sys2Proof.Machine.execVnot r t s
  | .vshl r sat t => Sys2Proof.Machine.execVshl r sat t s
  | .vshr r t => Sys2Proof.Machine.execVshr r t s
  | .vsra r t => Sys2Proof.Machine.execVsra r t s
  | .vcvt p d a src sat m dst => Sys2Proof.Machine.execVcvt p d a src sat m dst s
  | .vpack p d a bt scales m src => Sys2Proof.Machine.execVpack p d a bt scales m src s
  | .vunpack p d a b m dst => Sys2Proof.Machine.execVunpack p d a b m dst s
  | .vbcast d sr t => Sys2Proof.Machine.execVbcast d sr t s
  | .vext d a sr t => Sys2Proof.Machine.execVext d a sr t s
  | .vins d a sr c t => Sys2Proof.Machine.execVins d a sr c t s
  | .vperm r t => Sys2Proof.Machine.execVperm r t s
  | .vrot d a ix t => Sys2Proof.Machine.execVrot d a ix t s
  | .vslide d a b ix t => Sys2Proof.Machine.execVslide d a b ix t s
  | .vred r sat op t => Sys2Proof.Machine.execVred r sat op t s
  | .vargmax r t => Sys2Proof.Machine.execVargmax r t s
  | .vscanAdd r t => Sys2Proof.Machine.execVscanAdd r t s
  | .vexp2 r t => Sys2Proof.Machine.execVexp2 r t s
  | .vlog2 r t => Sys2Proof.Machine.execVlog2 r t s
  | .vrcp r t => Sys2Proof.Machine.execVrcp r t s
  | .vrsqrt r t => Sys2Proof.Machine.execVrsqrt r t s
  | .vtanh r t => Sys2Proof.Machine.execVtanh r t s
  | .vld m => Sys2Proof.Machine.execVld m s
  | .vst m => Sys2Proof.Machine.execVst m s
  | .vldx m t => Sys2Proof.Machine.execVldx m t s
  | .vstx m t => Sys2Proof.Machine.execVstx m t s
  | .mand d a b => Sys2Proof.Machine.execMand d a b s
  | .mor d a b => Sys2Proof.Machine.execMor d a b s
  | .mxor d a b => Sys2Proof.Machine.execMxor d a b s
  | .mnot d a => Sys2Proof.Machine.execMnot d a s
  | .mpop d a t => Sys2Proof.Machine.execMpop d a t s
  | .mfirst d a t => Sys2Proof.Machine.execMfirst d a t s
  -- M class (spec/09)
  | .mmaTs d a ta l zs ft pair k => Sys2Proof.Machine.execMmaTs d a ta l zs ft pair k s
  | .mmaV d a rp l zs ft pair => Sys2Proof.Machine.execMmaV d a rp l zs ft pair s
  | .mmaH d sr l zs k => Sys2Proof.Machine.execMmaH d sr l zs k s
  | .latLd l a tr t => Sys2Proof.Machine.execLatLd l a tr t s
  | .latLdh l sr => Sys2Proof.Machine.execLatLdh l sr s
  | .latClr l => Sys2Proof.Machine.execLatClr l s
  | .aclr d => Sys2Proof.Machine.execAclr d s
  | .aload d a t => Sys2Proof.Machine.execAload d a t s
  | .amovV v a row => Sys2Proof.Machine.execAmovV v a row s
  | .adrain d a is bt sat ft m t => Sys2Proof.Machine.execAdrain d a is bt sat ft m t s
  | .adrainh d sr sat c => Sys2Proof.Machine.execAdrainh d sr sat c s
  | .astat d a => Sys2Proof.Machine.execAstat d a s
  | .astatClr d k => Sys2Proof.Machine.execAstatClr d k s
  | .fmtLd a first n => Sys2Proof.Machine.execFmtLd a first n s
  | .fmtRd d e => Sys2Proof.Machine.execFmtRd d e s
  | .mbar => Sys2Proof.Machine.execMbar s
  -- X class (spec/10 and spec/11)
  | .tld sr st => Sys2Proof.Machine.execTld sr st s
  | .tst sr st => Sys2Proof.Machine.execTst sr st s
  | .tstW sr st => Sys2Proof.Machine.execTstW sr st s
  | .tmc sr st obj => Sys2Proof.Machine.execTmc sr st obj s
  | .tcopy sr st red => Sys2Proof.Machine.execTcopy sr st red s
  | .tgath sr st => Sys2Proof.Machine.execTgath sr st s
  | .tscat sr st red => Sys2Proof.Machine.execTscat sr st red s
  | .tfill sr st obj => Sys2Proof.Machine.execTfill sr st obj s
  | .ldTs d a imm t => Sys2Proof.Machine.execLdTs d a imm t s
  | .stTs sr imm t => Sys2Proof.Machine.execStTs sr imm t s
  | .ldo d sr o => Sys2Proof.Machine.execLdo d sr o s
  | .barInit a n => Sys2Proof.Machine.execBarInit a n s
  | .barExp sr imm => Sys2Proof.Machine.execBarExp sr imm s
  | .barArr sr mask => Sys2Proof.Machine.execBarArr sr mask s
  | .waitb a ph => Sys2Proof.Machine.execWaitb a ph s
  | .ringWait sr => Sys2Proof.Machine.execRingWait sr s
  | .cntAdd sr o e => Sys2Proof.Machine.execCntAdd sr o e s
  | .cntRd d a o e => Sys2Proof.Machine.execCntRd d a o e s
  | .waitc sr e => Sys2Proof.Machine.execWaitc sr e s
  | .atom d a b op o e => Sys2Proof.Machine.execAtom d a b op o e s
  | .atomCas d sr o e => Sys2Proof.Machine.execAtomCas d sr o e s
  | .fork sr pk => Sys2Proof.Machine.execFork sr pk s
  | .launch sr => Sys2Proof.Machine.execLaunch sr s
  | .futNew a e => Sys2Proof.Machine.execFutNew a e s
  | .futRes sr poison e => Sys2Proof.Machine.execFutRes sr poison e s
  | .futWait sr => Sys2Proof.Machine.execFutWait sr s
  | .futRd d a o e => Sys2Proof.Machine.execFutRd d a o e s
  | .qOpen sr => Sys2Proof.Machine.execQOpen sr s
  | .qRet => Sys2Proof.Machine.execQRet s
  | .waitq a => Sys2Proof.Machine.execWaitq a s
  | .objOpenw d a => Sys2Proof.Machine.execObjOpenw d a s
  | .objPub d a => Sys2Proof.Machine.execObjPub d a s
  | .objAbandon a => Sys2Proof.Machine.execObjAbandon a s
  | .objPin d sr => Sys2Proof.Machine.execObjPin d sr s
  | .objUnpin a => Sys2Proof.Machine.execObjUnpin a s
  | .objSub sr del => Sys2Proof.Machine.execObjSub sr del s
  | .objVer d a sel => Sys2Proof.Machine.execObjVer d a sel s
  | .objDesc d a k => Sys2Proof.Machine.execObjDesc d a k s
  | .objPref sr mig n => Sys2Proof.Machine.execObjPref sr mig n s
  | .waitv sr => Sys2Proof.Machine.execWaitv sr s
  | .coll sr => Sys2Proof.Machine.execColl sr s
  | .relLd d sr => Sys2Proof.Machine.execRelLd d sr s
  | .slotRd d => Sys2Proof.Machine.execSlotRd d s
  | .drOp sr fast op => Sys2Proof.Machine.execDrOp sr fast op s
  | .nbLoad a => Sys2Proof.Machine.execNbLoad a s
  | .nbRun a => Sys2Proof.Machine.execNbRun a s
  | .nbAcc a => Sys2Proof.Machine.execNbAcc a s
  -- near-bank microinstructions (Table 12-5)
  | .endRun => Sys2Proof.Machine.execEndRun s
  | .ldr bd f imm => Sys2Proof.Machine.execLdr bd f imm s
  | .sadd bd f m imm => Sys2Proof.Machine.execSadd bd f m imm s
  | .mulr bd f m imm => Sys2Proof.Machine.execMulr bd f m imm s
  | .minr bd f imm => Sys2Proof.Machine.execMinr bd f imm s
  | .maxr bd f imm => Sys2Proof.Machine.execMaxr bd f imm s
  | .aadd bd bs m => Sys2Proof.Machine.execAadd bd bs m s
  | .ascl bd bs m => Sys2Proof.Machine.execAscl bd bs m s
  | .clr bd => Sys2Proof.Machine.execClr bd s
  | .wb bs f m imm => Sys2Proof.Machine.execWb bs f m imm s
  | .sclp px => Sys2Proof.Machine.execSclp px s
  | .sclm px m => Sys2Proof.Machine.execSclm px m s
  | .radv imm => Sys2Proof.Machine.execRadv imm s
  | .nbuLoop px imm => Sys2Proof.Machine.execNbuLoop px imm s
  -- events of the near-bank units and of a spire
  | .nbuSuspend n => Sys2Proof.Machine.execNbuSuspend n s
  | .nbuResume n => Sys2Proof.Machine.execNbuResume n s
  | .bundleIssue => Sys2Proof.Machine.execBundleIssue s
  | .resultLanding sp => Sys2Proof.Machine.execResultLanding sp s
  | .deferredResultLanding sp => Sys2Proof.Machine.execDeferredResultLanding sp s
  | .tsWriteLanding sp => Sys2Proof.Machine.execTsWriteLanding sp s
  | .waitSatisfied sp => Sys2Proof.Machine.execWaitSatisfied sp s
  | .yieldReturn sp => Sys2Proof.Machine.execYieldReturn sp s
  | .stallCleared sp => Sys2Proof.Machine.execStallCleared sp s
  | .matrixOpStart sp => Sys2Proof.Machine.execMatrixOpStart sp s
  | .matrixOpComplete sp => Sys2Proof.Machine.execMatrixOpComplete sp s
  | .busyBitClear sp => Sys2Proof.Machine.execBusyBitClear sp s
  | .mmaHFetchArrival sp => Sys2Proof.Machine.execMmaHFetchArrival sp s
  | .sectorCommit op => Sys2Proof.Machine.execSectorCommit op s
  | .barrierArrival sp => Sys2Proof.Machine.execBarrierArrival sp s
  | .multicastDelivery op sp => Sys2Proof.Machine.execMulticastDelivery op sp s
  | .deferredTrap sp c => Sys2Proof.Machine.execDeferredTrap sp c s
  | .l2Miss t => Sys2Proof.Machine.execL2Miss t s
  | .publishComplete h => Sys2Proof.Machine.execPublishComplete h s
  -- events of launches, tasks, closures, rows, lanes and collectives that the machine itself brings about
  | .nbuRequestStart n => Sys2Proof.Machine.execNbuRequestStart n s
  | .launchDependenceMet t ix => Sys2Proof.Machine.execLaunchDependenceMet t ix s
  | .launchActivate t => Sys2Proof.Machine.execLaunchActivate t s
  | .launchCopy t => Sys2Proof.Machine.execLaunchCopy t s
  | .gangPlace t slot at_ => Sys2Proof.Machine.execGangPlace t slot at_ s
  | .preempt sp c => Sys2Proof.Machine.execPreempt sp c s
  | .saveComplete sp c => Sys2Proof.Machine.execSaveComplete sp c s
  | .restore t slot img sp c => Sys2Proof.Machine.execRestore t slot img sp c s
  | .launchRetire t slot => Sys2Proof.Machine.execLaunchRetire t slot s
  | .dequePop sp c => Sys2Proof.Machine.execDequePop sp c s
  | .stealAttempt sp c => Sys2Proof.Machine.execStealAttempt sp c s
  | .stealRestart sp => Sys2Proof.Machine.execStealRestart sp s
  | .holdingListInsert t => Sys2Proof.Machine.execHoldingListInsert t s
  | .borrow sp c => Sys2Proof.Machine.execBorrow sp c s
  | .borrowAnswer sp c => Sys2Proof.Machine.execBorrowAnswer sp c s
  | .accFlushTimer sp k => Sys2Proof.Machine.execAccFlushTimer sp k s
  | .accFlushIdle sp k => Sys2Proof.Machine.execAccFlushIdle sp k s
  | .bankWakeComplete u => Sys2Proof.Machine.execBankWakeComplete u s
  | .bankWakeTimeout u => Sys2Proof.Machine.execBankWakeTimeout u s
  | .rowOpRow op => Sys2Proof.Machine.execRowOpRow op s
  | .rowStep op => Sys2Proof.Machine.execRowStep op s
  | .fallbackRow op => Sys2Proof.Machine.execFallbackRow op s
  | .rowOpDone op => Sys2Proof.Machine.execRowOpDone op s
  | .ordinaryAccess pc bank => Sys2Proof.Machine.execOrdinaryAccess pc bank s
  | .collStep c => Sys2Proof.Machine.execCollStep c s
  | .resendTimer ix => Sys2Proof.Machine.execResendTimer ix s
  | .keyEpochInstall q => Sys2Proof.Machine.execKeyEpochInstall q s
  | .oldKeyErase q => Sys2Proof.Machine.execOldKeyErase q s
  | .peerReachable q => Sys2Proof.Machine.execPeerReachable q s
  | .laneWindowClose n => Sys2Proof.Machine.execLaneWindowClose n s
  | .retrainStart n => Sys2Proof.Machine.execRetrainStart n s
  | .trainingPatternReceived n => Sys2Proof.Machine.execTrainingPatternReceived n s
  | .laneHandBack n => Sys2Proof.Machine.execLaneHandBack n s
  | .retrainTimeout n => Sys2Proof.Machine.execRetrainTimeout n s
  | .flitSend peer => Sys2Proof.Machine.execFlitSend peer s
  | .lostCarrier n => Sys2Proof.Machine.execLostCarrier n s
  -- HRU commands (Table 03-8); the operands stand for the ring entry and what it points to
  | .otew t onum words rights => Sys2Proof.Machine.execOtew t onum words rights s
  | .pmu t h ver page e => Sys2Proof.Machine.execPmu t h ver page e s
  | .tinv t h page dom => Sys2Proof.Machine.execTinv t h page dom s
  | .purge t sid h => Sys2Proof.Machine.execPurge t sid h s
  | .fpool t frames => Sys2Proof.Machine.execFpool t frames s
  | .cpool t count => Sys2Proof.Machine.execCpool t count s
  -- launches and weight
  | .cpQueueLaunch m rec => Sys2Proof.Machine.execCpQueueLaunch m rec s
  | .releaseStepPush => Sys2Proof.Machine.execReleaseStepPush s
  | .weightReturn => Sys2Proof.Machine.execWeightReturn s
  -- registers, gating, refresh, translations
  | .gateTsBank sp b => Sys2Proof.Machine.execGateTsBank sp b s
  | .gateL2Way t dome slice way => Sys2Proof.Machine.execGateL2Way t dome slice way s
  | .tdmodeWrite v => Sys2Proof.Machine.execTdmodeWrite v s
  | .pkidWrite v => Sys2Proof.Machine.execPkidWrite v s
  | .registerWrite a v kc who => Sys2Proof.Machine.execRegisterWrite a v kc who s
  | .refresh pc bank => Sys2Proof.Machine.execRefresh pc bank s
  | .translationReady t ix noff nlen tsvn entry => Sys2Proof.Machine.execTranslationReady t ix noff nlen tsvn entry s
  -- the optical domain
  | .slotStart => Sys2Proof.Machine.execSlotStart s
  | .idle f => Sys2Proof.Machine.execIdle f s
  | .rdreq f => Sys2Proof.Machine.execRdreq f s
  | .rdrsp f => Sys2Proof.Machine.execRdrsp f s
  | .write f => Sys2Proof.Machine.execWrite f s
  | .redw f => Sys2Proof.Machine.execRedw f s
  | .ack f => Sys2Proof.Machine.execAck f s
  | .live f => Sys2Proof.Machine.execLive f s
  | .collFlit f => Sys2Proof.Machine.execCollFlit f s
  | .rel f => Sys2Proof.Machine.execRel f s
  | .hruFlit f => Sys2Proof.Machine.execHruFlit f s
  | .time f offset => Sys2Proof.Machine.execTime f offset s
  | .key f => Sys2Proof.Machine.execKey f s
  | .flitDiscard f => Sys2Proof.Machine.execFlitDiscard f s
  | .laneRegWrite n w v => Sys2Proof.Machine.execLaneRegWrite n w v s
  | .timeFlitTimeout => Sys2Proof.Machine.execTimeFlitTimeout s
  | .alignmentRegained => Sys2Proof.Machine.execAlignmentRegained s
  -- host ports
  | .sessionOpen portB sess sid enrolled => Sys2Proof.Machine.execSessionOpen portB sess sid enrolled s
  | .cpRegisterRead m a => Sys2Proof.Machine.execCpRegisterRead m a s
  | .cpRegisterWrite m a v => Sys2Proof.Machine.execCpRegisterWrite m a v s
  | .cpSemAcquire m k rivals => Sys2Proof.Machine.execCpSemAcquire m k rivals s
  | .cpSemRelease m k => Sys2Proof.Machine.execCpSemRelease m k s
  | .cpAttestation m nonce idKeyOk => Sys2Proof.Machine.execCpAttestation m nonce idKeyOk s
  | .cpTrapQueueRead m t => Sys2Proof.Machine.execCpTrapQueueRead m t s
  | .cpMessageDiscard m => Sys2Proof.Machine.execCpMessageDiscard m s
  | .semAcquire kc k rivals => Sys2Proof.Machine.execSemAcquire kc k rivals s
  | .semRelease kc k => Sys2Proof.Machine.execSemRelease kc k s
  | .roceSend portB qp len => Sys2Proof.Machine.execRoceSend portB qp len s
  | .rdmaWrite r data => Sys2Proof.Machine.execRdmaWrite r data s
  | .rdmaRead r ver len => Sys2Proof.Machine.execRdmaRead r ver len s
  | .writeWithImmediate r data qp imm => Sys2Proof.Machine.execWriteWithImmediate r data qp imm s
  | .nvmeCompletion h off data tk th tix => Sys2Proof.Machine.execNvmeCompletion h off data tk th tix s
  | .frameDiscard portB => Sys2Proof.Machine.execFrameDiscard portB s
  | .portFail portB => Sys2Proof.Machine.execPortFail portB s
  | .portLinkUp portB => Sys2Proof.Machine.execPortLinkUp portB s
  | .portLinkDown portB => Sys2Proof.Machine.execPortLinkDown portB s
  -- bring-up, trust, power, errors
  | .reset b => Sys2Proof.Machine.execReset b s
  | .bringupAlignTimeout => Sys2Proof.Machine.execBringupAlignTimeout s
  | .svnRaise target signed blown => Sys2Proof.Machine.execSvnRaise target signed blown s
  | .powerThrottle t k thermal temp => Sys2Proof.Machine.execPowerThrottle t k thermal temp s
  | .powerExcessEnd t dom k => Sys2Proof.Machine.execPowerExcessEnd t dom k s
  | .thermalStop t temp => Sys2Proof.Machine.execThermalStop t temp s
  | .operatingPointChange t dom point => Sys2Proof.Machine.execOperatingPointChange t dom point s
  | .eccCorrected t dram => Sys2Proof.Machine.execEccCorrected t dram s
  | .uncorrectableError w => Sys2Proof.Machine.execUncorrectableError w s
  -- CTL and LSC commands, `who` is the space of the keep core that writes (R411)
  | .resume who sp c => Sys2Proof.Machine.execResume who sp c s
  | .save who sp c => Sys2Proof.Machine.execSave who sp c s
  | .terminate who sp c => Sys2Proof.Machine.execTerminate who sp c s
  | .halt who sp c => Sys2Proof.Machine.execHalt who sp c s
  | .step who sp c n => Sys2Proof.Machine.execStep who sp c n s
  | .release who sp c => Sys2Proof.Machine.execRelease who sp c s
  | .preon who t slot => Sys2Proof.Machine.execPreon who t slot s
  | .termimg who t slot img => Sys2Proof.Machine.execTermimg who t slot img s
  | .retry who t slot img => Sys2Proof.Machine.execRetry who t slot img s
  | .tqHeadWrite t v => Sys2Proof.Machine.execTqHeadWrite t v s
  | .tqConfigWrite t v => Sys2Proof.Machine.execTqConfigWrite t v s

end Sys2Proof.Machine
end

