-- ==== Sys2Proof/Machine/Run.lean ====
section
/-! DEFINITION. Machine/Run.lean: what one step of the machine does: the next event of the agenda, a microinstruction of a
near-bank unit, or the next bundle of the spire whose turn it is (log 1); and the placing of one instruction where it is
fetched next (log 10). -/

namespace Sys2Proof.Machine

/-- The slots of the bundle under issue in the order in which they take effect, then its end; a trap or a stall of one slot ends
the bundle (R403). -/
def runSlots : List SlotOp → State → Out
  | [], s => .next (if s.iss.active then s.commit else s)
  | o :: r, s =>
    if s.iss.active then
      match exec o.ins (s.atSlot o r) with
      | .next t => runSlots r t
      | .fault f => .fault f
      | .refused f => .refused f
    else .next s

/-- `bundleIssue` and the slots it loads; when the bundle stalls, the selector takes the next READY context in its place, `n` times at most
(R53). -/
def State.tryIssue (s : State) : Nat → Out
  | 0 => .next s
  | n + 1 =>
    match exec .bundleIssue s with
    | .next t =>
      match runSlots t.iss.todo t with
      | .next u => if u.iss.stalled then State.tryIssue u n else .next u
      | .fault f => .fault f
      | .refused f => .refused f
    | .fault f => .fault f
    | .refused f => .refused f

/-- A bundle of the spire `cur`, then the end of that spire's sc; of a pulse that its clock does not get, nothing (R33) (DESIGN CHOICE, log 1). -/
def State.bundle (s : State) : Out :=
  if s.swallowed s.cur then .next s.nextTurn
  else match s.tryIssue 9 with
  | .next u => .next u.finishCycle
  | .fault f => .fault f
  | .refused f => .refused f

/-- The event `i`; a `bundleIssue` runs its slots too (DESIGN CHOICE, log 1). -/
def State.happen (s : State) (i : Instr) : Out :=
  if i = .bundleIssue then s.bundle else exec i s

/-- NBU n has its turn: the microinstruction at MPC, or the stop for an entry that is none (R341) (DESIGN CHOICE, log 1) (DESIGN CHOICE, log 66). -/
def State.nbuStep (s : State) (n : Nat) : Out :=
  let s1 := { s with nbuCur := n }
  match s1.nbuTurnOf n with
  | .idle => .next s1
  | .op i => exec i s1
  | .bad => .next (s1.nbStop n 2)

-- Placing an instruction

/-- The code object of a placed instruction: object number 1 of this package, versioned, one row-aligned page (Table 03-2). -/
def State.placeHandle (s : State) : Entry := BitVec.ofNat 64 (s.cfg.pkn % 256 * 2 ^ 56 + 2 ^ 24)

/-- Its entry: CLASS versioned, RANK 1, z8, RALN, one page, its page 0 in HBM frame 0 at every version it is asked for. -/
def placeObj (ver : Nat) : Obj where
  w := [BitVec.ofNat 64 (2 ^ 35 + 2 ^ 29 + 2 ^ 19 + 7 * 2 ^ 6), 65536, 0x0000000100000001, 0x0000000100000001, BitVec.ofNat 64 (ver * 2 ^ 32), 0, 0, 0,
    0, 0, 0, 0, 1, 0, 0, 0]
  maps := [(ver, [(0, BitVec.ofNat 64 (2 ^ 61))])]
  retained := []
  rights := []
  subs := []
  closing := none
  publisher := none
  joined := []
  await := []
  prims := []
  taken := []

/-- The code object in place of object 1, the table of tower 0 enabled, no event due, spire 0 next. -/
def State.placeCode (s : State) : State :=
  let ver := (s.ctx 0 0).sys.cvr
  let s1 := s.modHru 0 (fun u => { u with otlog := if 16 ≤ u.otlog ∧ u.otlog ≤ 26 then u.otlog else 16 })
  { s1.setObj 1 (placeObj ver) with agenda := [], nbuTurn := [], cur := 0, pulse := 0, iss := .reset }

/-- The first sector of the code object stands in the instruction cache of spire 0, as the fetch of its first bundle leaves it (R96). -/
def State.placeLine (s : State) (ver : Nat) : State :=
  s.modSpire 0 (fun x =>
    let c := fillLine geoIc (x.icache.filter (fun l => l.h != s.placeHandle)) 0 s.placeHandle ver 0 (dense s.mem 0 256).toList []
    { x with icache := c })

/-- The bundle `w` at native offset 0 of context 0 of spire 0, which is READY and first in rotation (R53) (DEDUCED, log 10). -/
def State.placeBundle (s : State) (w : Nat) : State :=
  let s1 := s.placeCode
  let s2 := s1.modSpire 0 (fun x => { x with last := 7, stopped := false, held := [] })
  let s3 := s2.modCtx 0 0 (fun x => { x with
    st := .ready
    wait := none
    stall := none
    stepping := none
    halting := false
    loop := none
    pc := 0
    sys := { x.sys with sid := 0 }
    res := { x.res with codeh := s.placeHandle, noff := 0, nlen := 16, tsvn := max x.res.tsvn s.cfg.fuses.svn } })
  ({ s3 with mem := writeLE s3.mem 0 w 16 }).placeLine (s3.ctx 0 0).sys.cvr

/-- The header that lets one operation have its read ports (R184): the first PORTS value under which it has them. -/
def placePorts (o : SlotOp) : Nat :=
  ((List.range 8).find? (fun p => (portCheck ⟨true, 0, 0, p, false, [0, 0, 0, 0]⟩ [o]).isNone)).getD 0

/-- The bundle that holds the slot word `w` alone, in the first slot in which it names an operation; the other slots hold `nop`,
slot 0 a header where the word stands in another slot (R168, R172). -/
def placeWord (w : Nat) : Nat :=
  match decodeAny w with
  | none => w
  | some (0, _) => w
  | some (k, i) => w * 2 ^ (32 * k) + (0x7F * 2 ^ 25 + placePorts ⟨k, w, i⟩ * 2 ^ 19)

/-- The microinstruction `w` at MPC of NBU 0, which runs on row 0 of the code object and has the next turn (R339) (DEDUCED, log 10). -/
def State.placeMicro (s : State) (w : Nat) : State :=
  let s1 := s.placeCode
  let h := s.placeHandle
  let ver := (s.ctx 0 0).sys.cvr
  let r : Req := ⟨.nbRun ⟨0, false⟩, 0, 0, 0, 0, 0, 3, 0, h, 0, 1, [], 0⟩
  let u := s1.nbu 0
  { s1.setNbu 0 { u with cur := some ⟨r, h, ver, false, 0, [], 0, 0⟩, suspended := false, ms := Tab.set u.ms u.mpc (BitVec.ofNat 64 w) } with
    nbuTurn := [0]
    access := s.access.filter (fun p => p.1 != 0)
    rowBusy := s.rowBusy.filter (fun p => p.1 != 0) }

end Sys2Proof.Machine
end

