-- ==== Sys2Proof/Machine/Step.lean ====
section
/-! DEFINITION. Machine/Step.lean: the step of the machine, and the placing of an instruction where the next step fetches it. -/

namespace Sys2Proof.Machine

/-- One step: the first event due; else the turn of a near-bank unit; else the next bundle of the spire `cur`. -/
def step (s : State) : Host.Outcome State Fault Refusal :=
  match s.agenda with
  | i :: r => ({ s with agenda := r }).happen i
  | [] =>
    match s.nbuTurn with
    | n :: r => ({ s with nbuTurn := r }).nbuStep n
    | [] => s.bundle

/-- `s` with the instruction of `nbits` bits placed so that the next step runs it: 64 bits a microinstruction of NBU 0, 128 a
bundle and 32 a slot word of context 0 of spire 0 (DEDUCED, log 10). -/
def State.withFetchWord (s : State) (nbits w : Nat) : State :=
  if nbits = 64 then s.placeMicro w
  else if nbits = 128 then s.placeBundle w
  else s.placeBundle (placeWord (w % 2 ^ 32))

end Sys2Proof.Machine
end

