-- ==== Sys2Proof/Laws/Tab.lean ====
section
/-! SUPPORT. Laws/Tab.lean: reading a sparse table after writing it. -/

namespace Sys2Proof.Machine

@[simp] theorem Tab.get_nil {α : Type} (k : Nat) (d : α) : Tab.get ([] : Tab α) k d = d := rfl

@[simp] theorem Tab.get_set_self {α : Type} (t : Tab α) (k : Nat) (x d : α) : Tab.get (Tab.set t k x) k d = x := by
  induction t with
  | nil => simp [Tab.set, Tab.get]
  | cons p r ih =>
    obtain ⟨j, y⟩ := p
    by_cases h : j = k <;> simp [Tab.set, Tab.get, h, ih]

theorem Tab.get_set_ne {α : Type} (t : Tab α) {j k : Nat} (h : j ≠ k) (x d : α) :
    Tab.get (Tab.set t k x) j d = Tab.get t j d := by
  induction t with
  | nil => simp [Tab.set, Tab.get, Ne.symm h]
  | cons p r ih =>
    obtain ⟨i, y⟩ := p
    by_cases hi : i = k
    · subst hi; simp [Tab.set, Tab.get, Ne.symm h]
    · by_cases hj : i = j
      · subst hj; simp [Tab.set, Tab.get, hi]
      · simp [Tab.set, Tab.get, hi, hj, ih]

theorem Tab.get_set {α : Type} (t : Tab α) (j k : Nat) (x d : α) :
    Tab.get (Tab.set t k x) j d = if j = k then x else Tab.get t j d := by
  by_cases h : j = k
  · subst h; simp
  · simp [h, Tab.get_set_ne]

@[simp] theorem Tab.set_set {α : Type} (t : Tab α) (k : Nat) (x y : α) : Tab.set (Tab.set t k x) k y = Tab.set t k y := by
  induction t with
  | nil => simp [Tab.set]
  | cons p r ih =>
    obtain ⟨j, z⟩ := p
    by_cases h : j = k <;> simp [Tab.set, h, ih]

theorem Tab.get_del {α : Type} (t : Tab α) (j k : Nat) (d : α) :
    Tab.get (Tab.del t k) j d = if j = k then d else Tab.get t j d := by
  induction t with
  | nil => simp [Tab.del]
  | cons p r ih =>
    obtain ⟨i, y⟩ := p
    simp only [Tab.del] at ih ⊢
    by_cases hi : i = k
    · subst hi
      by_cases hj : i = j
      · subst hj; simpa [List.filter_cons] using ih
      · simp [Tab.get, hj, ih, Ne.symm hj]
    · by_cases hj : i = j
      · subst hj; simp [hi, Tab.get]
      · simp [hi, Tab.get, hj, ih]

end Sys2Proof.Machine
end

