-- ==== Sys2Proof/Laws/State.lean ====
section
/-! SUPPORT. Laws/State.lean: what each named update of the state leaves as it was, field by field, and what it changes. -/

namespace Sys2Proof.Machine

-- State.setSpire
@[simp] theorem State.setSpire_mem (s : State) (n : Nat) (x : Spire) : (s.setSpire n x).mem = s.mem := rfl
@[simp] theorem State.setSpire_poison (s : State) (n : Nat) (x : Spire) : (s.setSpire n x).poison = s.poison := rfl
@[simp] theorem State.setSpire_objs (s : State) (n : Nat) (x : Spire) : (s.setSpire n x).objs = s.objs := rfl
@[simp] theorem State.setSpire_towers (s : State) (n : Nat) (x : Spire) : (s.setSpire n x).towers = s.towers := rfl
@[simp] theorem State.setSpire_nbus (s : State) (n : Nat) (x : Spire) : (s.setSpire n x).nbus = s.nbus := rfl
@[simp] theorem State.setSpire_aops (s : State) (n : Nat) (x : Spire) : (s.setSpire n x).aops = s.aops := rfl
@[simp] theorem State.setSpire_closings (s : State) (n : Nat) (x : Spire) : (s.setSpire n x).closings = s.closings := rfl
@[simp] theorem State.setSpire_pulls (s : State) (n : Nat) (x : Spire) : (s.setSpire n x).pulls = s.pulls := rfl
@[simp] theorem State.setSpire_rows (s : State) (n : Nat) (x : Spire) : (s.setSpire n x).rows = s.rows := rfl
@[simp] theorem State.setSpire_colls (s : State) (n : Nat) (x : Spire) : (s.setSpire n x).colls = s.colls := rfl
@[simp] theorem State.setSpire_collIx (s : State) (n : Nat) (x : Spire) : (s.setSpire n x).collIx = s.collIx := rfl
@[simp] theorem State.setSpire_relTabs (s : State) (n : Nat) (x : Spire) : (s.setSpire n x).relTabs = s.relTabs := rfl
@[simp] theorem State.setSpire_relDone (s : State) (n : Nat) (x : Spire) : (s.setSpire n x).relDone = s.relDone := rfl
@[simp] theorem State.setSpire_collIn (s : State) (n : Nat) (x : Spire) : (s.setSpire n x).collIn = s.collIn := rfl
@[simp] theorem State.setSpire_collRel (s : State) (n : Nat) (x : Spire) : (s.setSpire n x).collRel = s.collRel := rfl
@[simp] theorem State.setSpire_relq (s : State) (n : Nat) (x : Spire) : (s.setSpire n x).relq = s.relq := rfl
@[simp] theorem State.setSpire_wret (s : State) (n : Nat) (x : Spire) : (s.setSpire n x).wret = s.wret := rfl
@[simp] theorem State.setSpire_borrows (s : State) (n : Nat) (x : Spire) : (s.setSpire n x).borrows = s.borrows := rfl
@[simp] theorem State.setSpire_fab (s : State) (n : Nat) (x : Spire) : (s.setSpire n x).fab = s.fab := rfl
@[simp] theorem State.setSpire_cfg (s : State) (n : Nat) (x : Spire) : (s.setSpire n x).cfg = s.cfg := rfl
@[simp] theorem State.setSpire_rowBusy (s : State) (n : Nat) (x : Spire) : (s.setSpire n x).rowBusy = s.rowBusy := rfl
@[simp] theorem State.setSpire_access (s : State) (n : Nat) (x : Spire) : (s.setSpire n x).access = s.access := rfl
@[simp] theorem State.setSpire_agenda (s : State) (n : Nat) (x : Spire) : (s.setSpire n x).agenda = s.agenda := rfl
@[simp] theorem State.setSpire_cur (s : State) (n : Nat) (x : Spire) : (s.setSpire n x).cur = s.cur := rfl
@[simp] theorem State.setSpire_iss (s : State) (n : Nat) (x : Spire) : (s.setSpire n x).iss = s.iss := rfl
@[simp] theorem State.setSpire_nbuCur (s : State) (n : Nat) (x : Spire) : (s.setSpire n x).nbuCur = s.nbuCur := rfl
@[simp] theorem State.setSpire_nbuTurn (s : State) (n : Nat) (x : Spire) : (s.setSpire n x).nbuTurn = s.nbuTurn := rfl
@[simp] theorem State.setSpire_pulse (s : State) (n : Nat) (x : Spire) : (s.setSpire n x).pulse = s.pulse := rfl
@[simp] theorem State.setSpire_inserts (s : State) (n : Nat) (x : Spire) : (s.setSpire n x).inserts = s.inserts := rfl
@[simp] theorem State.setSpire_fresh (s : State) (n : Nat) (x : Spire) : (s.setSpire n x).fresh = s.fresh := rfl
@[simp] theorem State.setSpire_free (s : State) (n : Nat) (x : Spire) : (s.setSpire n x).free = s.free := rfl

-- State.modSpire
@[simp] theorem State.modSpire_mem (s : State) (n : Nat) (f : Spire → Spire) : (s.modSpire n f).mem = s.mem := rfl
@[simp] theorem State.modSpire_poison (s : State) (n : Nat) (f : Spire → Spire) : (s.modSpire n f).poison = s.poison := rfl
@[simp] theorem State.modSpire_objs (s : State) (n : Nat) (f : Spire → Spire) : (s.modSpire n f).objs = s.objs := rfl
@[simp] theorem State.modSpire_towers (s : State) (n : Nat) (f : Spire → Spire) : (s.modSpire n f).towers = s.towers := rfl
@[simp] theorem State.modSpire_nbus (s : State) (n : Nat) (f : Spire → Spire) : (s.modSpire n f).nbus = s.nbus := rfl
@[simp] theorem State.modSpire_aops (s : State) (n : Nat) (f : Spire → Spire) : (s.modSpire n f).aops = s.aops := rfl
@[simp] theorem State.modSpire_closings (s : State) (n : Nat) (f : Spire → Spire) : (s.modSpire n f).closings = s.closings := rfl
@[simp] theorem State.modSpire_pulls (s : State) (n : Nat) (f : Spire → Spire) : (s.modSpire n f).pulls = s.pulls := rfl
@[simp] theorem State.modSpire_rows (s : State) (n : Nat) (f : Spire → Spire) : (s.modSpire n f).rows = s.rows := rfl
@[simp] theorem State.modSpire_colls (s : State) (n : Nat) (f : Spire → Spire) : (s.modSpire n f).colls = s.colls := rfl
@[simp] theorem State.modSpire_collIx (s : State) (n : Nat) (f : Spire → Spire) : (s.modSpire n f).collIx = s.collIx := rfl
@[simp] theorem State.modSpire_relTabs (s : State) (n : Nat) (f : Spire → Spire) : (s.modSpire n f).relTabs = s.relTabs := rfl
@[simp] theorem State.modSpire_relDone (s : State) (n : Nat) (f : Spire → Spire) : (s.modSpire n f).relDone = s.relDone := rfl
@[simp] theorem State.modSpire_collIn (s : State) (n : Nat) (f : Spire → Spire) : (s.modSpire n f).collIn = s.collIn := rfl
@[simp] theorem State.modSpire_collRel (s : State) (n : Nat) (f : Spire → Spire) : (s.modSpire n f).collRel = s.collRel := rfl
@[simp] theorem State.modSpire_relq (s : State) (n : Nat) (f : Spire → Spire) : (s.modSpire n f).relq = s.relq := rfl
@[simp] theorem State.modSpire_wret (s : State) (n : Nat) (f : Spire → Spire) : (s.modSpire n f).wret = s.wret := rfl
@[simp] theorem State.modSpire_borrows (s : State) (n : Nat) (f : Spire → Spire) : (s.modSpire n f).borrows = s.borrows := rfl
@[simp] theorem State.modSpire_fab (s : State) (n : Nat) (f : Spire → Spire) : (s.modSpire n f).fab = s.fab := rfl
@[simp] theorem State.modSpire_cfg (s : State) (n : Nat) (f : Spire → Spire) : (s.modSpire n f).cfg = s.cfg := rfl
@[simp] theorem State.modSpire_rowBusy (s : State) (n : Nat) (f : Spire → Spire) : (s.modSpire n f).rowBusy = s.rowBusy := rfl
@[simp] theorem State.modSpire_access (s : State) (n : Nat) (f : Spire → Spire) : (s.modSpire n f).access = s.access := rfl
@[simp] theorem State.modSpire_agenda (s : State) (n : Nat) (f : Spire → Spire) : (s.modSpire n f).agenda = s.agenda := rfl
@[simp] theorem State.modSpire_cur (s : State) (n : Nat) (f : Spire → Spire) : (s.modSpire n f).cur = s.cur := rfl
@[simp] theorem State.modSpire_iss (s : State) (n : Nat) (f : Spire → Spire) : (s.modSpire n f).iss = s.iss := rfl
@[simp] theorem State.modSpire_nbuCur (s : State) (n : Nat) (f : Spire → Spire) : (s.modSpire n f).nbuCur = s.nbuCur := rfl
@[simp] theorem State.modSpire_nbuTurn (s : State) (n : Nat) (f : Spire → Spire) : (s.modSpire n f).nbuTurn = s.nbuTurn := rfl
@[simp] theorem State.modSpire_pulse (s : State) (n : Nat) (f : Spire → Spire) : (s.modSpire n f).pulse = s.pulse := rfl
@[simp] theorem State.modSpire_inserts (s : State) (n : Nat) (f : Spire → Spire) : (s.modSpire n f).inserts = s.inserts := rfl
@[simp] theorem State.modSpire_fresh (s : State) (n : Nat) (f : Spire → Spire) : (s.modSpire n f).fresh = s.fresh := rfl
@[simp] theorem State.modSpire_free (s : State) (n : Nat) (f : Spire → Spire) : (s.modSpire n f).free = s.free := rfl

-- State.setCtx
@[simp] theorem State.setCtx_mem (s : State) (sp c : Nat) (y : Ctx) : (s.setCtx sp c y).mem = s.mem := rfl
@[simp] theorem State.setCtx_poison (s : State) (sp c : Nat) (y : Ctx) : (s.setCtx sp c y).poison = s.poison := rfl
@[simp] theorem State.setCtx_objs (s : State) (sp c : Nat) (y : Ctx) : (s.setCtx sp c y).objs = s.objs := rfl
@[simp] theorem State.setCtx_towers (s : State) (sp c : Nat) (y : Ctx) : (s.setCtx sp c y).towers = s.towers := rfl
@[simp] theorem State.setCtx_nbus (s : State) (sp c : Nat) (y : Ctx) : (s.setCtx sp c y).nbus = s.nbus := rfl
@[simp] theorem State.setCtx_aops (s : State) (sp c : Nat) (y : Ctx) : (s.setCtx sp c y).aops = s.aops := rfl
@[simp] theorem State.setCtx_closings (s : State) (sp c : Nat) (y : Ctx) : (s.setCtx sp c y).closings = s.closings := rfl
@[simp] theorem State.setCtx_pulls (s : State) (sp c : Nat) (y : Ctx) : (s.setCtx sp c y).pulls = s.pulls := rfl
@[simp] theorem State.setCtx_rows (s : State) (sp c : Nat) (y : Ctx) : (s.setCtx sp c y).rows = s.rows := rfl
@[simp] theorem State.setCtx_colls (s : State) (sp c : Nat) (y : Ctx) : (s.setCtx sp c y).colls = s.colls := rfl
@[simp] theorem State.setCtx_collIx (s : State) (sp c : Nat) (y : Ctx) : (s.setCtx sp c y).collIx = s.collIx := rfl
@[simp] theorem State.setCtx_relTabs (s : State) (sp c : Nat) (y : Ctx) : (s.setCtx sp c y).relTabs = s.relTabs := rfl
@[simp] theorem State.setCtx_relDone (s : State) (sp c : Nat) (y : Ctx) : (s.setCtx sp c y).relDone = s.relDone := rfl
@[simp] theorem State.setCtx_collIn (s : State) (sp c : Nat) (y : Ctx) : (s.setCtx sp c y).collIn = s.collIn := rfl
@[simp] theorem State.setCtx_collRel (s : State) (sp c : Nat) (y : Ctx) : (s.setCtx sp c y).collRel = s.collRel := rfl
@[simp] theorem State.setCtx_relq (s : State) (sp c : Nat) (y : Ctx) : (s.setCtx sp c y).relq = s.relq := rfl
@[simp] theorem State.setCtx_wret (s : State) (sp c : Nat) (y : Ctx) : (s.setCtx sp c y).wret = s.wret := rfl
@[simp] theorem State.setCtx_borrows (s : State) (sp c : Nat) (y : Ctx) : (s.setCtx sp c y).borrows = s.borrows := rfl
@[simp] theorem State.setCtx_fab (s : State) (sp c : Nat) (y : Ctx) : (s.setCtx sp c y).fab = s.fab := rfl
@[simp] theorem State.setCtx_cfg (s : State) (sp c : Nat) (y : Ctx) : (s.setCtx sp c y).cfg = s.cfg := rfl
@[simp] theorem State.setCtx_rowBusy (s : State) (sp c : Nat) (y : Ctx) : (s.setCtx sp c y).rowBusy = s.rowBusy := rfl
@[simp] theorem State.setCtx_access (s : State) (sp c : Nat) (y : Ctx) : (s.setCtx sp c y).access = s.access := rfl
@[simp] theorem State.setCtx_agenda (s : State) (sp c : Nat) (y : Ctx) : (s.setCtx sp c y).agenda = s.agenda := rfl
@[simp] theorem State.setCtx_cur (s : State) (sp c : Nat) (y : Ctx) : (s.setCtx sp c y).cur = s.cur := rfl
@[simp] theorem State.setCtx_iss (s : State) (sp c : Nat) (y : Ctx) : (s.setCtx sp c y).iss = s.iss := rfl
@[simp] theorem State.setCtx_nbuCur (s : State) (sp c : Nat) (y : Ctx) : (s.setCtx sp c y).nbuCur = s.nbuCur := rfl
@[simp] theorem State.setCtx_nbuTurn (s : State) (sp c : Nat) (y : Ctx) : (s.setCtx sp c y).nbuTurn = s.nbuTurn := rfl
@[simp] theorem State.setCtx_pulse (s : State) (sp c : Nat) (y : Ctx) : (s.setCtx sp c y).pulse = s.pulse := rfl
@[simp] theorem State.setCtx_inserts (s : State) (sp c : Nat) (y : Ctx) : (s.setCtx sp c y).inserts = s.inserts := rfl
@[simp] theorem State.setCtx_fresh (s : State) (sp c : Nat) (y : Ctx) : (s.setCtx sp c y).fresh = s.fresh := rfl
@[simp] theorem State.setCtx_free (s : State) (sp c : Nat) (y : Ctx) : (s.setCtx sp c y).free = s.free := rfl

-- State.modCtx
@[simp] theorem State.modCtx_mem (s : State) (sp c : Nat) (f : Ctx → Ctx) : (s.modCtx sp c f).mem = s.mem := rfl
@[simp] theorem State.modCtx_poison (s : State) (sp c : Nat) (f : Ctx → Ctx) : (s.modCtx sp c f).poison = s.poison := rfl
@[simp] theorem State.modCtx_objs (s : State) (sp c : Nat) (f : Ctx → Ctx) : (s.modCtx sp c f).objs = s.objs := rfl
@[simp] theorem State.modCtx_towers (s : State) (sp c : Nat) (f : Ctx → Ctx) : (s.modCtx sp c f).towers = s.towers := rfl
@[simp] theorem State.modCtx_nbus (s : State) (sp c : Nat) (f : Ctx → Ctx) : (s.modCtx sp c f).nbus = s.nbus := rfl
@[simp] theorem State.modCtx_aops (s : State) (sp c : Nat) (f : Ctx → Ctx) : (s.modCtx sp c f).aops = s.aops := rfl
@[simp] theorem State.modCtx_closings (s : State) (sp c : Nat) (f : Ctx → Ctx) : (s.modCtx sp c f).closings = s.closings := rfl
@[simp] theorem State.modCtx_pulls (s : State) (sp c : Nat) (f : Ctx → Ctx) : (s.modCtx sp c f).pulls = s.pulls := rfl
@[simp] theorem State.modCtx_rows (s : State) (sp c : Nat) (f : Ctx → Ctx) : (s.modCtx sp c f).rows = s.rows := rfl
@[simp] theorem State.modCtx_colls (s : State) (sp c : Nat) (f : Ctx → Ctx) : (s.modCtx sp c f).colls = s.colls := rfl
@[simp] theorem State.modCtx_collIx (s : State) (sp c : Nat) (f : Ctx → Ctx) : (s.modCtx sp c f).collIx = s.collIx := rfl
@[simp] theorem State.modCtx_relTabs (s : State) (sp c : Nat) (f : Ctx → Ctx) : (s.modCtx sp c f).relTabs = s.relTabs := rfl
@[simp] theorem State.modCtx_relDone (s : State) (sp c : Nat) (f : Ctx → Ctx) : (s.modCtx sp c f).relDone = s.relDone := rfl
@[simp] theorem State.modCtx_collIn (s : State) (sp c : Nat) (f : Ctx → Ctx) : (s.modCtx sp c f).collIn = s.collIn := rfl
@[simp] theorem State.modCtx_collRel (s : State) (sp c : Nat) (f : Ctx → Ctx) : (s.modCtx sp c f).collRel = s.collRel := rfl
@[simp] theorem State.modCtx_relq (s : State) (sp c : Nat) (f : Ctx → Ctx) : (s.modCtx sp c f).relq = s.relq := rfl
@[simp] theorem State.modCtx_wret (s : State) (sp c : Nat) (f : Ctx → Ctx) : (s.modCtx sp c f).wret = s.wret := rfl
@[simp] theorem State.modCtx_borrows (s : State) (sp c : Nat) (f : Ctx → Ctx) : (s.modCtx sp c f).borrows = s.borrows := rfl
@[simp] theorem State.modCtx_fab (s : State) (sp c : Nat) (f : Ctx → Ctx) : (s.modCtx sp c f).fab = s.fab := rfl
@[simp] theorem State.modCtx_cfg (s : State) (sp c : Nat) (f : Ctx → Ctx) : (s.modCtx sp c f).cfg = s.cfg := rfl
@[simp] theorem State.modCtx_rowBusy (s : State) (sp c : Nat) (f : Ctx → Ctx) : (s.modCtx sp c f).rowBusy = s.rowBusy := rfl
@[simp] theorem State.modCtx_access (s : State) (sp c : Nat) (f : Ctx → Ctx) : (s.modCtx sp c f).access = s.access := rfl
@[simp] theorem State.modCtx_agenda (s : State) (sp c : Nat) (f : Ctx → Ctx) : (s.modCtx sp c f).agenda = s.agenda := rfl
@[simp] theorem State.modCtx_cur (s : State) (sp c : Nat) (f : Ctx → Ctx) : (s.modCtx sp c f).cur = s.cur := rfl
@[simp] theorem State.modCtx_iss (s : State) (sp c : Nat) (f : Ctx → Ctx) : (s.modCtx sp c f).iss = s.iss := rfl
@[simp] theorem State.modCtx_nbuCur (s : State) (sp c : Nat) (f : Ctx → Ctx) : (s.modCtx sp c f).nbuCur = s.nbuCur := rfl
@[simp] theorem State.modCtx_nbuTurn (s : State) (sp c : Nat) (f : Ctx → Ctx) : (s.modCtx sp c f).nbuTurn = s.nbuTurn := rfl
@[simp] theorem State.modCtx_pulse (s : State) (sp c : Nat) (f : Ctx → Ctx) : (s.modCtx sp c f).pulse = s.pulse := rfl
@[simp] theorem State.modCtx_inserts (s : State) (sp c : Nat) (f : Ctx → Ctx) : (s.modCtx sp c f).inserts = s.inserts := rfl
@[simp] theorem State.modCtx_fresh (s : State) (sp c : Nat) (f : Ctx → Ctx) : (s.modCtx sp c f).fresh = s.fresh := rfl
@[simp] theorem State.modCtx_free (s : State) (sp c : Nat) (f : Ctx → Ctx) : (s.modCtx sp c f).free = s.free := rfl

-- State.setCx
@[simp] theorem State.setCx_mem (s : State) (y : Ctx) : (s.setCx y).mem = s.mem := rfl
@[simp] theorem State.setCx_poison (s : State) (y : Ctx) : (s.setCx y).poison = s.poison := rfl
@[simp] theorem State.setCx_objs (s : State) (y : Ctx) : (s.setCx y).objs = s.objs := rfl
@[simp] theorem State.setCx_towers (s : State) (y : Ctx) : (s.setCx y).towers = s.towers := rfl
@[simp] theorem State.setCx_nbus (s : State) (y : Ctx) : (s.setCx y).nbus = s.nbus := rfl
@[simp] theorem State.setCx_aops (s : State) (y : Ctx) : (s.setCx y).aops = s.aops := rfl
@[simp] theorem State.setCx_closings (s : State) (y : Ctx) : (s.setCx y).closings = s.closings := rfl
@[simp] theorem State.setCx_pulls (s : State) (y : Ctx) : (s.setCx y).pulls = s.pulls := rfl
@[simp] theorem State.setCx_rows (s : State) (y : Ctx) : (s.setCx y).rows = s.rows := rfl
@[simp] theorem State.setCx_colls (s : State) (y : Ctx) : (s.setCx y).colls = s.colls := rfl
@[simp] theorem State.setCx_collIx (s : State) (y : Ctx) : (s.setCx y).collIx = s.collIx := rfl
@[simp] theorem State.setCx_relTabs (s : State) (y : Ctx) : (s.setCx y).relTabs = s.relTabs := rfl
@[simp] theorem State.setCx_relDone (s : State) (y : Ctx) : (s.setCx y).relDone = s.relDone := rfl
@[simp] theorem State.setCx_collIn (s : State) (y : Ctx) : (s.setCx y).collIn = s.collIn := rfl
@[simp] theorem State.setCx_collRel (s : State) (y : Ctx) : (s.setCx y).collRel = s.collRel := rfl
@[simp] theorem State.setCx_relq (s : State) (y : Ctx) : (s.setCx y).relq = s.relq := rfl
@[simp] theorem State.setCx_wret (s : State) (y : Ctx) : (s.setCx y).wret = s.wret := rfl
@[simp] theorem State.setCx_borrows (s : State) (y : Ctx) : (s.setCx y).borrows = s.borrows := rfl
@[simp] theorem State.setCx_fab (s : State) (y : Ctx) : (s.setCx y).fab = s.fab := rfl
@[simp] theorem State.setCx_cfg (s : State) (y : Ctx) : (s.setCx y).cfg = s.cfg := rfl
@[simp] theorem State.setCx_rowBusy (s : State) (y : Ctx) : (s.setCx y).rowBusy = s.rowBusy := rfl
@[simp] theorem State.setCx_access (s : State) (y : Ctx) : (s.setCx y).access = s.access := rfl
@[simp] theorem State.setCx_agenda (s : State) (y : Ctx) : (s.setCx y).agenda = s.agenda := rfl
@[simp] theorem State.setCx_cur (s : State) (y : Ctx) : (s.setCx y).cur = s.cur := rfl
@[simp] theorem State.setCx_iss (s : State) (y : Ctx) : (s.setCx y).iss = s.iss := rfl
@[simp] theorem State.setCx_nbuCur (s : State) (y : Ctx) : (s.setCx y).nbuCur = s.nbuCur := rfl
@[simp] theorem State.setCx_nbuTurn (s : State) (y : Ctx) : (s.setCx y).nbuTurn = s.nbuTurn := rfl
@[simp] theorem State.setCx_pulse (s : State) (y : Ctx) : (s.setCx y).pulse = s.pulse := rfl
@[simp] theorem State.setCx_inserts (s : State) (y : Ctx) : (s.setCx y).inserts = s.inserts := rfl
@[simp] theorem State.setCx_fresh (s : State) (y : Ctx) : (s.setCx y).fresh = s.fresh := rfl
@[simp] theorem State.setCx_free (s : State) (y : Ctx) : (s.setCx y).free = s.free := rfl

-- State.modCx
@[simp] theorem State.modCx_mem (s : State) (f : Ctx → Ctx) : (s.modCx f).mem = s.mem := rfl
@[simp] theorem State.modCx_poison (s : State) (f : Ctx → Ctx) : (s.modCx f).poison = s.poison := rfl
@[simp] theorem State.modCx_objs (s : State) (f : Ctx → Ctx) : (s.modCx f).objs = s.objs := rfl
@[simp] theorem State.modCx_towers (s : State) (f : Ctx → Ctx) : (s.modCx f).towers = s.towers := rfl
@[simp] theorem State.modCx_nbus (s : State) (f : Ctx → Ctx) : (s.modCx f).nbus = s.nbus := rfl
@[simp] theorem State.modCx_aops (s : State) (f : Ctx → Ctx) : (s.modCx f).aops = s.aops := rfl
@[simp] theorem State.modCx_closings (s : State) (f : Ctx → Ctx) : (s.modCx f).closings = s.closings := rfl
@[simp] theorem State.modCx_pulls (s : State) (f : Ctx → Ctx) : (s.modCx f).pulls = s.pulls := rfl
@[simp] theorem State.modCx_rows (s : State) (f : Ctx → Ctx) : (s.modCx f).rows = s.rows := rfl
@[simp] theorem State.modCx_colls (s : State) (f : Ctx → Ctx) : (s.modCx f).colls = s.colls := rfl
@[simp] theorem State.modCx_collIx (s : State) (f : Ctx → Ctx) : (s.modCx f).collIx = s.collIx := rfl
@[simp] theorem State.modCx_relTabs (s : State) (f : Ctx → Ctx) : (s.modCx f).relTabs = s.relTabs := rfl
@[simp] theorem State.modCx_relDone (s : State) (f : Ctx → Ctx) : (s.modCx f).relDone = s.relDone := rfl
@[simp] theorem State.modCx_collIn (s : State) (f : Ctx → Ctx) : (s.modCx f).collIn = s.collIn := rfl
@[simp] theorem State.modCx_collRel (s : State) (f : Ctx → Ctx) : (s.modCx f).collRel = s.collRel := rfl
@[simp] theorem State.modCx_relq (s : State) (f : Ctx → Ctx) : (s.modCx f).relq = s.relq := rfl
@[simp] theorem State.modCx_wret (s : State) (f : Ctx → Ctx) : (s.modCx f).wret = s.wret := rfl
@[simp] theorem State.modCx_borrows (s : State) (f : Ctx → Ctx) : (s.modCx f).borrows = s.borrows := rfl
@[simp] theorem State.modCx_fab (s : State) (f : Ctx → Ctx) : (s.modCx f).fab = s.fab := rfl
@[simp] theorem State.modCx_cfg (s : State) (f : Ctx → Ctx) : (s.modCx f).cfg = s.cfg := rfl
@[simp] theorem State.modCx_rowBusy (s : State) (f : Ctx → Ctx) : (s.modCx f).rowBusy = s.rowBusy := rfl
@[simp] theorem State.modCx_access (s : State) (f : Ctx → Ctx) : (s.modCx f).access = s.access := rfl
@[simp] theorem State.modCx_agenda (s : State) (f : Ctx → Ctx) : (s.modCx f).agenda = s.agenda := rfl
@[simp] theorem State.modCx_cur (s : State) (f : Ctx → Ctx) : (s.modCx f).cur = s.cur := rfl
@[simp] theorem State.modCx_iss (s : State) (f : Ctx → Ctx) : (s.modCx f).iss = s.iss := rfl
@[simp] theorem State.modCx_nbuCur (s : State) (f : Ctx → Ctx) : (s.modCx f).nbuCur = s.nbuCur := rfl
@[simp] theorem State.modCx_nbuTurn (s : State) (f : Ctx → Ctx) : (s.modCx f).nbuTurn = s.nbuTurn := rfl
@[simp] theorem State.modCx_pulse (s : State) (f : Ctx → Ctx) : (s.modCx f).pulse = s.pulse := rfl
@[simp] theorem State.modCx_inserts (s : State) (f : Ctx → Ctx) : (s.modCx f).inserts = s.inserts := rfl
@[simp] theorem State.modCx_fresh (s : State) (f : Ctx → Ctx) : (s.modCx f).fresh = s.fresh := rfl
@[simp] theorem State.modCx_free (s : State) (f : Ctx → Ctx) : (s.modCx f).free = s.free := rfl

-- State.setTower
@[simp] theorem State.setTower_mem (s : State) (t : Nat) (x : Tower) : (s.setTower t x).mem = s.mem := rfl
@[simp] theorem State.setTower_poison (s : State) (t : Nat) (x : Tower) : (s.setTower t x).poison = s.poison := rfl
@[simp] theorem State.setTower_objs (s : State) (t : Nat) (x : Tower) : (s.setTower t x).objs = s.objs := rfl
@[simp] theorem State.setTower_spires (s : State) (t : Nat) (x : Tower) : (s.setTower t x).spires = s.spires := rfl
@[simp] theorem State.setTower_nbus (s : State) (t : Nat) (x : Tower) : (s.setTower t x).nbus = s.nbus := rfl
@[simp] theorem State.setTower_aops (s : State) (t : Nat) (x : Tower) : (s.setTower t x).aops = s.aops := rfl
@[simp] theorem State.setTower_closings (s : State) (t : Nat) (x : Tower) : (s.setTower t x).closings = s.closings := rfl
@[simp] theorem State.setTower_pulls (s : State) (t : Nat) (x : Tower) : (s.setTower t x).pulls = s.pulls := rfl
@[simp] theorem State.setTower_rows (s : State) (t : Nat) (x : Tower) : (s.setTower t x).rows = s.rows := rfl
@[simp] theorem State.setTower_colls (s : State) (t : Nat) (x : Tower) : (s.setTower t x).colls = s.colls := rfl
@[simp] theorem State.setTower_collIx (s : State) (t : Nat) (x : Tower) : (s.setTower t x).collIx = s.collIx := rfl
@[simp] theorem State.setTower_relTabs (s : State) (t : Nat) (x : Tower) : (s.setTower t x).relTabs = s.relTabs := rfl
@[simp] theorem State.setTower_relDone (s : State) (t : Nat) (x : Tower) : (s.setTower t x).relDone = s.relDone := rfl
@[simp] theorem State.setTower_collIn (s : State) (t : Nat) (x : Tower) : (s.setTower t x).collIn = s.collIn := rfl
@[simp] theorem State.setTower_collRel (s : State) (t : Nat) (x : Tower) : (s.setTower t x).collRel = s.collRel := rfl
@[simp] theorem State.setTower_relq (s : State) (t : Nat) (x : Tower) : (s.setTower t x).relq = s.relq := rfl
@[simp] theorem State.setTower_wret (s : State) (t : Nat) (x : Tower) : (s.setTower t x).wret = s.wret := rfl
@[simp] theorem State.setTower_borrows (s : State) (t : Nat) (x : Tower) : (s.setTower t x).borrows = s.borrows := rfl
@[simp] theorem State.setTower_fab (s : State) (t : Nat) (x : Tower) : (s.setTower t x).fab = s.fab := rfl
@[simp] theorem State.setTower_cfg (s : State) (t : Nat) (x : Tower) : (s.setTower t x).cfg = s.cfg := rfl
@[simp] theorem State.setTower_rowBusy (s : State) (t : Nat) (x : Tower) : (s.setTower t x).rowBusy = s.rowBusy := rfl
@[simp] theorem State.setTower_access (s : State) (t : Nat) (x : Tower) : (s.setTower t x).access = s.access := rfl
@[simp] theorem State.setTower_agenda (s : State) (t : Nat) (x : Tower) : (s.setTower t x).agenda = s.agenda := rfl
@[simp] theorem State.setTower_cur (s : State) (t : Nat) (x : Tower) : (s.setTower t x).cur = s.cur := rfl
@[simp] theorem State.setTower_iss (s : State) (t : Nat) (x : Tower) : (s.setTower t x).iss = s.iss := rfl
@[simp] theorem State.setTower_nbuCur (s : State) (t : Nat) (x : Tower) : (s.setTower t x).nbuCur = s.nbuCur := rfl
@[simp] theorem State.setTower_nbuTurn (s : State) (t : Nat) (x : Tower) : (s.setTower t x).nbuTurn = s.nbuTurn := rfl
@[simp] theorem State.setTower_pulse (s : State) (t : Nat) (x : Tower) : (s.setTower t x).pulse = s.pulse := rfl
@[simp] theorem State.setTower_inserts (s : State) (t : Nat) (x : Tower) : (s.setTower t x).inserts = s.inserts := rfl
@[simp] theorem State.setTower_fresh (s : State) (t : Nat) (x : Tower) : (s.setTower t x).fresh = s.fresh := rfl
@[simp] theorem State.setTower_free (s : State) (t : Nat) (x : Tower) : (s.setTower t x).free = s.free := rfl

-- State.modTower
@[simp] theorem State.modTower_mem (s : State) (t : Nat) (f : Tower → Tower) : (s.modTower t f).mem = s.mem := rfl
@[simp] theorem State.modTower_poison (s : State) (t : Nat) (f : Tower → Tower) : (s.modTower t f).poison = s.poison := rfl
@[simp] theorem State.modTower_objs (s : State) (t : Nat) (f : Tower → Tower) : (s.modTower t f).objs = s.objs := rfl
@[simp] theorem State.modTower_spires (s : State) (t : Nat) (f : Tower → Tower) : (s.modTower t f).spires = s.spires := rfl
@[simp] theorem State.modTower_nbus (s : State) (t : Nat) (f : Tower → Tower) : (s.modTower t f).nbus = s.nbus := rfl
@[simp] theorem State.modTower_aops (s : State) (t : Nat) (f : Tower → Tower) : (s.modTower t f).aops = s.aops := rfl
@[simp] theorem State.modTower_closings (s : State) (t : Nat) (f : Tower → Tower) : (s.modTower t f).closings = s.closings := rfl
@[simp] theorem State.modTower_pulls (s : State) (t : Nat) (f : Tower → Tower) : (s.modTower t f).pulls = s.pulls := rfl
@[simp] theorem State.modTower_rows (s : State) (t : Nat) (f : Tower → Tower) : (s.modTower t f).rows = s.rows := rfl
@[simp] theorem State.modTower_colls (s : State) (t : Nat) (f : Tower → Tower) : (s.modTower t f).colls = s.colls := rfl
@[simp] theorem State.modTower_collIx (s : State) (t : Nat) (f : Tower → Tower) : (s.modTower t f).collIx = s.collIx := rfl
@[simp] theorem State.modTower_relTabs (s : State) (t : Nat) (f : Tower → Tower) : (s.modTower t f).relTabs = s.relTabs := rfl
@[simp] theorem State.modTower_relDone (s : State) (t : Nat) (f : Tower → Tower) : (s.modTower t f).relDone = s.relDone := rfl
@[simp] theorem State.modTower_collIn (s : State) (t : Nat) (f : Tower → Tower) : (s.modTower t f).collIn = s.collIn := rfl
@[simp] theorem State.modTower_collRel (s : State) (t : Nat) (f : Tower → Tower) : (s.modTower t f).collRel = s.collRel := rfl
@[simp] theorem State.modTower_relq (s : State) (t : Nat) (f : Tower → Tower) : (s.modTower t f).relq = s.relq := rfl
@[simp] theorem State.modTower_wret (s : State) (t : Nat) (f : Tower → Tower) : (s.modTower t f).wret = s.wret := rfl
@[simp] theorem State.modTower_borrows (s : State) (t : Nat) (f : Tower → Tower) : (s.modTower t f).borrows = s.borrows := rfl
@[simp] theorem State.modTower_fab (s : State) (t : Nat) (f : Tower → Tower) : (s.modTower t f).fab = s.fab := rfl
@[simp] theorem State.modTower_cfg (s : State) (t : Nat) (f : Tower → Tower) : (s.modTower t f).cfg = s.cfg := rfl
@[simp] theorem State.modTower_rowBusy (s : State) (t : Nat) (f : Tower → Tower) : (s.modTower t f).rowBusy = s.rowBusy := rfl
@[simp] theorem State.modTower_access (s : State) (t : Nat) (f : Tower → Tower) : (s.modTower t f).access = s.access := rfl
@[simp] theorem State.modTower_agenda (s : State) (t : Nat) (f : Tower → Tower) : (s.modTower t f).agenda = s.agenda := rfl
@[simp] theorem State.modTower_cur (s : State) (t : Nat) (f : Tower → Tower) : (s.modTower t f).cur = s.cur := rfl
@[simp] theorem State.modTower_iss (s : State) (t : Nat) (f : Tower → Tower) : (s.modTower t f).iss = s.iss := rfl
@[simp] theorem State.modTower_nbuCur (s : State) (t : Nat) (f : Tower → Tower) : (s.modTower t f).nbuCur = s.nbuCur := rfl
@[simp] theorem State.modTower_nbuTurn (s : State) (t : Nat) (f : Tower → Tower) : (s.modTower t f).nbuTurn = s.nbuTurn := rfl
@[simp] theorem State.modTower_pulse (s : State) (t : Nat) (f : Tower → Tower) : (s.modTower t f).pulse = s.pulse := rfl
@[simp] theorem State.modTower_inserts (s : State) (t : Nat) (f : Tower → Tower) : (s.modTower t f).inserts = s.inserts := rfl
@[simp] theorem State.modTower_fresh (s : State) (t : Nat) (f : Tower → Tower) : (s.modTower t f).fresh = s.fresh := rfl
@[simp] theorem State.modTower_free (s : State) (t : Nat) (f : Tower → Tower) : (s.modTower t f).free = s.free := rfl

-- State.modHru
@[simp] theorem State.modHru_mem (s : State) (t : Nat) (f : Hru → Hru) : (s.modHru t f).mem = s.mem := rfl
@[simp] theorem State.modHru_poison (s : State) (t : Nat) (f : Hru → Hru) : (s.modHru t f).poison = s.poison := rfl
@[simp] theorem State.modHru_objs (s : State) (t : Nat) (f : Hru → Hru) : (s.modHru t f).objs = s.objs := rfl
@[simp] theorem State.modHru_spires (s : State) (t : Nat) (f : Hru → Hru) : (s.modHru t f).spires = s.spires := rfl
@[simp] theorem State.modHru_nbus (s : State) (t : Nat) (f : Hru → Hru) : (s.modHru t f).nbus = s.nbus := rfl
@[simp] theorem State.modHru_aops (s : State) (t : Nat) (f : Hru → Hru) : (s.modHru t f).aops = s.aops := rfl
@[simp] theorem State.modHru_closings (s : State) (t : Nat) (f : Hru → Hru) : (s.modHru t f).closings = s.closings := rfl
@[simp] theorem State.modHru_pulls (s : State) (t : Nat) (f : Hru → Hru) : (s.modHru t f).pulls = s.pulls := rfl
@[simp] theorem State.modHru_rows (s : State) (t : Nat) (f : Hru → Hru) : (s.modHru t f).rows = s.rows := rfl
@[simp] theorem State.modHru_colls (s : State) (t : Nat) (f : Hru → Hru) : (s.modHru t f).colls = s.colls := rfl
@[simp] theorem State.modHru_collIx (s : State) (t : Nat) (f : Hru → Hru) : (s.modHru t f).collIx = s.collIx := rfl
@[simp] theorem State.modHru_relTabs (s : State) (t : Nat) (f : Hru → Hru) : (s.modHru t f).relTabs = s.relTabs := rfl
@[simp] theorem State.modHru_relDone (s : State) (t : Nat) (f : Hru → Hru) : (s.modHru t f).relDone = s.relDone := rfl
@[simp] theorem State.modHru_collIn (s : State) (t : Nat) (f : Hru → Hru) : (s.modHru t f).collIn = s.collIn := rfl
@[simp] theorem State.modHru_collRel (s : State) (t : Nat) (f : Hru → Hru) : (s.modHru t f).collRel = s.collRel := rfl
@[simp] theorem State.modHru_relq (s : State) (t : Nat) (f : Hru → Hru) : (s.modHru t f).relq = s.relq := rfl
@[simp] theorem State.modHru_wret (s : State) (t : Nat) (f : Hru → Hru) : (s.modHru t f).wret = s.wret := rfl
@[simp] theorem State.modHru_borrows (s : State) (t : Nat) (f : Hru → Hru) : (s.modHru t f).borrows = s.borrows := rfl
@[simp] theorem State.modHru_fab (s : State) (t : Nat) (f : Hru → Hru) : (s.modHru t f).fab = s.fab := rfl
@[simp] theorem State.modHru_cfg (s : State) (t : Nat) (f : Hru → Hru) : (s.modHru t f).cfg = s.cfg := rfl
@[simp] theorem State.modHru_rowBusy (s : State) (t : Nat) (f : Hru → Hru) : (s.modHru t f).rowBusy = s.rowBusy := rfl
@[simp] theorem State.modHru_access (s : State) (t : Nat) (f : Hru → Hru) : (s.modHru t f).access = s.access := rfl
@[simp] theorem State.modHru_agenda (s : State) (t : Nat) (f : Hru → Hru) : (s.modHru t f).agenda = s.agenda := rfl
@[simp] theorem State.modHru_cur (s : State) (t : Nat) (f : Hru → Hru) : (s.modHru t f).cur = s.cur := rfl
@[simp] theorem State.modHru_iss (s : State) (t : Nat) (f : Hru → Hru) : (s.modHru t f).iss = s.iss := rfl
@[simp] theorem State.modHru_nbuCur (s : State) (t : Nat) (f : Hru → Hru) : (s.modHru t f).nbuCur = s.nbuCur := rfl
@[simp] theorem State.modHru_nbuTurn (s : State) (t : Nat) (f : Hru → Hru) : (s.modHru t f).nbuTurn = s.nbuTurn := rfl
@[simp] theorem State.modHru_pulse (s : State) (t : Nat) (f : Hru → Hru) : (s.modHru t f).pulse = s.pulse := rfl
@[simp] theorem State.modHru_inserts (s : State) (t : Nat) (f : Hru → Hru) : (s.modHru t f).inserts = s.inserts := rfl
@[simp] theorem State.modHru_fresh (s : State) (t : Nat) (f : Hru → Hru) : (s.modHru t f).fresh = s.fresh := rfl
@[simp] theorem State.modHru_free (s : State) (t : Nat) (f : Hru → Hru) : (s.modHru t f).free = s.free := rfl

-- State.modArb
@[simp] theorem State.modArb_mem (s : State) (t : Nat) (f : Arbiter → Arbiter) : (s.modArb t f).mem = s.mem := rfl
@[simp] theorem State.modArb_poison (s : State) (t : Nat) (f : Arbiter → Arbiter) : (s.modArb t f).poison = s.poison := rfl
@[simp] theorem State.modArb_objs (s : State) (t : Nat) (f : Arbiter → Arbiter) : (s.modArb t f).objs = s.objs := rfl
@[simp] theorem State.modArb_spires (s : State) (t : Nat) (f : Arbiter → Arbiter) : (s.modArb t f).spires = s.spires := rfl
@[simp] theorem State.modArb_nbus (s : State) (t : Nat) (f : Arbiter → Arbiter) : (s.modArb t f).nbus = s.nbus := rfl
@[simp] theorem State.modArb_aops (s : State) (t : Nat) (f : Arbiter → Arbiter) : (s.modArb t f).aops = s.aops := rfl
@[simp] theorem State.modArb_closings (s : State) (t : Nat) (f : Arbiter → Arbiter) : (s.modArb t f).closings = s.closings := rfl
@[simp] theorem State.modArb_pulls (s : State) (t : Nat) (f : Arbiter → Arbiter) : (s.modArb t f).pulls = s.pulls := rfl
@[simp] theorem State.modArb_rows (s : State) (t : Nat) (f : Arbiter → Arbiter) : (s.modArb t f).rows = s.rows := rfl
@[simp] theorem State.modArb_colls (s : State) (t : Nat) (f : Arbiter → Arbiter) : (s.modArb t f).colls = s.colls := rfl
@[simp] theorem State.modArb_collIx (s : State) (t : Nat) (f : Arbiter → Arbiter) : (s.modArb t f).collIx = s.collIx := rfl
@[simp] theorem State.modArb_relTabs (s : State) (t : Nat) (f : Arbiter → Arbiter) : (s.modArb t f).relTabs = s.relTabs := rfl
@[simp] theorem State.modArb_relDone (s : State) (t : Nat) (f : Arbiter → Arbiter) : (s.modArb t f).relDone = s.relDone := rfl
@[simp] theorem State.modArb_collIn (s : State) (t : Nat) (f : Arbiter → Arbiter) : (s.modArb t f).collIn = s.collIn := rfl
@[simp] theorem State.modArb_collRel (s : State) (t : Nat) (f : Arbiter → Arbiter) : (s.modArb t f).collRel = s.collRel := rfl
@[simp] theorem State.modArb_relq (s : State) (t : Nat) (f : Arbiter → Arbiter) : (s.modArb t f).relq = s.relq := rfl
@[simp] theorem State.modArb_wret (s : State) (t : Nat) (f : Arbiter → Arbiter) : (s.modArb t f).wret = s.wret := rfl
@[simp] theorem State.modArb_borrows (s : State) (t : Nat) (f : Arbiter → Arbiter) : (s.modArb t f).borrows = s.borrows := rfl
@[simp] theorem State.modArb_fab (s : State) (t : Nat) (f : Arbiter → Arbiter) : (s.modArb t f).fab = s.fab := rfl
@[simp] theorem State.modArb_cfg (s : State) (t : Nat) (f : Arbiter → Arbiter) : (s.modArb t f).cfg = s.cfg := rfl
@[simp] theorem State.modArb_rowBusy (s : State) (t : Nat) (f : Arbiter → Arbiter) : (s.modArb t f).rowBusy = s.rowBusy := rfl
@[simp] theorem State.modArb_access (s : State) (t : Nat) (f : Arbiter → Arbiter) : (s.modArb t f).access = s.access := rfl
@[simp] theorem State.modArb_agenda (s : State) (t : Nat) (f : Arbiter → Arbiter) : (s.modArb t f).agenda = s.agenda := rfl
@[simp] theorem State.modArb_cur (s : State) (t : Nat) (f : Arbiter → Arbiter) : (s.modArb t f).cur = s.cur := rfl
@[simp] theorem State.modArb_iss (s : State) (t : Nat) (f : Arbiter → Arbiter) : (s.modArb t f).iss = s.iss := rfl
@[simp] theorem State.modArb_nbuCur (s : State) (t : Nat) (f : Arbiter → Arbiter) : (s.modArb t f).nbuCur = s.nbuCur := rfl
@[simp] theorem State.modArb_nbuTurn (s : State) (t : Nat) (f : Arbiter → Arbiter) : (s.modArb t f).nbuTurn = s.nbuTurn := rfl
@[simp] theorem State.modArb_pulse (s : State) (t : Nat) (f : Arbiter → Arbiter) : (s.modArb t f).pulse = s.pulse := rfl
@[simp] theorem State.modArb_inserts (s : State) (t : Nat) (f : Arbiter → Arbiter) : (s.modArb t f).inserts = s.inserts := rfl
@[simp] theorem State.modArb_fresh (s : State) (t : Nat) (f : Arbiter → Arbiter) : (s.modArb t f).fresh = s.fresh := rfl
@[simp] theorem State.modArb_free (s : State) (t : Nat) (f : Arbiter → Arbiter) : (s.modArb t f).free = s.free := rfl

-- State.setNbu
@[simp] theorem State.setNbu_mem (s : State) (n : Nat) (x : Nbu) : (s.setNbu n x).mem = s.mem := rfl
@[simp] theorem State.setNbu_poison (s : State) (n : Nat) (x : Nbu) : (s.setNbu n x).poison = s.poison := rfl
@[simp] theorem State.setNbu_objs (s : State) (n : Nat) (x : Nbu) : (s.setNbu n x).objs = s.objs := rfl
@[simp] theorem State.setNbu_spires (s : State) (n : Nat) (x : Nbu) : (s.setNbu n x).spires = s.spires := rfl
@[simp] theorem State.setNbu_towers (s : State) (n : Nat) (x : Nbu) : (s.setNbu n x).towers = s.towers := rfl
@[simp] theorem State.setNbu_aops (s : State) (n : Nat) (x : Nbu) : (s.setNbu n x).aops = s.aops := rfl
@[simp] theorem State.setNbu_closings (s : State) (n : Nat) (x : Nbu) : (s.setNbu n x).closings = s.closings := rfl
@[simp] theorem State.setNbu_pulls (s : State) (n : Nat) (x : Nbu) : (s.setNbu n x).pulls = s.pulls := rfl
@[simp] theorem State.setNbu_rows (s : State) (n : Nat) (x : Nbu) : (s.setNbu n x).rows = s.rows := rfl
@[simp] theorem State.setNbu_colls (s : State) (n : Nat) (x : Nbu) : (s.setNbu n x).colls = s.colls := rfl
@[simp] theorem State.setNbu_collIx (s : State) (n : Nat) (x : Nbu) : (s.setNbu n x).collIx = s.collIx := rfl
@[simp] theorem State.setNbu_relTabs (s : State) (n : Nat) (x : Nbu) : (s.setNbu n x).relTabs = s.relTabs := rfl
@[simp] theorem State.setNbu_relDone (s : State) (n : Nat) (x : Nbu) : (s.setNbu n x).relDone = s.relDone := rfl
@[simp] theorem State.setNbu_collIn (s : State) (n : Nat) (x : Nbu) : (s.setNbu n x).collIn = s.collIn := rfl
@[simp] theorem State.setNbu_collRel (s : State) (n : Nat) (x : Nbu) : (s.setNbu n x).collRel = s.collRel := rfl
@[simp] theorem State.setNbu_relq (s : State) (n : Nat) (x : Nbu) : (s.setNbu n x).relq = s.relq := rfl
@[simp] theorem State.setNbu_wret (s : State) (n : Nat) (x : Nbu) : (s.setNbu n x).wret = s.wret := rfl
@[simp] theorem State.setNbu_borrows (s : State) (n : Nat) (x : Nbu) : (s.setNbu n x).borrows = s.borrows := rfl
@[simp] theorem State.setNbu_fab (s : State) (n : Nat) (x : Nbu) : (s.setNbu n x).fab = s.fab := rfl
@[simp] theorem State.setNbu_cfg (s : State) (n : Nat) (x : Nbu) : (s.setNbu n x).cfg = s.cfg := rfl
@[simp] theorem State.setNbu_rowBusy (s : State) (n : Nat) (x : Nbu) : (s.setNbu n x).rowBusy = s.rowBusy := rfl
@[simp] theorem State.setNbu_access (s : State) (n : Nat) (x : Nbu) : (s.setNbu n x).access = s.access := rfl
@[simp] theorem State.setNbu_agenda (s : State) (n : Nat) (x : Nbu) : (s.setNbu n x).agenda = s.agenda := rfl
@[simp] theorem State.setNbu_cur (s : State) (n : Nat) (x : Nbu) : (s.setNbu n x).cur = s.cur := rfl
@[simp] theorem State.setNbu_iss (s : State) (n : Nat) (x : Nbu) : (s.setNbu n x).iss = s.iss := rfl
@[simp] theorem State.setNbu_nbuCur (s : State) (n : Nat) (x : Nbu) : (s.setNbu n x).nbuCur = s.nbuCur := rfl
@[simp] theorem State.setNbu_nbuTurn (s : State) (n : Nat) (x : Nbu) : (s.setNbu n x).nbuTurn = s.nbuTurn := rfl
@[simp] theorem State.setNbu_pulse (s : State) (n : Nat) (x : Nbu) : (s.setNbu n x).pulse = s.pulse := rfl
@[simp] theorem State.setNbu_inserts (s : State) (n : Nat) (x : Nbu) : (s.setNbu n x).inserts = s.inserts := rfl
@[simp] theorem State.setNbu_fresh (s : State) (n : Nat) (x : Nbu) : (s.setNbu n x).fresh = s.fresh := rfl
@[simp] theorem State.setNbu_free (s : State) (n : Nat) (x : Nbu) : (s.setNbu n x).free = s.free := rfl

-- State.setObj
@[simp] theorem State.setObj_mem (s : State) (n : Nat) (x : Obj) : (s.setObj n x).mem = s.mem := rfl
@[simp] theorem State.setObj_poison (s : State) (n : Nat) (x : Obj) : (s.setObj n x).poison = s.poison := rfl
@[simp] theorem State.setObj_spires (s : State) (n : Nat) (x : Obj) : (s.setObj n x).spires = s.spires := rfl
@[simp] theorem State.setObj_towers (s : State) (n : Nat) (x : Obj) : (s.setObj n x).towers = s.towers := rfl
@[simp] theorem State.setObj_nbus (s : State) (n : Nat) (x : Obj) : (s.setObj n x).nbus = s.nbus := rfl
@[simp] theorem State.setObj_aops (s : State) (n : Nat) (x : Obj) : (s.setObj n x).aops = s.aops := rfl
@[simp] theorem State.setObj_closings (s : State) (n : Nat) (x : Obj) : (s.setObj n x).closings = s.closings := rfl
@[simp] theorem State.setObj_pulls (s : State) (n : Nat) (x : Obj) : (s.setObj n x).pulls = s.pulls := rfl
@[simp] theorem State.setObj_rows (s : State) (n : Nat) (x : Obj) : (s.setObj n x).rows = s.rows := rfl
@[simp] theorem State.setObj_colls (s : State) (n : Nat) (x : Obj) : (s.setObj n x).colls = s.colls := rfl
@[simp] theorem State.setObj_collIx (s : State) (n : Nat) (x : Obj) : (s.setObj n x).collIx = s.collIx := rfl
@[simp] theorem State.setObj_relTabs (s : State) (n : Nat) (x : Obj) : (s.setObj n x).relTabs = s.relTabs := rfl
@[simp] theorem State.setObj_relDone (s : State) (n : Nat) (x : Obj) : (s.setObj n x).relDone = s.relDone := rfl
@[simp] theorem State.setObj_collIn (s : State) (n : Nat) (x : Obj) : (s.setObj n x).collIn = s.collIn := rfl
@[simp] theorem State.setObj_collRel (s : State) (n : Nat) (x : Obj) : (s.setObj n x).collRel = s.collRel := rfl
@[simp] theorem State.setObj_relq (s : State) (n : Nat) (x : Obj) : (s.setObj n x).relq = s.relq := rfl
@[simp] theorem State.setObj_wret (s : State) (n : Nat) (x : Obj) : (s.setObj n x).wret = s.wret := rfl
@[simp] theorem State.setObj_borrows (s : State) (n : Nat) (x : Obj) : (s.setObj n x).borrows = s.borrows := rfl
@[simp] theorem State.setObj_fab (s : State) (n : Nat) (x : Obj) : (s.setObj n x).fab = s.fab := rfl
@[simp] theorem State.setObj_cfg (s : State) (n : Nat) (x : Obj) : (s.setObj n x).cfg = s.cfg := rfl
@[simp] theorem State.setObj_rowBusy (s : State) (n : Nat) (x : Obj) : (s.setObj n x).rowBusy = s.rowBusy := rfl
@[simp] theorem State.setObj_access (s : State) (n : Nat) (x : Obj) : (s.setObj n x).access = s.access := rfl
@[simp] theorem State.setObj_agenda (s : State) (n : Nat) (x : Obj) : (s.setObj n x).agenda = s.agenda := rfl
@[simp] theorem State.setObj_cur (s : State) (n : Nat) (x : Obj) : (s.setObj n x).cur = s.cur := rfl
@[simp] theorem State.setObj_iss (s : State) (n : Nat) (x : Obj) : (s.setObj n x).iss = s.iss := rfl
@[simp] theorem State.setObj_nbuCur (s : State) (n : Nat) (x : Obj) : (s.setObj n x).nbuCur = s.nbuCur := rfl
@[simp] theorem State.setObj_nbuTurn (s : State) (n : Nat) (x : Obj) : (s.setObj n x).nbuTurn = s.nbuTurn := rfl
@[simp] theorem State.setObj_pulse (s : State) (n : Nat) (x : Obj) : (s.setObj n x).pulse = s.pulse := rfl
@[simp] theorem State.setObj_inserts (s : State) (n : Nat) (x : Obj) : (s.setObj n x).inserts = s.inserts := rfl
@[simp] theorem State.setObj_fresh (s : State) (n : Nat) (x : Obj) : (s.setObj n x).fresh = s.fresh := rfl
@[simp] theorem State.setObj_free (s : State) (n : Nat) (x : Obj) : (s.setObj n x).free = s.free := rfl

-- State.later
@[simp] theorem State.later_mem (s : State) (es : List Instr) : (s.later es).mem = s.mem := rfl
@[simp] theorem State.later_poison (s : State) (es : List Instr) : (s.later es).poison = s.poison := rfl
@[simp] theorem State.later_objs (s : State) (es : List Instr) : (s.later es).objs = s.objs := rfl
@[simp] theorem State.later_spires (s : State) (es : List Instr) : (s.later es).spires = s.spires := rfl
@[simp] theorem State.later_towers (s : State) (es : List Instr) : (s.later es).towers = s.towers := rfl
@[simp] theorem State.later_nbus (s : State) (es : List Instr) : (s.later es).nbus = s.nbus := rfl
@[simp] theorem State.later_aops (s : State) (es : List Instr) : (s.later es).aops = s.aops := rfl
@[simp] theorem State.later_closings (s : State) (es : List Instr) : (s.later es).closings = s.closings := rfl
@[simp] theorem State.later_pulls (s : State) (es : List Instr) : (s.later es).pulls = s.pulls := rfl
@[simp] theorem State.later_rows (s : State) (es : List Instr) : (s.later es).rows = s.rows := rfl
@[simp] theorem State.later_colls (s : State) (es : List Instr) : (s.later es).colls = s.colls := rfl
@[simp] theorem State.later_collIx (s : State) (es : List Instr) : (s.later es).collIx = s.collIx := rfl
@[simp] theorem State.later_relTabs (s : State) (es : List Instr) : (s.later es).relTabs = s.relTabs := rfl
@[simp] theorem State.later_relDone (s : State) (es : List Instr) : (s.later es).relDone = s.relDone := rfl
@[simp] theorem State.later_collIn (s : State) (es : List Instr) : (s.later es).collIn = s.collIn := rfl
@[simp] theorem State.later_collRel (s : State) (es : List Instr) : (s.later es).collRel = s.collRel := rfl
@[simp] theorem State.later_relq (s : State) (es : List Instr) : (s.later es).relq = s.relq := rfl
@[simp] theorem State.later_wret (s : State) (es : List Instr) : (s.later es).wret = s.wret := rfl
@[simp] theorem State.later_borrows (s : State) (es : List Instr) : (s.later es).borrows = s.borrows := rfl
@[simp] theorem State.later_fab (s : State) (es : List Instr) : (s.later es).fab = s.fab := rfl
@[simp] theorem State.later_cfg (s : State) (es : List Instr) : (s.later es).cfg = s.cfg := rfl
@[simp] theorem State.later_rowBusy (s : State) (es : List Instr) : (s.later es).rowBusy = s.rowBusy := rfl
@[simp] theorem State.later_access (s : State) (es : List Instr) : (s.later es).access = s.access := rfl
@[simp] theorem State.later_cur (s : State) (es : List Instr) : (s.later es).cur = s.cur := rfl
@[simp] theorem State.later_iss (s : State) (es : List Instr) : (s.later es).iss = s.iss := rfl
@[simp] theorem State.later_nbuCur (s : State) (es : List Instr) : (s.later es).nbuCur = s.nbuCur := rfl
@[simp] theorem State.later_nbuTurn (s : State) (es : List Instr) : (s.later es).nbuTurn = s.nbuTurn := rfl
@[simp] theorem State.later_pulse (s : State) (es : List Instr) : (s.later es).pulse = s.pulse := rfl
@[simp] theorem State.later_inserts (s : State) (es : List Instr) : (s.later es).inserts = s.inserts := rfl
@[simp] theorem State.later_fresh (s : State) (es : List Instr) : (s.later es).fresh = s.fresh := rfl
@[simp] theorem State.later_free (s : State) (es : List Instr) : (s.later es).free = s.free := rfl

-- State.soon
@[simp] theorem State.soon_mem (s : State) (es : List Instr) : (s.soon es).mem = s.mem := rfl
@[simp] theorem State.soon_poison (s : State) (es : List Instr) : (s.soon es).poison = s.poison := rfl
@[simp] theorem State.soon_objs (s : State) (es : List Instr) : (s.soon es).objs = s.objs := rfl
@[simp] theorem State.soon_spires (s : State) (es : List Instr) : (s.soon es).spires = s.spires := rfl
@[simp] theorem State.soon_towers (s : State) (es : List Instr) : (s.soon es).towers = s.towers := rfl
@[simp] theorem State.soon_nbus (s : State) (es : List Instr) : (s.soon es).nbus = s.nbus := rfl
@[simp] theorem State.soon_aops (s : State) (es : List Instr) : (s.soon es).aops = s.aops := rfl
@[simp] theorem State.soon_closings (s : State) (es : List Instr) : (s.soon es).closings = s.closings := rfl
@[simp] theorem State.soon_pulls (s : State) (es : List Instr) : (s.soon es).pulls = s.pulls := rfl
@[simp] theorem State.soon_rows (s : State) (es : List Instr) : (s.soon es).rows = s.rows := rfl
@[simp] theorem State.soon_colls (s : State) (es : List Instr) : (s.soon es).colls = s.colls := rfl
@[simp] theorem State.soon_collIx (s : State) (es : List Instr) : (s.soon es).collIx = s.collIx := rfl
@[simp] theorem State.soon_relTabs (s : State) (es : List Instr) : (s.soon es).relTabs = s.relTabs := rfl
@[simp] theorem State.soon_relDone (s : State) (es : List Instr) : (s.soon es).relDone = s.relDone := rfl
@[simp] theorem State.soon_collIn (s : State) (es : List Instr) : (s.soon es).collIn = s.collIn := rfl
@[simp] theorem State.soon_collRel (s : State) (es : List Instr) : (s.soon es).collRel = s.collRel := rfl
@[simp] theorem State.soon_relq (s : State) (es : List Instr) : (s.soon es).relq = s.relq := rfl
@[simp] theorem State.soon_wret (s : State) (es : List Instr) : (s.soon es).wret = s.wret := rfl
@[simp] theorem State.soon_borrows (s : State) (es : List Instr) : (s.soon es).borrows = s.borrows := rfl
@[simp] theorem State.soon_fab (s : State) (es : List Instr) : (s.soon es).fab = s.fab := rfl
@[simp] theorem State.soon_cfg (s : State) (es : List Instr) : (s.soon es).cfg = s.cfg := rfl
@[simp] theorem State.soon_rowBusy (s : State) (es : List Instr) : (s.soon es).rowBusy = s.rowBusy := rfl
@[simp] theorem State.soon_access (s : State) (es : List Instr) : (s.soon es).access = s.access := rfl
@[simp] theorem State.soon_cur (s : State) (es : List Instr) : (s.soon es).cur = s.cur := rfl
@[simp] theorem State.soon_iss (s : State) (es : List Instr) : (s.soon es).iss = s.iss := rfl
@[simp] theorem State.soon_nbuCur (s : State) (es : List Instr) : (s.soon es).nbuCur = s.nbuCur := rfl
@[simp] theorem State.soon_nbuTurn (s : State) (es : List Instr) : (s.soon es).nbuTurn = s.nbuTurn := rfl
@[simp] theorem State.soon_pulse (s : State) (es : List Instr) : (s.soon es).pulse = s.pulse := rfl
@[simp] theorem State.soon_inserts (s : State) (es : List Instr) : (s.soon es).inserts = s.inserts := rfl
@[simp] theorem State.soon_fresh (s : State) (es : List Instr) : (s.soon es).fresh = s.fresh := rfl
@[simp] theorem State.soon_free (s : State) (es : List Instr) : (s.soon es).free = s.free := rfl

-- State.newId
@[simp] theorem State.newId_mem (s : State) : (s.newId).mem = s.mem := rfl
@[simp] theorem State.newId_poison (s : State) : (s.newId).poison = s.poison := rfl
@[simp] theorem State.newId_objs (s : State) : (s.newId).objs = s.objs := rfl
@[simp] theorem State.newId_spires (s : State) : (s.newId).spires = s.spires := rfl
@[simp] theorem State.newId_towers (s : State) : (s.newId).towers = s.towers := rfl
@[simp] theorem State.newId_nbus (s : State) : (s.newId).nbus = s.nbus := rfl
@[simp] theorem State.newId_aops (s : State) : (s.newId).aops = s.aops := rfl
@[simp] theorem State.newId_closings (s : State) : (s.newId).closings = s.closings := rfl
@[simp] theorem State.newId_pulls (s : State) : (s.newId).pulls = s.pulls := rfl
@[simp] theorem State.newId_rows (s : State) : (s.newId).rows = s.rows := rfl
@[simp] theorem State.newId_colls (s : State) : (s.newId).colls = s.colls := rfl
@[simp] theorem State.newId_collIx (s : State) : (s.newId).collIx = s.collIx := rfl
@[simp] theorem State.newId_relTabs (s : State) : (s.newId).relTabs = s.relTabs := rfl
@[simp] theorem State.newId_relDone (s : State) : (s.newId).relDone = s.relDone := rfl
@[simp] theorem State.newId_collIn (s : State) : (s.newId).collIn = s.collIn := rfl
@[simp] theorem State.newId_collRel (s : State) : (s.newId).collRel = s.collRel := rfl
@[simp] theorem State.newId_relq (s : State) : (s.newId).relq = s.relq := rfl
@[simp] theorem State.newId_wret (s : State) : (s.newId).wret = s.wret := rfl
@[simp] theorem State.newId_borrows (s : State) : (s.newId).borrows = s.borrows := rfl
@[simp] theorem State.newId_fab (s : State) : (s.newId).fab = s.fab := rfl
@[simp] theorem State.newId_cfg (s : State) : (s.newId).cfg = s.cfg := rfl
@[simp] theorem State.newId_rowBusy (s : State) : (s.newId).rowBusy = s.rowBusy := rfl
@[simp] theorem State.newId_access (s : State) : (s.newId).access = s.access := rfl
@[simp] theorem State.newId_agenda (s : State) : (s.newId).agenda = s.agenda := rfl
@[simp] theorem State.newId_cur (s : State) : (s.newId).cur = s.cur := rfl
@[simp] theorem State.newId_iss (s : State) : (s.newId).iss = s.iss := rfl
@[simp] theorem State.newId_nbuCur (s : State) : (s.newId).nbuCur = s.nbuCur := rfl
@[simp] theorem State.newId_nbuTurn (s : State) : (s.newId).nbuTurn = s.nbuTurn := rfl
@[simp] theorem State.newId_pulse (s : State) : (s.newId).pulse = s.pulse := rfl
@[simp] theorem State.newId_inserts (s : State) : (s.newId).inserts = s.inserts := rfl
@[simp] theorem State.newId_free (s : State) : (s.newId).free = s.free := rfl

-- The parts read back

@[simp] theorem State.spire_setSpire (s : State) (n : Nat) (x : Spire) : (s.setSpire n x).spire n = x := by
  simp [State.spire, State.setSpire]
theorem State.spire_setSpire_ne (s : State) {m n : Nat} (h : m ≠ n) (x : Spire) : (s.setSpire n x).spire m = s.spire m := by
  simp [State.spire, State.setSpire, Tab.get_set_ne _ h]
@[simp] theorem State.setSpire_setSpire (s : State) (n : Nat) (x y : Spire) : (s.setSpire n x).setSpire n y = s.setSpire n y := by
  simp [State.setSpire]
@[simp] theorem Spire.ctx_setCtx (x : Spire) (c : Nat) (y : Ctx) : (x.setCtx c y).ctx c = y := by simp [Spire.ctx, Spire.setCtx]
theorem Spire.ctx_setCtx_ne (x : Spire) {b c : Nat} (h : b ≠ c) (y : Ctx) : (x.setCtx c y).ctx b = x.ctx b := by
  simp [Spire.ctx, Spire.setCtx, Tab.get_set_ne _ h]
@[simp] theorem Spire.setCtx_setCtx (x : Spire) (c : Nat) (y z : Ctx) : (x.setCtx c y).setCtx c z = x.setCtx c z := by
  simp [Spire.setCtx]
@[simp] theorem State.ctx_setCtx (s : State) (sp c : Nat) (y : Ctx) : (s.setCtx sp c y).ctx sp c = y := by
  simp [State.ctx, State.setCtx]
theorem State.ctx_setCtx_ne (s : State) {sp c m b : Nat} (h : m ≠ sp ∨ b ≠ c) (y : Ctx) :
    (s.setCtx sp c y).ctx m b = s.ctx m b := by
  by_cases hm : m = sp
  · subst hm
    have hb : b ≠ c := by simpa using h
    simp [State.ctx, State.setCtx, Spire.ctx_setCtx_ne _ hb]
  · simp [State.ctx, State.setCtx, State.spire_setSpire_ne _ hm]
@[simp] theorem State.setCtx_setCtx (s : State) (sp c : Nat) (y z : Ctx) : (s.setCtx sp c y).setCtx sp c z = s.setCtx sp c z := by
  simp [State.setCtx]
@[simp] theorem State.cx_setCx (s : State) (y : Ctx) : (s.setCx y).cx = y := by
  show (s.setCtx s.iss.sp s.iss.c y).ctx s.iss.sp s.iss.c = y
  simp
@[simp] theorem State.setCx_setCx (s : State) (y z : Ctx) : (s.setCx y).setCx z = s.setCx z := by
  show (s.setCtx s.iss.sp s.iss.c y).setCtx s.iss.sp s.iss.c z = s.setCtx s.iss.sp s.iss.c z
  simp
@[simp] theorem State.cx_modCx (s : State) (f : Ctx → Ctx) : (s.modCx f).cx = f s.cx := by simp [State.modCx]
@[simp] theorem State.ctx_modCtx (s : State) (sp c : Nat) (f : Ctx → Ctx) : (s.modCtx sp c f).ctx sp c = f (s.ctx sp c) := by
  simp [State.modCtx]
@[simp] theorem State.spire_modSpire (s : State) (n : Nat) (f : Spire → Spire) : (s.modSpire n f).spire n = f (s.spire n) := by
  simp [State.modSpire]
@[simp] theorem State.tower_setTower (s : State) (t : Nat) (x : Tower) : (s.setTower t x).tower t = x := by
  simp [State.tower, State.setTower]
theorem State.tower_setTower_ne (s : State) {t u : Nat} (h : u ≠ t) (x : Tower) : (s.setTower t x).tower u = s.tower u := by
  simp [State.tower, State.setTower, Tab.get_set_ne _ h]
@[simp] theorem State.tower_modTower (s : State) (t : Nat) (f : Tower → Tower) : (s.modTower t f).tower t = f (s.tower t) := by
  simp [State.modTower]
@[simp] theorem State.hru_modHru (s : State) (t : Nat) (f : Hru → Hru) : (s.modHru t f).hru t = f (s.hru t) := by
  simp [State.hru, State.modHru]
@[simp] theorem State.arb_modArb (s : State) (t : Nat) (f : Arbiter → Arbiter) : (s.modArb t f).arb t = f (s.arb t) := by
  simp [State.arb, State.modArb]
@[simp] theorem State.nbu_setNbu (s : State) (n : Nat) (x : Nbu) : (s.setNbu n x).nbu n = x := by
  simp [State.nbu, State.setNbu]
/-- A spire's stores, deque and the rest of its own fields are not touched by an update of a context. -/
theorem State.spire_setCtx (s : State) (sp c : Nat) (y : Ctx) (n : Nat) :
    (s.setCtx sp c y).spire n = if n = sp then (s.spire sp).setCtx c y else s.spire n := by
  by_cases h : n = sp
  · subst h; simp [State.setCtx]
  · simp [State.setCtx, State.spire_setSpire_ne _ h, h]
@[simp] theorem State.mem_setCtx (s : State) (sp c : Nat) (y : Ctx) (n : Nat) : ((s.setCtx sp c y).spire n).mem = (s.spire n).mem := by
  rw [State.spire_setCtx]; split
  · rename_i h; subst h; rfl
  · rfl
@[simp] theorem State.cyc_setCtx (s : State) (sp c : Nat) (y : Ctx) (n : Nat) : ((s.setCtx sp c y).spire n).cyc = (s.spire n).cyc := by
  rw [State.spire_setCtx]; split
  · rename_i h; subst h; rfl
  · rfl
@[simp] theorem State.cyc_setCx (s : State) (y : Ctx) (n : Nat) : ((s.setCx y).spire n).cyc = (s.spire n).cyc :=
  State.cyc_setCtx s _ _ y n
@[simp] theorem State.mem_setCx (s : State) (y : Ctx) (n : Nat) : ((s.setCx y).spire n).mem = (s.spire n).mem :=
  State.mem_setCtx s _ _ y n

end Sys2Proof.Machine
end

