-- ==== Sys2Proof/Laws/Memory.lean ====
section
/-! SUPPORT. Laws/Memory.lean: sparse cells: a read after a write, and that every memory operation keeps the canonical form. -/

namespace Sys2Proof.Machine

theorem cellsFrom_mono {w : Nat} {lo hi : Nat} (h : lo ≤ hi) {m : List (Nat × BitVec w)} (hm : cellsFrom hi m = true) :
    cellsFrom lo m = true := by
  cases m with
  | nil => rfl
  | cons p r =>
    simp only [cellsFrom, Bool.and_eq_true, decide_eq_true_eq] at hm ⊢
    exact ⟨⟨Nat.le_trans h hm.1.1, hm.1.2⟩, hm.2⟩

theorem cellPut_from {w : Nat} (a : Nat) (v : BitVec w) {m : List (Nat × BitVec w)} {lo : Nat} (hlo : lo ≤ a)
    (hm : cellsFrom lo m = true) : cellsFrom lo (cellPut m a v) = true := by
  induction m generalizing lo with
  | nil =>
    unfold cellPut; split
    · rfl
    · rename_i h; simp [cellsFrom, hlo]; exact h
  | cons p r ih =>
    obtain ⟨b, x⟩ := p
    simp only [cellsFrom, Bool.and_eq_true, decide_eq_true_eq] at hm
    obtain ⟨⟨h1, h2⟩, h3⟩ := hm
    unfold cellPut
    split
    · rename_i hb
      simp only [cellsFrom, h2, ih (Nat.succ_le_of_lt hb) h3, Bool.and_true, decide_eq_true_eq]; exact h1
    · split
      · rename_i hb; subst hb
        split
        · exact cellsFrom_mono (Nat.le_succ_of_le hlo) h3
        · rename_i h; simp [cellsFrom, hlo, h3]; exact h
      · rename_i h4 h5
        have hlt : a < b := by omega
        split
        · simp only [cellsFrom, h2, h3, Bool.and_true, decide_eq_true_eq]; exact h1
        · rename_i h
          have hv : (v != 0) = true := by simpa using h
          simp only [cellsFrom, hlo, h2, h3, hv, Nat.succ_le_of_lt hlt, Bool.and_true, decide_true]

/-- A write of one cell keeps the canonical form. -/
theorem cellPut_wf {w : Nat} (m : List (Nat × BitVec w)) (a : Nat) (v : BitVec w) (h : Memory.wf m = true) :
    Memory.wf (cellPut m a v) = true := cellPut_from a v (Nat.zero_le a) h

/-- Several writes keep it. -/
theorem cellsPut_wf {w : Nat} (l m : List (Nat × BitVec w)) (h : Memory.wf m = true) : Memory.wf (cellsPut m l) = true := by
  induction l generalizing m with
  | nil => exact h
  | cons p r ih => exact ih (cellPut m p.1 p.2) (cellPut_wf m p.1 p.2 h)

/-- A little-endian write keeps it. -/
theorem writeLE_wf (n : Nat) (m : List Host.Cell) (a v : Nat) (h : Memory.wf m = true) :
    Memory.wf (writeLE m a v n) = true := by
  induction n generalizing m a v with
  | zero => exact h
  | succ n ih => exact ih _ _ _ (cellPut_wf m a _ h)

/-- The canonical form in words: the keys rise from `lo`, and no cell holds 0. -/
theorem cellsFrom_iff {w : Nat} {lo : Nat} {m : List (Nat × BitVec w)} :
    cellsFrom lo m = true ↔ m.Pairwise (fun p q => p.1 < q.1) ∧ ∀ p ∈ m, lo ≤ p.1 ∧ p.2 ≠ 0 := by
  induction m generalizing lo with
  | nil => simp [cellsFrom]
  | cons p r ih =>
    simp only [cellsFrom, Bool.and_eq_true, decide_eq_true_eq, bne_iff_ne, ih, List.pairwise_cons, List.forall_mem_cons]
    constructor
    · rintro ⟨⟨h1, h2⟩, h3, h4⟩
      exact ⟨⟨fun q hq => (h4 q hq).1, h3⟩, ⟨h1, h2⟩, fun q hq => ⟨by have := (h4 q hq).1; omega, (h4 q hq).2⟩⟩
    · rintro ⟨⟨h1, h2⟩, h3, h4⟩
      exact ⟨h3, h2, fun q hq => ⟨h1 q hq, (h4 q hq).2⟩⟩

/-- Cells taken out keep the form. -/
theorem filter_wf {w : Nat} (f : Nat × BitVec w → Bool) {m : List (Nat × BitVec w)} (h : Memory.wf m = true) :
    Memory.wf (m.filter f) = true := by
  unfold Memory.wf at *
  rw [cellsFrom_iff] at *
  exact ⟨h.1.filter f, fun p hp => h.2 p (List.mem_filter.mp hp).1⟩

/-- A range of cells replaced keeps the form. -/
theorem putRange_wf {w : Nat} {m : List (Nat × BitVec w)} (base n : Nat) (f : Nat → BitVec w) (h : Memory.wf m = true) :
    Memory.wf (putRange m base n f) = true := by
  unfold Memory.wf at *
  rw [cellsFrom_iff] at *
  have mid : ∀ p, p ∈ (List.range n).filterMap (fun k => if f k = 0 then none else some (base + k, f k)) →
      base ≤ p.1 ∧ p.1 < base + n ∧ p.2 ≠ 0 := by
    intro p hp
    obtain ⟨k, hk, e⟩ := List.mem_filterMap.mp hp
    have hk := List.mem_range.mp hk
    split at e
    · cases e
    · rename_i h0; cases e; exact ⟨by simp, by simpa using hk, h0⟩
  have rise : ((List.range n).filterMap (fun k => if f k = 0 then none else some (base + k, f k))).Pairwise (fun p q => p.1 < q.1) := by
    refine List.Pairwise.filterMap _ ?_ (List.pairwise_lt_range (n := n))
    intro a b hab p hp q hq
    split at hp <;> split at hq <;> simp_all
    rcases hp with rfl; rcases hq with rfl; simpa using hab
  unfold putRange
  refine ⟨?_, fun p hp => ?_⟩
  · rw [List.pairwise_append, List.pairwise_append]
    refine ⟨⟨h.1.filter _, rise, fun p hp q hq => ?_⟩, h.1.filter _, fun p hp q hq => ?_⟩
    · have := (mid q hq).1; have := of_decide_eq_true (List.mem_filter.mp hp).2; omega
    · have hq := of_decide_eq_true (List.mem_filter.mp hq).2
      rcases List.mem_append.mp hp with hp | hp
      · have := of_decide_eq_true (List.mem_filter.mp hp).2; omega
      · have := (mid p hp).2.1; omega
  · simp only [List.mem_append] at hp
    rcases hp with (hp | hp) | hp
    · exact h.2 p (List.mem_filter.mp hp).1
    · exact ⟨Nat.zero_le _, (mid p hp).2.2⟩
    · exact h.2 p (List.mem_filter.mp hp).1

theorem cellGet_below {w : Nat} {m : List (Nat × BitVec w)} {lo a : Nat} (h : a < lo) (hm : cellsFrom lo m = true) :
    cellGet m a = 0 := by
  induction m generalizing lo with
  | nil => rfl
  | cons p r ih =>
    obtain ⟨b, x⟩ := p
    simp only [cellsFrom, Bool.and_eq_true, decide_eq_true_eq] at hm
    have hb : b ≠ a := by omega
    simp [cellGet, hb, ih (by omega) hm.2]

/-- A read of the cell that was written. -/
theorem cellGet_cellPut_self {w : Nat} {m : List (Nat × BitVec w)} {lo : Nat} (a : Nat) (v : BitVec w)
    (hm : cellsFrom lo m = true) : cellGet (cellPut m a v) a = v := by
  induction m generalizing lo with
  | nil =>
    unfold cellPut; split
    · rename_i h; simp [cellGet, h]
    · simp [cellGet]
  | cons p r ih =>
    obtain ⟨b, x⟩ := p
    simp only [cellsFrom, Bool.and_eq_true, decide_eq_true_eq] at hm
    obtain ⟨⟨h1, h2⟩, h3⟩ := hm
    unfold cellPut
    split
    · rename_i hb
      simp [cellGet, Nat.ne_of_lt hb, ih h3]
    · split
      · rename_i hb; subst hb
        split
        · rename_i h; simp [h, cellGet_below (Nat.lt_succ_self _) h3]
        · simp [cellGet]
      · rename_i h4 h5
        split
        · rename_i h; simp [h, cellGet, h5, cellGet_below (show a < b + 1 by omega) h3]
        · simp [cellGet]

/-- A read of any other cell. -/
theorem cellGet_cellPut_ne {w : Nat} (m : List (Nat × BitVec w)) {a c : Nat} (h : c ≠ a) (v : BitVec w) :
    cellGet (cellPut m a v) c = cellGet m c := by
  induction m with
  | nil => unfold cellPut; split <;> simp [cellGet, Ne.symm h]
  | cons p r ih =>
    obtain ⟨b, x⟩ := p
    unfold cellPut
    split
    · simp [cellGet, ih]
    · split
      · rename_i hb; subst hb
        split <;> simp [cellGet, Ne.symm h]
      · split <;> simp [cellGet, Ne.symm h]

/-- A little-endian write leaves every byte outside it. -/
theorem cellGet_writeLE_outside (n : Nat) (m : List Host.Cell) (a v c : Nat) (h : c < a ∨ a + n ≤ c) :
    cellGet (writeLE m a v n) c = cellGet m c := by
  induction n generalizing m a v with
  | zero => rfl
  | succ n ih =>
    rw [writeLE, ih _ _ _ (by omega), cellGet_cellPut_ne _ (by omega)]

end Sys2Proof.Machine
end

