-- ==== Sys2Proof/Laws/Queue.lean ====
section
/-! SUPPORT. Laws/Queue.lean: what reading a source and pushing a result do (R176 to R180): each says it once, so that no proof
unfolds `readS`, `readV` or `push` again. -/

namespace Sys2Proof.Machine

/-- No queue entry of the context is poisoned and the bundle has read none: the slot's results are not discarded (R442). -/
def State.Clean (s : State) : Prop := s.iss.bad = false ∧ s.cx.qbad = []

theorem badAfter_nil (v : Bool) (q n : Nat) : badAfter [] v q n = [] := rfl

theorem consumed_clean {s : State} (h : s.Clean) (v : Bool) (q : Nat) : s.consumed v q = s := by
  simp [State.consumed, h.2]

theorem clean_setCx {s : State} (h : s.Clean) {y : Ctx} (hy : y.qbad = []) : (s.setCx y).Clean := ⟨h.1, by simpa using hy⟩

@[simp] theorem Ctx.setS_qbad {x : Ctx} (h : x.qbad = []) (q : Nat) (l : List Entry) : (x.setS q l).qbad = [] := by
  simp [Ctx.setS, h, badAfter]
@[simp] theorem Ctx.setV_qbad {x : Ctx} (h : x.qbad = []) (q : Nat) (l : List Vec) : (x.setV q l).qbad = [] := by
  simp [Ctx.setV, h, badAfter]

/-- s0 reads as 0 and nothing is popped. -/
theorem readS_zero (s : State) (p : Bool) (k : Entry → State → State) : s.readS ⟨0, p⟩ k = k 0 s := by simp [State.readS]

/-- A read of a queue that holds an entry: its head, which is popped unless the source peeks. -/
theorem readS_some {s : State} (h : s.Clean) {a : SrcS} (ha : a.q ≠ 0) {x : Entry} {r : List Entry}
    (hq : s.cx.sOf a.q = x :: r) (k : Entry → State → State) :
    s.readS a k = k x (if a.peek then s else s.setCx (s.cx.setS a.q r)) := by
  simp [State.readS, ha, hq, consumed_clean h]

/-- A read of an empty queue is the underflow of R179. -/
theorem readS_none {s : State} {a : SrcS} (ha : a.q ≠ 0) (hq : s.cx.sOf a.q = []) (k : Entry → State → State) :
    s.readS a k = s.underflow false a.q := by
  simp [State.readS, ha, hq]

theorem readV_some {s : State} (h : s.Clean) {a : SrcV} {x : Vec} {r : List Vec} (hq : s.cx.vOf a.q = x :: r)
    (k : Vec → State → State) :
    s.readV a k = k x (if a.peek then s else s.setCx (s.cx.setV a.q r)) := by
  simp [State.readV, hq, consumed_clean h]

theorem readV_none {s : State} {a : SrcV} (hq : s.cx.vOf a.q = []) (k : Vec → State → State) :
    s.readV a k = s.underflow true a.q := by
  simp [State.readV, hq]

/-- A result for a real register enters the flights of the context and changes nothing else. -/
theorem push_eq {s : State} (h : s.iss.bad = false) {d : Dest} (v : RVal) (lat fst : Nat)
    (hd : ¬((d = .s 0 ∨ d = .m 0) ∧ fst = 0)) :
    s.push d v lat fst = s.setCx { s.cx with
      inflight := insertFlight ⟨d, v, lat, s.iss.num, s.iss.slot, s.iss.off, fst⟩ s.cx.inflight } := by
  simp [State.push, h, hd, State.modCx]

/-- A result without status bits for s0 or m0 is discarded. -/
theorem push_zero (s : State) {d : Dest} (v : RVal) (lat : Nat) (hd : d = .s 0 ∨ d = .m 0) : s.push d v lat 0 = s := by
  simp [State.push, hd]

@[simp] theorem State.iss_push (s : State) (d : Dest) (v : RVal) (lat fst : Nat) : (s.push d v lat fst).iss = s.iss := by
  unfold State.push; split <;> rfl
@[simp] theorem State.mem_push (s : State) (d : Dest) (v : RVal) (lat fst : Nat) : (s.push d v lat fst).mem = s.mem := by
  unfold State.push; split <;> rfl

end Sys2Proof.Machine
end

