-- ==== Sys2Proof/Certificates/Slice0/Obligations.lean ====
section
/-! DEFINITION. Certificates/Slice0/Obligations.lean: the statements about this model, with the forms in which they say what the
rules of spec/ give. -/

namespace Sys2Proof.Spec
open Sys2Proof.Machine

-- What an operation of a bundle may change

/-- Nothing changes but the context under issue and the record of the bundle itself: every byte of DRAM and of every tile store,
accumulator and latch, every object, tower, near-bank unit, fabric and configuration register, every other context. -/
def OnlyContext (s t : State) : Prop :=
  { t with spires := [], iss := .reset } = { s with spires := [], iss := .reset } ∧
  (∀ n, { t.spire n with ctxs := [] } = { s.spire n with ctxs := [] }) ∧
  (∀ n c, n ≠ s.iss.sp ∨ c ≠ s.iss.c → t.ctx n c = s.ctx n c)

/-- One source of R176: s0 gives 0 and pops nothing; another queue gives its head, popped unless the source peeks. -/
def take (a : Src) (x : Ctx) : Option (RVal × Ctx) :=
  match a with
  | .s a =>
    if a.q = 0 then some (.s 0, x)
    else match x.sOf a.q with
      | [] => none
      | e :: l => some (.s e, if a.peek then x else x.setS a.q l)
  | .v a =>
    match x.vOf a.q with
    | [] => none
    | e :: l => some (.v e, if a.peek then x else x.setV a.q l)

/-- The sources of an operation, in read order. -/
def takeAll : List Src → Ctx → Option (List RVal × Ctx)
  | [], x => some ([], x)
  | a :: r, x =>
    match take a x with
    | none => none
    | some (v, y) => (takeAll r y).map fun p => (v :: p.1, p.2)

/-- The k-th value read, as a scalar entry or as a vector. -/
def sv (l : List RVal) (k : Nat) : Entry := match l.getD k (.s 0) with
  | .s x => x
  | _ => 0
def vv (l : List RVal) (k : Nat) : Vec := match l.getD k (.s 0) with
  | .v x => x
  | _ => 0

/-- The context with one result in flight (R177); a result without status bits for s0 or m0 is discarded. -/
def withFlight (s : State) (x : Ctx) (d : Dest) (v : RVal) (lat fst : Nat) : Ctx :=
  if (d = .s 0 ∨ d = .m 0) ∧ fst = 0 then x
  else { x with inflight := insertFlight ⟨d, v, lat, s.iss.num, s.iss.slot, s.iss.off, fst⟩ x.inflight }

/-- A register operation completes: it answers a next state in which its sources are popped and one result is in flight to land
`lat` sc later, with the status bits `fst`; nothing else changes but `iss`, which becomes `i`. -/
def Completes (ins : Instr) (s : State) (y : Ctx) (d : Dest) (v : RVal) (lat fst : Nat) (i : Issue) : Prop :=
  ∃ t, exec ins s = .next t ∧ t.cx = withFlight s y d v lat fst ∧ t.iss = i ∧ OnlyContext s t

/-- A register result: the sources in read order, destination, latency, value and status bits from the values read. -/
structure Form where
  srcs : List Src
  d : Dest
  lat : Nat
  val : List RVal → RVal
  fst : List RVal → Nat

-- Integers in queue entries (R203)

/-- The least and the greatest value of an integer type. -/
def lo (t : Fmt) : Int := if isSigned t then -2 ^ (t.width - 1) else 0
def hi (t : Fmt) : Int := if isSigned t then 2 ^ (t.width - 1) - 1 else 2 ^ t.width - 1
/-- opnd(x, t): the low n bits as a value of the type. -/
def opnd (t : Fmt) (x : Entry) : Int :=
  if isSigned t then Int.bmod x.toNat (2 ^ t.width) else (x.toNat : Int) % 2 ^ t.width
/-- put(v, t): v modulo 2^n, extended to 64 bits by the type's signedness. -/
def put (t : Fmt) (v : Int) : Entry :=
  if isSigned t then BitVec.ofInt 64 (Int.bmod v (2 ^ t.width)) else BitVec.ofInt 64 (v % 2 ^ t.width)
/-- The end of R207: clamped with SAT and INX when it saturates, else wrapped. -/
def clamps (t : Fmt) (sat : Bool) (r : Int) : Bool := sat && (decide (r < lo t) || decide (hi t < r))
def satPut (t : Fmt) (sat : Bool) (r : Int) : Entry :=
  put t (if clamps t sat r then max (lo t) (min r (hi t)) else r)
def satFst (t : Fmt) (sat : Bool) (r : Int) : Nat := if clamps t sat r then stSAT + stINX else 0

/-- The bits of the low n bits of x, from bit 0 up. -/
def bitsOf (t : Fmt) (x : Entry) : List Bool := (List.range t.width).map fun k => x.toNat.testBit k

/-- Two sources, no saturation. -/
def two (r : Reg3) (lat : Nat) (f : Entry → Entry → Entry) : Form :=
  ⟨[.s r.a, .s r.b], .s r.d, lat, fun l => .s (f (sv l 0) (sv l 1)), fun _ => 0⟩
/-- Two sources, saturation permitted (R207). -/
def twoSat (r : Reg3) (lat : Nat) (t : Fmt) (sat : Bool) (f : Int → Int → Int) : Form :=
  ⟨[.s r.a, .s r.b], .s r.d, lat, fun l => .s (satPut t sat (f (opnd t (sv l 0)) (opnd t (sv l 1)))),
    fun l => satFst t sat (f (opnd t (sv l 0)) (opnd t (sv l 1)))⟩
def one (r : Reg2) (lat : Nat) (f : Entry → Entry) : Form :=
  ⟨[.s r.a], .s r.d, lat, fun l => .s (f (sv l 0)), fun _ => 0⟩

/-- Table 07-2, R208, R211 and R213: the integer operations of two sources, latencies of Table 06-7. -/
def intTwo : Instr → Option Form
  | .add r sat t => some (twoSat r 1 t sat (· + ·))
  | .sub r sat t => some (twoSat r 1 t sat (· - ·))
  | .mul r sat t => some (twoSat r 3 t sat (· * ·))
  | .mulh r t => some (two r 3 fun x y => put t ((opnd t x * opnd t y) / 2 ^ t.width))
  | .and r t => some (two r 1 fun x y => put t (x &&& y).toNat)
  | .or r t => some (two r 1 fun x y => put t (x ||| y).toNat)
  | .xor r t => some (two r 1 fun x y => put t (x ^^^ y).toNat)
  | .andn r t => some (two r 1 fun x y => put t (x &&& ~~~y).toNat)
  | .shl r sat t => some ⟨[.s r.a, .s r.b], .s r.d, 1,
      fun l => .s (satPut t sat (opnd t (sv l 0) * 2 ^ ((sv l 1).toNat % t.width))),
      fun l => satFst t sat (opnd t (sv l 0) * 2 ^ ((sv l 1).toNat % t.width))⟩
  | .shr r t => some (two r 1 fun x y => put t (opnd t x / 2 ^ (y.toNat % t.width)))
  | .rol r t => some (two r 1 fun x y => put t ((x.setWidth t.width).rotateLeft (y.toNat % t.width)).toNat)
  | .min r t => some (two r 1 fun x y => put t (min (opnd t x) (opnd t y)))
  | .max r t => some (two r 1 fun x y => put t (max (opnd t x) (opnd t y)))
  | .cmpCc r cc t => some (two r 1 fun x y =>
      if (match cc with
        | .eq => decide (opnd t x = opnd t y)
        | .ne => decide (opnd t x ≠ opnd t y)
        | .lt => decide (opnd t x < opnd t y)
        | .le => decide (opnd t x ≤ opnd t y)
        | .gt => decide (opnd t y < opnd t x)
        | .ge => decide (opnd t y ≤ opnd t x)
        | .un => false) then 1 else 0)
  | .idxPack r => some (two r 1 fun x y => BitVec.ofNat 64 (x.toNat % 2 ^ 32 + y.toNat % 2 ^ 32 * 2 ^ 32))
  | _ => none

/-- R208. -/
def quotient (t : Fmt) (x y : Int) : Int := if y = 0 then (if isSigned t then -1 else 2 ^ t.width - 1) else Int.tdiv x y
def remainder (x y : Int) : Int := if y = 0 then x else x - Int.tdiv x y * y

/-- Operations of one source, of none, and of three (R209, R210, R212 to R215), with the state for lend bits and depths. -/
def intOther (s : State) : Instr → Option Form
  | .addi r imm => some (one r 1 fun x => x + BitVec.ofInt 64 (s.immS 14 imm))
  | .clz r t => some (one r 1 fun x => put t ((bitsOf t x).reverse.findIdx id : Nat))
  | .ctz r t => some (one r 1 fun x => put t ((bitsOf t x).findIdx id : Nat))
  | .popc r t => some (one r 1 fun x => put t ((bitsOf t x).countP id : Nat))
  | .sext r t => some (one r 1 fun x => put t (opnd t x))
  | .zext r t => some (one r 1 fun x => put t (opnd t x))
  | .lih r imm => some (one r 1 fun x => x * 2 ^ 14 + BitVec.ofNat 64 imm)
  | .mov r => some (one r 1 id)
  | .li d imm => some ⟨[], .s d, 1, fun _ => .s (BitVec.ofInt 64 (s.immS 20 imm)), fun _ => 0⟩
  | .qdepth d a vec => some ⟨[], .s d, 1, fun _ => .s (BitVec.ofNat 64 (if vec then (s.cx.vOf a).length else (s.cx.sOf a).length)),
      fun _ => 0⟩
  | .sel r c => some ⟨[.s r.a, .s r.b, .s c], .s r.d, 1, fun l => .s (if sv l 2 ≠ 0 then sv l 0 else sv l 1), fun _ => 0⟩
  | .mad r sat t => some ⟨[.s r.a, .s r.b, popSrc r.d], .s r.d, 3,
      fun l => .s (satPut t sat (opnd t (sv l 0) * opnd t (sv l 1) + opnd t (sv l 2))),
      fun l => satFst t sat (opnd t (sv l 0) * opnd t (sv l 1) + opnd t (sv l 2))⟩
  | _ => none

end Sys2Proof.Spec

open Sys2Proof Sys2Proof.Machine Sys2Proof.Spec

/-- R208: `div` pushes put(q, t) and `rem` put(m, t), for a zero divisor and for min(t) divided by -1 as well; no trap, no status bit. -/
def Obligations.DivideAndRemainder : Prop :=
  ∀ (r : Reg3) (t : Fmt) (s : State) (l : List RVal) (y : Ctx), s.Clean → takeAll [.s r.a, .s r.b] s.cx = some (l, y) →
    Completes (.div r t) s y (.s r.d) (.s (put t (quotient t (opnd t (sv l 0)) (opnd t (sv l 1))))) (if t.width = 64 then 20 else 12) 0 s.iss ∧
    Completes (.rem r t) s y (.s r.d) (.s (put t (remainder (opnd t (sv l 0)) (opnd t (sv l 1))))) (if t.width = 64 then 20 else 12) 0 s.iss

/-- R203, R206, R207, R209 to R216 (Table 07-2): for every state in which the sources can be read (R176, no poisoned entry), each other integer
operation completes: it pops its sources and its result lands after the latency of Table 06-7; nothing else changes; `qdrop` removes n + 1 head
entries and `qclr` every entry, of the queue it names and of no other; `nop` changes nothing. -/
def Obligations.IntegerResultsAndQueues : Prop :=
  (∀ (i : Instr) (F : Form) (s : State) (l : List RVal) (y : Ctx), intTwo i = some F → s.Clean → takeAll F.srcs s.cx = some (l, y) →
    Completes i s y F.d (F.val l) F.lat (F.fst l) s.iss) ∧
  (∀ (i : Instr) (s : State) (F : Form) (l : List RVal) (y : Ctx), intOther s i = some F → s.Clean → takeAll F.srcs s.cx = some (l, y) →
    Completes i s y F.d (F.val l) F.lat (F.fst l) s.iss) ∧
  (∀ s : State, exec .nop s = .next s) ∧
  (∀ (s : State) (a : Fin 32) (n : Fin 4), n.val + 1 ≤ (s.cx.sOf a).length → ∃ t, exec (.qdrop a false n) s = .next t ∧
    t.cx = s.cx.setS a ((s.cx.sOf a).drop (n + 1)) ∧ t.iss = s.iss ∧ OnlyContext s t) ∧
  (∀ (s : State) (a : Fin 32) (n : Fin 4), n.val + 1 ≤ (s.cx.vOf a).length → ∃ t, exec (.qdrop a true n) s = .next t ∧
    t.cx = s.cx.setV a ((s.cx.vOf a).drop (n + 1)) ∧ t.iss = s.iss ∧ OnlyContext s t) ∧
  (∀ (s : State) (a : Fin 32) (vec : Bool), ∃ t, exec (.qclr a vec) s = .next t ∧ t.iss = s.iss ∧ OnlyContext s t ∧
    t.cx = (if vec then s.cx.setV a [] else s.cx.setS a []) ∧
    (if vec then t.cx.vOf a = [] ∧ t.cx.sq = s.cx.sq else t.cx.sOf a = [] ∧ t.cx.vq = s.cx.vq))

namespace Sys2Proof.Spec
open Sys2Proof.Machine

-- Floating point (R148 to R154, R217 to R219)

/-- The bundle's record after an operation that rounds under code m: a stochastic one takes one SCTR value (R152). -/
def drew (s : State) (m : Rm) : Issue := { s.iss with sto := s.iss.sto + if s.cx.mode m = .sto then 1 else 0 }

/-- A rounded float result: the exact value of the operands, rounded once (R218), with the status bits of Table 05-9. -/
def flt (s : State) (srcs : List SrcS) (d : Fin 32) (m : Rm) (t : Fmt) (lat : Nat) (f : List FV → FVI) : Form × Rm :=
  (⟨srcs.map .s, .s d, lat, fun l => .s (BitVec.ofNat 64 (finish t (s.rnd m 0) (f (l.map fun v => opndF t (sv [v] 0)))).code),
    fun l => (finish t (s.rnd m 0) (f (l.map fun v => opndF t (sv [v] 0)))).st⟩, m)
def fv (l : List FV) (k : Nat) : FV := l.getD k .nan

/-- Table 07-6, the operations that round. -/
def floatRounded (s : State) : Instr → Option (Form × Rm)
  | .fadd r m t => some (flt s [r.a, r.b] r.d m t (if t = .f64 then 6 else 4) fun l => FV.add (s.cx.mode m) (fv l 0) (fv l 1))
  | .fsub r m t => some (flt s [r.a, r.b] r.d m t (if t = .f64 then 6 else 4) fun l => FV.add (s.cx.mode m) (fv l 0) (fv l 1).neg)
  | .fmul r m t => some (flt s [r.a, r.b] r.d m t (if t = .f64 then 6 else 4) fun l => (fv l 0).mul (fv l 1))
  | .fma r m t => some (flt s [r.a, r.b, ⟨r.d, false⟩] r.d m t (if t = .f64 then 6 else 4)
      fun l => FV.fma (s.cx.mode m) (fv l 0) (fv l 1) (fv l 2))
  | .fdiv r m t => some (flt s [r.a, r.b] r.d m t (if t = .f64 then 24 else 12) fun l => (fv l 0).div (fv l 1))
  | .fsqrt r m t => some (flt s [r.a] r.d m t (if t = .f64 then 24 else 12) fun l => (fv l 0).sqrt)
  | _ => none

/-- Table 07-7: a condition on a numeric comparison; `none` is unordered. -/
def floatCond (cc : Cond) (o : Option Ordering) : Bool :=
  match cc with
  | .eq => o == some .eq
  | .ne => o != some .eq
  | .lt => o == some .lt
  | .le => o == some .lt || o == some .eq
  | .gt => o == some .gt
  | .ge => o == some .gt || o == some .eq
  | .un => o == none

/-- Table 07-6, the operations that never round: `fmin`, `fmax`, `fcmp`, `fcls`. -/
def floatExact : Instr → Option Form
  | .fmin r t => some (two r (if t = .f64 then 6 else 4) fun x y => BitVec.ofNat 64 (fminCode t false x.toNat y.toNat))
  | .fmax r t => some (two r (if t = .f64 then 6 else 4) fun x y => BitVec.ofNat 64 (fminCode t true x.toNat y.toNat))
  | .fcmp r cc t => some (two r (if t = .f64 then 6 else 4) fun x y =>
      if floatCond cc ((opndF t x).cmp (opndF t y)) then 1 else 0)
  | .fcls r t => some (one r (if t = .f64 then 6 else 4) fun x => BitVec.ofNat 64 (classMask t (x.toNat % 2 ^ t.width)))
  | _ => none

-- Vectors (R231 to R253)

/-- A lane-wise result: sources, governing mask, destination, type, latency, lane i with its status from the values read; `rm` is the
rounding code where the operation rounds. -/
structure VForm where
  srcs : List Src
  d : Fin 16
  t : Fmt
  lat : Nat
  f : List RVal → Nat → Nat × Nat
  rm : Option Rm

/-- Lane i is `f i` where mask k holds, else 0 with no status (R233, R235). -/
def under (s : State) (k : Fin 8) (f : List RVal → Nat → Nat × Nat) (l : List RVal) (i : Nat) : Nat × Nat :=
  if (s.cx.mask k).getLsbD i then f l i else (0, 0)

/-- Lane i of the j-th value read. -/
def ln (t : Fmt) (l : List RVal) (j i : Nat) : Nat := (vv l j).toNat / 2 ^ (t.width * i) % 2 ^ t.width

/-- An integer lane: wrapped, or clamped with SAT and INX. -/
def laneOf (t : Fmt) (sat : Bool) (v : Int) : Nat × Nat :=
  (((if clamps t sat v then max (lo t) (min v (hi t)) else v) % 2 ^ t.width).toNat, satFst t sat v)
/-- The value of a lane of an integer type. -/
def iv (t : Fmt) (x : Nat) : Int := opnd t (BitVec.ofNat 64 x)
/-- A rounded float lane. -/
def fl (s : State) (t : Fmt) (m : Rm) (i : Nat) (v : FVI) : Nat × Nat := ((finish t (s.rnd m i) v).code, (finish t (s.rnd m i) v).st)
def fd (t : Fmt) (l : List RVal) (j i : Nat) : FV := decodeFlt t (ln t l j i)

def vtwo (s : State) (r : Vec3) (t : Fmt) (lat : Nat) (f : Nat → Nat → Nat × Nat) : VForm :=
  ⟨[.v r.a, .v r.b], r.d, t, lat, under s r.k fun l i => f (ln t l 0 i) (ln t l 1 i), none⟩
def vone (s : State) (r : Vec2) (t : Fmt) (lat : Nat) (f : Nat → Nat × Nat) : VForm :=
  ⟨[.v r.a], r.d, t, lat, under s r.k fun l i => f (ln t l 0 i), none⟩
def varith (s : State) (r : Vec3) (m : VMod) (t : Fmt) (fi : Int → Int → Int) (ff : Rm → FV → FV → FVI) : VForm :=
  match m with
  | .int sat => vtwo s r t 2 fun x y => laneOf t sat (fi (iv t x) (iv t y))
  | .flt m => ⟨[.v r.a, .v r.b], r.d, t, 4, under s r.k fun l i => fl s t m i (ff (s.cx.mode m) (fd t l 0 i) (fd t l 1 i)), some m⟩
def vfused (s : State) (r : Vec3) (m : Rm) (t : Fmt) (f : Rm → FV → FV → FV → FVI) : VForm :=
  ⟨[.v r.a, .v r.b, popSrcV r.d], r.d, t, 4,
    under s r.k fun l i => fl s t m i (f (s.cx.mode m) (fd t l 0 i) (fd t l 1 i) (fd t l 2 i)), some m⟩

/-- Table 08-2: lane-wise arithmetic, logic and shifts. -/
def laneWise (s : State) : Instr → Option VForm
  | .vadd r m t => some (varith s r m t (· + ·) FV.add)
  | .vsub r m t => some (varith s r m t (· - ·) fun k x y => FV.add k x y.neg)
  | .vmul r m t => some (varith s r m t (· * ·) fun _ x y => x.mul y)
  | .vfma r m t => some (vfused s r m t FV.fma)
  | .vfms r m t => some (vfused s r m t fun k x y z => FV.fma k x y z.neg)
  | .vnfma r m t => some (vfused s r m t fun k x y z => FV.fma k x.neg y z)
  | .vmin r t => some (vtwo s r t (if t.isInt then 2 else 4) fun x y =>
      if t.isInt then (if iv t y < iv t x then y else x, 0)
      else (fminCode t false x y, if decodeFlt t x = .nan ∨ decodeFlt t y = .nan then stNANP else 0))
  | .vmax r t => some (vtwo s r t (if t.isInt then 2 else 4) fun x y =>
      if t.isInt then (if iv t x < iv t y then y else x, 0)
      else (fminCode t true x y, if decodeFlt t x = .nan ∨ decodeFlt t y = .nan then stNANP else 0))
  | .vabs r sat t => some (vone s r t (if t.isInt then 2 else 4) fun x =>
      if t.isInt then laneOf t sat (iv t x).natAbs
      else if decodeFlt t x = .nan then (nanCode t, stNANP) else (x % 2 ^ (t.width - 1), 0))
  | .vneg r sat t => some (vone s r t (if t.isInt then 2 else 4) fun x =>
      if t.isInt then laneOf t sat (-(iv t x))
      else if decodeFlt t x = .nan then (nanCode t, stNANP) else ((x + 2 ^ (t.width - 1)) % 2 ^ t.width, 0))
  | .vand r t => some (vtwo s r t 2 fun x y => (x &&& y, 0))
  | .vor r t => some (vtwo s r t 2 fun x y => (x ||| y, 0))
  | .vxor r t => some (vtwo s r t 2 fun x y => (x ^^^ y, 0))
  | .vnot r t => some (vone s r t 2 fun x => (2 ^ t.width - 1 - x, 0))
  | .vshl r sat t => some (vtwo s r t 2 fun x y => laneOf t sat (iv t x * 2 ^ (y % t.width)))
  | .vshr r t => some (vtwo s r t 2 fun x y => (x / 2 ^ (y % t.width), 0))
  | .vsra r t => some (vtwo s r t 2 fun x y => laneOf t false (Int.bmod x (2 ^ t.width) / 2 ^ (y % t.width)))
  | .vexp2 r t => some (vone s r t 8 fun x => ((transExp2 t (decodeFlt t x)).code, (transExp2 t (decodeFlt t x)).st))
  | .vlog2 r t => some (vone s r t 8 fun x => ((transLog2 t (decodeFlt t x)).code, (transLog2 t (decodeFlt t x)).st))
  | .vrcp r t => some (vone s r t 8 fun x => ((transRcp t (decodeFlt t x)).code, (transRcp t (decodeFlt t x)).st))
  | .vrsqrt r t => some (vone s r t 8 fun x => ((transRsqrt t (decodeFlt t x)).code, (transRsqrt t (decodeFlt t x)).st))
  | .vtanh r t => some (vone s r t 8 fun x => ((transTanh t (decodeFlt t x)).code, (transTanh t (decodeFlt t x)).st))
  | _ => none

/-- Table 08-3 and R240: select, data movement, unpacking and the scan. -/
def laneMoves (s : State) : Instr → Option VForm
  | .vsel r t => some ⟨[.v r.a, .v r.b], r.d, t, 1,
      fun l i => (if (s.cx.mask r.k).getLsbD i then ln t l 0 i else ln t l 1 i, 0), none⟩
  | .vbcast d q t => some ⟨[.s q], d, t, 2, fun l _ => ((sv l 0).toNat, 0), none⟩
  | .vins d a q c t => some ⟨[.v a, .s q, popSrc (Fin.ofNat 32 c)], d, t, 2,
      fun l i => (if i = (sv l 2).toNat % lanes t then (sv l 1).toNat else ln t l 0 i, 0), none⟩
  | .vperm r t => some (vtwoAt r t)
  | .vrot d a n t => some ⟨[.v a], d, t, 2,
      fun l i => (ln t l 0 (((i : Int) + Int.bmod n 64) % (lanes t : Nat)).toNat, 0), none⟩
  | .vslide d a b n t => some ⟨[.v a, .v b], d, t, 2,
      fun l i => ((let k := (i : Int) + Int.bmod n 64
        if k < 0 then ln t l 1 (k + (lanes t : Nat)).toNat
        else if k < (lanes t : Nat) then ln t l 0 k.toNat else ln t l 1 (k - (lanes t : Nat)).toNat), 0), none⟩
  | .vunpack p d a b m t => some ⟨[.v a, .v b], d, t, 4, fun l i =>
      let j := p * lanes t + i
      let c := roundTo t (s.rnd m i) false (decodeQ4 ((vv l 1).toNat / 2 ^ (8 * (j / 32)) % 2 ^ 8) ((vv l 0).toNat / 2 ^ (4 * j) % 2 ^ 4))
      (c.code, c.st), some m⟩
  | _ => none
where
  vtwoAt (r : Vec3) (t : Fmt) : VForm :=
    ⟨[.v r.a, .v r.b], r.d, t, 3, under s r.k fun l i => (ln t l 0 (ln t l 1 i % lanes t), 0), none⟩

/-- A lane-wise operation completes: its result holds lane by lane what the form says, and its status is the union over the lanes. -/
def VCompletes (ins : Instr) (s : State) (F : VForm) : Prop :=
  ∀ (l : List RVal) (y : Ctx), takeAll F.srcs s.cx = some (l, y) →
    ∃ v : Vec, Completes ins s y (.v F.d) (.v v) F.lat (((List.range (lanes F.t)).map fun i => (F.f l i).2).foldl (· ||| ·) 0)
        (match F.rm with
          | some m => drew s m
          | none => s.iss) ∧
      ∀ i < lanes F.t, v.toNat / 2 ^ (F.t.width * i) % 2 ^ F.t.width = (F.f l i).1 % 2 ^ F.t.width

/-- The (lane, value) pairs of the active lanes, in ascending order. -/
def active (s : State) (k : Fin 8) (t : Fmt) (l : List RVal) : List (Nat × Nat) :=
  ((List.range (lanes t)).filter fun i => (s.cx.mask k).getLsbD i).map fun i => (i, ln t l 0 i)

/-- The events of a conversion trap or are discarded: none has its NXE bit set, and XLH is 0 or there is none (R167). -/
def Quiet (s : State) (kinds : List Nat) : Prop :=
  (∀ k ∈ kinds, nxeHas s.cx.sys.nxe k = false) ∧ (s.cx.sys.xlh = 0 ∨ kinds = [])

end Sys2Proof.Spec

/-- R217, R218 (Table 07-6): the scalar float operations that round complete with the exact value of their operands rounded once;
`fmin`, `fmax`, `fcmp` and `fcls` never round and set no status bit (Tables 07-7, 07-8). -/
def Obligations.ScalarFloatResults : Prop :=
  (∀ (i : Instr) (s : State) (F : Form) (m : Rm) (l : List RVal) (y : Ctx), floatRounded s i = some (F, m) → s.Clean →
    takeAll F.srcs s.cx = some (l, y) → Completes i s y F.d (F.val l) F.lat (F.fst l) (drew s m)) ∧
  (∀ (i : Instr) (s : State) (F : Form) (l : List RVal) (y : Ctx), floatExact i = some F → s.Clean →
    takeAll F.srcs s.cx = some (l, y) → Completes i s y F.d (F.val l) F.lat (F.fst l) s.iss)

/-- R163, R219, R241, R242: the conversions `fcvt`, `vcvt` and `vpack` where no event of theirs traps or is listed. -/
def Obligations.ConversionResults : Prop :=
  (∀ (s : State) (r : Reg2) (src dst : Fmt) (sat : Bool) (m : Rm) (l : List RVal) (y : Ctx), s.Clean →
    takeAll [.s r.a] s.cx = some (l, y) →
    let c := convert (decodeVal src ((sv l 0).toNat % 2 ^ src.width)) dst (s.rnd m 0) sat
    Quiet s (if c.kind = 0 then [] else [c.kind]) →
    Completes (.fcvt r src sat m dst) s y (.s r.d) (.s (if dst.isInt then put dst c.code else BitVec.ofNat 64 c.code))
      (if src = .f64 ∨ dst = .f64 then 6 else 4) c.st (drew s m)) ∧
  (∀ (s : State) (p : Fin 4) (d : Fin 16) (a : SrcV) (src dst : Fmt) (sat : Bool) (m : Rm) (l : List RVal) (y : Ctx), s.Clean →
    takeAll [.v a] s.cx = some (l, y) → (p.val + 1) * (4096 / max src.width dst.width) ≤ 4096 / min src.width dst.width →
    let n := 4096 / max src.width dst.width
    let c (j : Nat) := convert (decodeVal src (if src.width < dst.width then ln src l 0 (p * n + j) else ln src l 0 j)) dst
      (s.rnd m (if src.width < dst.width then j else p * n + j)) sat
    Quiet s (((List.range n).map fun j => (c j).kind).filter (· ≠ 0)) →
    ∃ v : Vec, Completes (.vcvt p d a src sat m dst) s y (.v d) (.v v) 4 (((List.range n).map fun j => (c j).st).foldl (· ||| ·) 0) (drew s m) ∧
      ∀ i < lanes dst, v.toNat / 2 ^ (dst.width * i) % 2 ^ dst.width =
        (if src.width < dst.width then (c i).code % 2 ^ dst.width
         else if p * n ≤ i ∧ i < (p.val + 1) * n then (c (i - p * n)).code % 2 ^ dst.width else 0)) ∧
  (∀ (s : State) (p : Fin 8) (d : Fin 16) (a : SrcV) (bt : BT) (scales : Bool) (m : Rm) (src : Fmt) (l : List RVal) (y : Ctx), s.Clean →
    takeAll [.v a] s.cx = some (l, y) → src = .f16 ∨ src = .bf16 ∨ src = .f32 → (p.val + 1) * lanes src ≤ 1024 →
    let n := lanes src / 32
    let b (k : Nat) := drainQ4 bt ((List.range 32).map fun j => s.rnd m (32 * k + j)) ((List.range 32).map fun j => fd src l 0 (32 * k + j))
    scales = true ∨ Quiet s ((List.range n).flatMap fun k => (b k).events.map (·.2)) →
    ∃ v : Vec, Completes (.vpack p d a bt scales m src) s y (.v d) (.v v) 4
        (if scales then 0 else ((List.range n).map fun k => (b k).st).foldl (· ||| ·) 0) (drew s m) ∧
      (if scales then ∀ k < 512, v.toNat / 2 ^ (8 * k) % 2 ^ 8 =
          if p * n ≤ k ∧ k < (p.val + 1) * n then (b (k - p * n)).scale % 2 ^ 8 else 0
       else ∀ i < 1024, v.toNat / 2 ^ (4 * i) % 2 ^ 4 =
          if p * n ≤ i / 32 ∧ i / 32 < (p.val + 1) * n then (b (i / 32 - p * n)).codes.getD (i % 32) 0 % 2 ^ 4 else 0))

/-- R233 to R238, R248 (Tables 08-2, 08-4): every lane-wise operation of the V class completes; the values of the transcendentals are the
model's (log 7). -/
def Obligations.LaneWiseResults : Prop :=
  ∀ (i : Instr) (s : State) (F : VForm), laneWise s i = some F → s.Clean → VCompletes i s F

/-- R240, R243, R244 (Table 08-3): select, broadcast, insert, permute, rotate, slide and unpack complete. -/
def Obligations.VectorMoveResults : Prop :=
  ∀ (i : Instr) (s : State) (F : VForm), laneMoves s i = some F → s.Clean → VCompletes i s F

/-- R239, R244 to R247, R252, R253: `vext`, the reductions and the scan; comparisons and mask operations, bit by bit. -/
def Obligations.ReductionAndMaskResults : Prop :=
  (∀ (s : State) (d : Fin 32) (a : SrcV) (q : SrcS) (t : Fmt) (l : List RVal) (y : Ctx), s.Clean →
    takeAll [.v a, .s q] s.cx = some (l, y) →
    Completes (.vext d a q t) s y (.s d) (.s (if t.isInt then put t (ln t l 0 ((sv l 1).toNat % lanes t))
      else BitVec.ofNat 64 (ln t l 0 ((sv l 1).toNat % lanes t)))) 2 0 s.iss) ∧
  (∀ (s : State) (r : Vec2) (sat : Bool) (op : RedOp) (t : Fmt) (l : List RVal) (y : Ctx), s.Clean → takeAll [.v r.a] s.cx = some (l, y) →
    let c := reduce op sat t ((List.range (lanes t)).map fun i => if (s.cx.mask r.k).getLsbD i then ln t l 0 i else redIdentity op t)
      ((active s r.k t l).map (·.2))
    Completes (.vred r sat op t) s y (.v r.d) (.v (BitVec.ofNat 4096 (c.1 % 2 ^ t.width))) 8 c.2 s.iss ∧
    (op = .add → t.isInt = true → c = laneOf t sat (((active s r.k t l).map fun p => iv t p.2).sum))) ∧
  (∀ (s : State) (r : Vec2) (t : Fmt) (l : List RVal) (y : Ctx), s.Clean → takeAll [.v r.a] s.cx = some (l, y) →
    let nan := if t.isInt then none else (active s r.k t l).find? fun p => decodeFlt t p.2 == .nan
    let c := match nan with
      | some p => (p.1, nanCode t)
      | none => argmaxOf t (active s r.k t l)
    Completes (.vargmax r t) s y (.v r.d) (.v (BitVec.ofNat 4096 (c.1 + c.2 * 2 ^ 32))) 10 (if nan.isSome then stNANP else 0) s.iss) ∧
  (∀ (s : State) (r : Vec2) (t : Fmt) (l : List RVal) (y : Ctx), s.Clean → takeAll [.v r.a] s.cx = some (l, y) →
    let c := scanGo t (s.cx.mask r.k) ((List.range (lanes t)).map fun i => (i, ln t l 0 i)) none
    ∃ v : Vec, Completes (.vscanAdd r t) s y (.v r.d) (.v v) 8 ((c.map (·.2)).foldl (· ||| ·) 0) s.iss ∧
      (∀ i < lanes t, v.toNat / 2 ^ (t.width * i) % 2 ^ t.width = (c.getD i (0, 0)).1 % 2 ^ t.width) ∧
      (t.isInt = true → ∀ i < lanes t, v.toNat / 2 ^ (t.width * i) % 2 ^ t.width =
        if (s.cx.mask r.k).getLsbD i then (((active s r.k t l).filter fun p => p.1 ≤ i).map (·.2)).sum % 2 ^ t.width else 0)) ∧
  (∀ (s : State) (k md : Fin 8) (a b : SrcV) (cc : Cond) (t : Fmt) (l : List RVal) (y : Ctx), s.Clean →
    takeAll [.v a, .v b] s.cx = some (l, y) →
    ∃ v : Mask, Completes (.vcmpCc k md a b cc t) s y (.m md) (.m v) 2 0 s.iss ∧
      ∀ i < 1024, v.getLsbD i = (decide (i < lanes t) && (s.cx.mask k).getLsbD i && laneCmp t cc (ln t l 0 i) (ln t l 1 i))) ∧
  (∀ (s : State) (d a b : Fin 8), s.iss.bad = false →
    Completes (.mand d a b) s s.cx (.m d) (.m (s.cx.mask a &&& s.cx.mask b)) 1 0 s.iss ∧
    Completes (.mor d a b) s s.cx (.m d) (.m (s.cx.mask a ||| s.cx.mask b)) 1 0 s.iss ∧
    Completes (.mxor d a b) s s.cx (.m d) (.m (s.cx.mask a ^^^ s.cx.mask b)) 1 0 s.iss ∧
    Completes (.mnot d a) s s.cx (.m d) (.m (~~~ s.cx.mask a)) 1 0 s.iss)

/-- R253: `mpop` pushes the number of set bits among the mask bits below L, `mfirst` the lowest of them or L, both 2 sc later and with no
status; majors 0x2D and 0x2E, sd in [24:20], ma in [17:15], any vector type or q4 in [4:0], and every other bit of [19:5] zero. -/
def Obligations.MaskCounts : Prop :=
  (∀ (s : State) (d : Fin 32) (a : Fin 8) (t : Fmt), s.iss.bad = false →
    Completes (.mpop d a t) s s.cx (.s d) (.s (BitVec.ofNat 64 ((List.range (lanes t)).countP fun i => (s.cx.mask a).getLsbD i))) 2 0 s.iss ∧
    Completes (.mfirst d a t) s s.cx (.s d) (.s (BitVec.ofNat 64 ((List.range (lanes t)).findIdx fun i => (s.cx.mask a).getLsbD i))) 2 0 s.iss) ∧
  (∀ (d : Fin 32) (a : Fin 8) (t : Fmt), t ≠ .f64 →
    decodeSlot 1 (0x2D * 2 ^ 25 + d.val * 2 ^ 20 + a.val * 2 ^ 15 + t.code) = .ok (.mpop d a t) ∧
    decodeSlot 1 (0x2E * 2 ^ 25 + d.val * 2 ^ 20 + a.val * 2 ^ 15 + t.code) = .ok (.mfirst d a t)) ∧
  ∀ w : Nat, w / 2 ^ 25 = 0x2D ∨ w / 2 ^ 25 = 0x2E →
    bits w 18 2 ≠ 0 ∨ bits w 5 10 ≠ 0 ∨ bits w 0 5 = Fmt.f64.code ∨ 14 < bits w 0 5 → ∃ r, decodeSlot 1 w = .error r

namespace Sys2Proof.Spec
open Sys2Proof.Machine

-- Control (R220 to R229)

/-- A bundle address that a transfer may go to (R220). -/
def InCode (s : State) (v : Int) : Prop := 0 ≤ v ∧ v % 16 = 0 ∧ v < s.cx.res.nlen ∧ v < 2 ^ 32
/-- The bundle's record with the transfer target `v`. -/
def toward (s : State) (v : Int) : Issue := { s.iss with target := some v.toNat }
/-- Table 07-10 on a signed entry. -/
def branches (c : BCond) (e : Entry) : Bool :=
  match c with
  | .z => decide (e.toInt = 0)
  | .nz => decide (e.toInt ≠ 0)
  | .ltz => decide (e.toInt < 0)
  | .gez => decide (0 ≤ e.toInt)
  | .gtz => decide (0 < e.toInt)
  | .lez => decide (e.toInt ≤ 0)
/-- An operation with no register result: it answers a next state in which the context is `y` and the bundle's record `i`; nothing else
changes. -/
def Sets (ins : Instr) (s : State) (y : Ctx) (i : Issue) : Prop := ∃ t, exec ins s = .next t ∧ t.cx = y ∧ t.iss = i ∧ OnlyContext s t

/-- The record stands in the tower's queue (under the SEQ it was given) or waits in the spire (R409, R410). -/
def Posted (t : State) (sp : Nat) (r : TrapRec) : Prop :=
  r ∈ (t.spire sp).held ∨ ∃ p ∈ (t.tower (towerOf sp)).tq.ring, { p.2 with seq := r.seq } = r

/-- What a bundle may touch when it ends: DRAM, objects, near-bank units, fabric, configuration and every other context stay. -/
def BundleFrame (s t : State) : Prop :=
  t.mem = s.mem ∧ t.poison = s.poison ∧ t.nbus = s.nbus ∧ t.fab = s.fab ∧ t.cfg = s.cfg ∧ t.aops = s.aops ∧
  (∀ n c, n ≠ s.iss.sp ∨ c ≠ s.iss.c → t.ctx n c = s.ctx n c) ∧ ∀ n, (t.spire n).mem = (s.spire n).mem

/-- The context after its bundle, outside a loop: the next pc, one step less to make, SCTR advanced (R53, R152, R220). -/
def after (s : State) : Ctx :=
  { s.cx with
    pc := s.iss.target.getD s.iss.next
    stepping := s.cx.stepping.map (· - 1)
    nstep := if s.cx.st = .halt then s.cx.nstep + 1 else s.cx.nstep
    halting := s.cx.st == .halt
    lastNum := s.iss.num
    sys := { s.cx.sys with sctr := if s.iss.sto = 0 then s.cx.sys.sctr
      else if s.iss.dup then (s.iss.sctr0 + 1) % 2 ^ 48 else (s.iss.sctr0 + s.iss.sto) % 2 ^ 48 } }

/-- Frozen, to resume at `pc` (R403, R404): everything else, the results in flight among it, stays in the snapshot. -/
def frozenAt (x : Ctx) (pc : Nat) : Ctx := { x with st := .frozen, stall := none, stepping := none, halting := false, pc := pc }

/-- Table 06-6: the registers that `sysrd` reads, with their values (FST as it stood before this sc's landings, R227). -/
def sysRegs (s : State) : List (Nat × Nat) :=
  let x := s.cx
  [(0x000, x.sys.nvr), (0x001, if x.sys.lwc then 1 else 0), (0x002, x.sys.xlh.toNat), (0x003, x.sys.wgt), (0x004, x.sys.cls.toNat),
    (0x005, x.sys.ocls.toNat), (0x006, x.sys.owgt + if x.sys.opv then 2 ^ 63 else 0), (0x007, x.sys.sid), (0x008, x.sys.pri),
    (0x009, x.sys.ftp), (0x00A, x.sys.seed), (0x00B, x.sys.sctr), (0x00C, x.sys.rmd), (0x00D, x.fst0), (0x00E, x.sys.nxe),
    (0x00F, x.sys.tsw), (0x010, x.res.tsb), (0x011, s.iss.sp), (0x012, x.sys.rol), (0x013, x.lc), (0x014, x.lb),
    (0x015, (s.spire s.iss.sp).cyc), (0x016, s.cfg.fuses.dhs), (0x017, x.sys.cvr), (0x018, s.cfg.pkn),
    (0x019, x.res.ltwr * 256 + x.res.lslot), (0x020, x.tc.getD 0 0), (0x021, x.tc.getD 1 0), (0x022, x.tc.getD 2 0),
    (0x023, x.tc.getD 3 0), (0x024, x.tc.getD 4 0), (0x025, x.tc.getD 5 0), (0x026, x.tc.getD 6 0), (0x027, x.tc.getD 7 0)]

/-- Table 06-6 and R182: a register that `syswr` may name holds this value; LWC in SID 0 only. -/
def mayWrite (x : Ctx) (n v : Nat) : Bool :=
  match n with
  | 0x000 => decide (5 ≤ v ∧ v ≤ 7)
  | 0x001 => decide (x.sys.sid = 0 ∧ v ≤ 1)
  | 0x002 => true
  | 0x009 => decide (1 ≤ v ∧ v ≤ 16)
  | 0x00A => true
  | 0x00B => decide (v < 2 ^ 48)
  | 0x00C => decide (v ≤ 5)
  | 0x00D => decide (v < 32)
  | 0x00E => decide (v < 16)
  | 0x00F => decide (v < 8)
  | _ => false

-- The tile store (R110, R111, R249 to R251, R292)

/-- The task's tile store answers: no bank of the spire wakes, and its pages carry the tag of mode `m` where its space checks tags. -/
def Readable (s : State) (m : Nat) (offs : List Nat) : Prop :=
  (s.spire s.iss.sp).waking = [] ∧
  (s.cx.res.lck = true → ∀ e ∈ offs, (s.spire s.iss.sp).mem.touchedAt (physTs s.cx.res.tsb m e) = true →
    (s.spire s.iss.sp).mem.tagAt (physTs s.cx.res.tsb m e) = m)
/-- Bytes within the task's allocation. -/
def Inside (s : State) (offs : List Nat) : Prop := ∀ e ∈ offs, e < s.cx.res.tsp * 0x4000

/-- The active bytes of a `vld` or `vst` (R250). -/
def activeOffs (s : State) (f : VMem) (e : Nat) : List Nat :=
  ((List.range 512).filter fun j => (s.cx.mask f.k).getLsbD (j / 2 ^ f.g.val)).map (e + ·)
/-- The active elements of a `vldx` or `vstx` as (lane, offset) (R251). -/
def activeElems (s : State) (f : VIdx) (t : Fmt) (base : Entry) (ix : Vec) : List (Nat × Nat) :=
  ((List.range (min (lanes t) 128)).filter fun i => (s.cx.mask f.k).getLsbD i).map fun i =>
    (i, base.toNat + ix.toNat / 2 ^ (32 * i) % 2 ^ 32 * (t.width / 8))
def elemOffs (t : Fmt) (l : List (Nat × Nat)) : List Nat := l.flatMap fun p => (List.range (t.width / 8)).map (p.2 + ·)

/-- The context with a tile-store write on its way: bytes at relative offsets under mode m, landing `delay` sc later and setting the tags
of the pages they touch; nothing for an empty list. -/
def withStore (s : State) (y : Ctx) (m : Nat) (l : List (Nat × Byte)) (delay : Nat) : Ctx :=
  if l = [] then y
  else { y with tsw := y.tsw ++ [⟨.bytes (l.map fun p => (physTs s.cx.res.tsb m p.1, p.2))
    (tagsOf m (l.map fun p => physTs s.cx.res.tsb m p.1)), delay, s.iss.slot, s.iss.num, s.cx.res.tid, s.cx.res.tsb⟩] }

/-- Byte j of a vector. -/
def byteOf (v : Vec) (j : Nat) : Byte := BitVec.ofNat 8 (v.toNat / 2 ^ (8 * j))

end Sys2Proof.Spec

/-- R220, R221 (Table 07-10): outside a loop body, with a target inside the code, each control transfer completes; R188, R222: `loop` outside a
loop sets LB, LC and the loop, and with a trip count of 0 skips the body. -/
def Obligations.ControlTransfersAndLoops : Prop :=
  (∀ s : State, s.Clean → s.cx.inBody s.iss.off = false →
    (∀ (imm : Fin 1048576), InCode s (s.iss.off + 16 * Int.bmod imm (2 ^ 20)) →
      Sets (.br imm) s s.cx (toward s (s.iss.off + 16 * Int.bmod imm (2 ^ 20)))) ∧
    (∀ (cc : BCond) (a : SrcS) (imm : Fin 16384) (e : Entry) (y : Ctx), take (.s a) s.cx = some (.s e, y) →
      (branches cc e = false → Sets (.brc cc a imm) s y s.iss) ∧
      (branches cc e = true → InCode s (s.iss.off + 16 * Int.bmod imm (2 ^ 14)) →
        Sets (.brc cc a imm) s y (toward s (s.iss.off + 16 * Int.bmod imm (2 ^ 14))))) ∧
    (∀ (a : SrcS) (e : Entry) (y : Ctx), take (.s a) s.cx = some (.s e, y) → InCode s (e.toNat % 2 ^ 32 : Nat) →
      Sets (.jmp a) s y (toward s (e.toNat % 2 ^ 32 : Nat))) ∧
    (∀ (imm : Fin 1048576), InCode s (s.iss.off + 16 * Int.bmod imm (2 ^ 20)) → s.cx.rstk.length < 16 →
      Sets (.call imm) s { s.cx with rstk := .call (s.iss.off + 16) :: s.cx.rstk } (toward s (s.iss.off + 16 * Int.bmod imm (2 ^ 20)))) ∧
    (∀ (ra : Nat) (r : List RFrame), s.cx.rstk = .call ra :: r → Sets .ret s { s.cx with rstk := r } (toward s ra))) ∧
  (∀ (s : State) (a : Fin 32) (n : Fin 64) (e : Entry) (y : Ctx), s.Clean → s.cx.loop = none → take (popSrc a) s.cx = some (.s e, y) →
    s.iss.off + 16 * (n.val + 2) < s.cx.res.nlen →
    (e.toNat % 2 ^ 32 = 0 → Sets (.loop a n) s { y with lb := 0, lc := 0 } (toward s (s.iss.off + 16 * (n.val + 2) : Nat))) ∧
    (e.toNat % 2 ^ 32 ≠ 0 → ∃ t, exec (.loop a n) s = .next t ∧ t.iss = s.iss ∧
      t.cx = { y with lb := e.toNat % 2 ^ 32, lc := 0, loop := some ⟨s.iss.off + 16, n.val + 1, 0, s.cx.depth⟩ } ∧
      (t.spire s.iss.sp).loopOwner = some ((s.spire s.iss.sp).loopOwner.getD s.iss.c) ∧
      { t with spires := [] } = { s with spires := [] } ∧ (∀ m c, m ≠ s.iss.sp ∨ c ≠ s.iss.c → t.ctx m c = s.ctx m c) ∧
      ∀ m, { t.spire m with ctxs := [], loopOwner := none } = { s.spire m with ctxs := [], loopOwner := none }))

/-- R57, R225, R423: `yield` waits for the other READY contexts of its spire; `trap`, and `brk` without a debugger, freeze the context
after the bundle with EFF = 1 and ROFF the next bundle; `brk` under a debugger halts it. -/
def Obligations.YieldTrapAndBrk : Prop :=
  ∀ s : State, s.cx.loop = none → s.iss.inl = none →
    (∃ t, exec .yield s = .next t ∧ BundleFrame s t ∧ t.ctx s.iss.sp s.iss.c = { after s with
      st := if s.cx.st = .halt then .halt else .wait
      wait := some (.yield ((List.range 8).filter fun k => k != s.iss.c && (s.ctx s.iss.sp k).st == .ready)) }) ∧
    (∀ imm : Fin 1048576, ∃ t r, exec (.trap imm) s = .next t ∧ BundleFrame s t ∧ Posted t s.iss.sp r ∧
      t.ctx s.iss.sp s.iss.c = frozenAt (after s) (s.iss.target.getD s.iss.next) ∧
      (r.tcls, r.tsub, r.slot, r.ctx, r.spn) = (16, 1, s.iss.slot, s.iss.c, s.iss.sp) ∧ (r.eff, r.deff, r.frz) = (true, false, true) ∧
      (r.boff, r.roff) = (s.iss.off, s.iss.target.getD s.iss.next) ∧ r.detail = [(0x40, 4, imm.val)]) ∧
    (∀ imm : Fin 1048576, s.debugged s.cx = false → ∃ t r, exec (.brk imm) s = .next t ∧ BundleFrame s t ∧ Posted t s.iss.sp r ∧
      t.ctx s.iss.sp s.iss.c = frozenAt (after s) (s.iss.target.getD s.iss.next) ∧
      (r.tcls, r.tsub, r.slot, r.ctx, r.spn) = (15, 1, s.iss.slot, s.iss.c, s.iss.sp) ∧ (r.eff, r.deff, r.frz) = (true, false, true) ∧
      (r.boff, r.roff) = (s.iss.off, s.iss.target.getD s.iss.next) ∧ r.detail = [(0x40, 4, imm.val)]) ∧
    (∀ imm : Fin 1048576, s.debugged s.cx = true → ∃ t, exec (.brk imm) s = .next t ∧ BundleFrame s t ∧
      t.ctx s.iss.sp s.iss.c = { after s with st := .halt })

/-- R77, R224: a `tend` without an open outer pair before its bundle retires a task that runs no inline task: its context is FREE and its queues are empty,
its weight is in the spire's return accumulator, its launch slot is told; in an inline task it brings back the forker's state. -/
def Obligations.TendRetiresTheTask : Prop :=
  ∀ s : State, s.before.sys.opv = false → s.cx.loop = none → s.iss.inl = none →
    (s.cx.depth = 0 → ∃ t, exec .tend s = .next t ∧ t.mem = s.mem ∧
      t.ctx s.iss.sp s.iss.c = { Ctx.reset with tsw := s.cx.tsw, dtrap := s.cx.dtrap } ∧
      (∀ n c, n ≠ s.iss.sp ∨ c ≠ s.iss.c → t.ctx n c = s.ctx n c) ∧
      .launchRetire (Fin.ofNat 4 s.cx.res.ltwr) (Fin.ofNat 64 s.cx.res.lslot) ∈ t.agenda ∧
      (s.cx.sys.cls ≠ 0 → s.cx.sys.wgt ≠ 0 → ∃ a ∈ (t.spire s.iss.sp).racc, a.h = s.cx.sys.cls ∧
        a.sum = s.cx.sys.wgt + (match (s.spire s.iss.sp).racc.find? (fun b => b.h == s.cx.sys.cls) with
          | some b => b.sum
          | none => 0))) ∧
    (∀ (tc : List Nat) (wgt : Nat) (cls : Entry) (cver ret : Nat) (r : List RFrame), s.cx.depth ≠ 0 →
      splitFork s.cx.rstk = some (.fork tc wgt cls cver ret, r) → ∃ t, exec .tend s = .next t ∧ t.mem = s.mem ∧
      let x := t.ctx s.iss.sp s.iss.c
      x.rstk = r ∧ x.tc = tc ∧ x.sys.wgt = wgt ∧ x.sys.cls = cls ∧ x.sys.cvr = cver ∧ x.pc = ret ∧ x.sq = s.cx.sq ∧ x.vq = s.cx.vq)

/-- R182, R227, R228 (Table 06-6): `sysrd` pushes the register's value 2 sc later; `syswr` of a value in range is taken up, to be effective
at the start of the next sc. -/
def Obligations.SystemRegisterAccess : Prop :=
  (∀ (s : State) (d : Fin 32) (p : Nat × Nat), s.iss.bad = false → p ∈ sysRegs s →
    Completes (.sysrd d (Fin.ofNat 1024 p.1)) s s.cx (.s d) (.s (BitVec.ofNat 64 p.2)) 2 0 s.iss) ∧
  (∀ (s : State) (a : SrcS) (n : Fin 1024) (e : Entry) (y : Ctx), s.Clean → take (.s a) s.cx = some (.s e, y) →
    mayWrite s.cx n e.toNat = true → Sets (.syswr a n) s { y with syswr := y.syswr ++ [(n.val, e)] } s.iss)

/-- R17: `sysrd` of SPN (number 0x011) pushes the spire's own number; `syswr` of it is ILLEGAL at the check of its slot, and its meaning freezes
the context before the bundle. -/
def Obligations.SpireNumberIsReadOnly : Prop :=
  (∀ (s : State) (d : Fin 32), s.iss.bad = false → Completes (.sysrd d 0x011) s s.cx (.s d) (.s (BitVec.ofNat 64 s.iss.sp)) 2 0 s.iss) ∧
  (∀ (s : State) (h : Header) (k w : Nat) (a : SrcS), decodeSlot k w = .ok (.syswr a 0x011) → ∃ c, s.slotCheck h k w = .error c ∧ c.cls = 1) ∧
  ∀ (s : State) (a : SrcS) (e : Entry) (y : Ctx) (q : Spire), s.Clean → take (.s a) s.cx = some (.s e, y) → s.iss.pre = some q →
    ∃ t r, exec (.syswr a 0x011) s = .next t ∧ t.mem = s.mem ∧ Posted t s.iss.sp r ∧ (r.tcls, r.eff) = (1, false) ∧
      t.ctx s.iss.sp s.iss.c = { q.ctx s.iss.c with st := .frozen, stall := none, stepping := none, halting := false, pc := s.iss.off }

/-- R229, R415, R416: `chk` above the coverage level, or of equal values, only pops; else the context freezes with CHECK/0x01 and the
spire's CHKN counts, up to 2^32 - 1. -/
def Obligations.ChkComparesItsSources : Prop :=
  ∀ (s : State) (p : Src2) (l : Fin 4) (v w : Entry) (y : Ctx), s.Clean → takeAll [.s p.a, .s p.b] s.cx = some ([.s v, .s w], y) →
    (s.cx.res.cov < l ∨ v = w → Sets (.chk p l) s y s.iss) ∧
    (∀ q : Spire, ¬(s.cx.res.cov < l ∨ v = w) → s.iss.pre = some q → ∃ t r, exec (.chk p l) s = .next t ∧
      (t.spire s.iss.sp).chkn = min ((s.spire s.iss.sp).chkn + 1) (2 ^ 32 - 1) ∧ Posted t s.iss.sp r ∧
      t.ctx s.iss.sp s.iss.c = frozenAt (q.ctx s.iss.c) s.iss.off ∧ (r.tcls, r.tsub, r.eff) = (13, 1, false) ∧
      r.detail = [(0x40, 8, v.toNat), (0x48, 8, w.toNat), (0x50, 4, l.val), (0x54, 4, min ((s.spire s.iss.sp).chkn + 1) (2 ^ 32 - 1))])

/-- R249 to R251, R292 with R110, R111 and R118: the tile-store reads sample in the next sc and land 6, 10 and 4 sc after issue; their bytes
are those of the physical offsets that R111 gives. -/
def Obligations.TileStoreReads : Prop :=
  ∀ s : State, s.Clean →
    (∀ (f : VMem) (base : Entry) (y : Ctx), take (.s f.s) s.cx = some (.s base, y) →
      (base.toNat + 512 * f.imm) % 64 = 0 → Inside s (activeOffs s f (base.toNat + 512 * f.imm)) →
      Readable s f.swz (activeOffs s f (base.toNat + 512 * f.imm)) →
      Completes (.vld f) s y (.v f.d) (.sampV ((List.range 512).map fun j =>
        if (s.cx.mask f.k).getLsbD (j / 2 ^ f.g.val) then some (physTs s.cx.res.tsb f.swz (base.toNat + 512 * f.imm + j)) else none)) 6 0 s.iss) ∧
    (∀ (f : VIdx) (t : Fmt) (base : Entry) (ix : Vec) (y : Ctx), takeAll [.s f.s, .v f.b] s.cx = some ([.s base, .v ix], y) →
      (∀ p ∈ activeElems s f t base ix, p.2 % (t.width / 8) = 0) → Inside s (elemOffs t (activeElems s f t base ix)) → 8 ≤ t.width →
      Readable s s.cx.sys.tsw (elemOffs t (activeElems s f t base ix)) →
      Completes (.vldx f t) s y (.v f.d) (.sampV ((List.range 512).map fun j =>
        ((activeElems s f t base ix).find? fun p => p.1 == j / (t.width / 8)).map fun p =>
          physTs s.cx.res.tsb s.cx.sys.tsw (p.2 + j % (t.width / 8)))) 10 0 s.iss) ∧
    (∀ (d : Fin 32) (a : SrcS) (imm : Fin 256) (t : Fmt) (base : Entry) (y : Ctx), take (.s a) s.cx = some (.s base, y) → 8 ≤ t.width →
      let e := base.toNat + imm.val * (t.width / 8)
      let offs := (List.range (t.width / 8)).map (e + ·)
      e % (t.width / 8) = 0 → Inside s offs → Readable s s.cx.sys.tsw offs →
      Completes (.ldTs d a imm t) s y (.s d) (.sampS (offs.map fun o => some (physTs s.cx.res.tsb s.cx.sys.tsw o)) (isSigned t)) 4 0 s.iss)

/-- R250, R251, R292: the tile-store writes send exactly their active bytes, to the physical offsets that R111 gives, 2, 4 and 2 sc later. -/
def Obligations.TileStoreWrites : Prop :=
  ∀ s : State, s.Clean → (s.spire s.iss.sp).waking = [] →
    (∀ (f : VMem) (base : Entry) (v : Vec) (y : Ctx), takeAll [.s f.s, popSrcV f.d] s.cx = some ([.s base, .v v], y) →
      (base.toNat + 512 * f.imm) % 64 = 0 → Inside s (activeOffs s f (base.toNat + 512 * f.imm)) →
      Sets (.vst f) s (withStore s y f.swz (((List.range 512).filter fun j => (s.cx.mask f.k).getLsbD (j / 2 ^ f.g.val)).map fun j =>
        (base.toNat + 512 * f.imm + j, byteOf v j)) 2) s.iss) ∧
    (∀ (f : VIdx) (t : Fmt) (base : Entry) (ix v : Vec) (y : Ctx),
      takeAll [.s f.s, .v f.b, popSrcV f.d] s.cx = some ([.s base, .v ix, .v v], y) → 8 ≤ t.width →
      (∀ p ∈ activeElems s f t base ix, p.2 % (t.width / 8) = 0) → Inside s (elemOffs t (activeElems s f t base ix)) →
      Sets (.vstx f t) s (withStore s y s.cx.sys.tsw ((activeElems s f t base ix).flatMap fun p =>
        (List.range (t.width / 8)).map fun j => (p.2 + j, byteOf v (p.1 * (t.width / 8) + j))) 4) s.iss) ∧
    (∀ (p : Src2) (imm : Fin 256) (t : Fmt) (base v : Entry) (y : Ctx), takeAll [.s p.a, .s p.b] s.cx = some ([.s base, .s v], y) →
      8 ≤ t.width → let e := base.toNat + imm.val * (t.width / 8)
      e % (t.width / 8) = 0 → Inside s ((List.range (t.width / 8)).map (e + ·)) →
      Sets (.stTs p imm t) s (withStore s y s.cx.sys.tsw ((List.range (t.width / 8)).map fun j =>
        (e + j, BitVec.ofNat 8 (v.toNat / 2 ^ (8 * j)))) 2) s.iss)

namespace Sys2Proof.Spec
open Sys2Proof.Machine

-- The matrix engine (R254 to R275)

/-- Only the spire of the bundle and the model's request numbers change, and of that spire only the context, the engine with its busy bits
and the requests on their way to the tower. -/
def EngineFrame (s t : State) : Prop :=
  { t with spires := [], fresh := 0, iss := .reset } = { s with spires := [], fresh := 0, iss := .reset } ∧
  (∀ n, n ≠ s.iss.sp → t.spire n = s.spire n) ∧ (∀ c, c ≠ s.iss.c → t.ctx s.iss.sp c = s.ctx s.iss.sp c) ∧
  { t.spire s.iss.sp with ctxs := [], engine := [], busy := [], out := [] } =
    { s.spire s.iss.sp with ctxs := [], engine := [], busy := [], out := [] }

/-- The engine takes an operation: there is room in its queue of four, and no tile or latch it touches is busy (R55, R187). -/
def Free (s : State) (touch : List (Bool × Nat)) : Prop :=
  (s.spire s.iss.sp).engine.length < 4 ∧ ∀ b ∈ (s.spire s.iss.sp).busy, (b.latch, b.n) ∉ touch

/-- An M-class operation enters the engine: sources popped, `m` last in the queue, busy bits of what it writes set; `y` is the context then. -/
def Enters (ins : Instr) (s : State) (y : Ctx) (m : MOp) (writes : List (Bool × Nat)) (more : List Req) : Prop :=
  ∃ t, exec ins s = .next t ∧ t.cx = y ∧ (t.spire s.iss.sp).engine = (s.spire s.iss.sp).engine ++ [m] ∧
    (t.spire s.iss.sp).busy = (s.spire s.iss.sp).busy ++ writes.map (fun w => ⟨w.1, w.2, s.iss.c, s.cx.res.tid, none⟩) ∧
    (t.spire s.iss.sp).out = (s.spire s.iss.sp).out ++ more ∧ EngineFrame s t

/-- The tile and latch names of a task as absolute numbers (R113, R183): the field with its lend bits, inside the allocation. -/
def tile (s : State) (n : Nat) : Nat := s.cx.res.accB + n
def inAcc (s : State) (n : Nat) : Prop := n < s.cx.res.accN
def lat (s : State) (l : Fin 4) : Nat := s.cx.res.latB + l
def inLat (s : State) (l : Fin 4) : Prop := l.val < s.cx.res.latN
/-- A tile-store region that the operation may read or write (R256). -/
def Region (s : State) (off : Entry) (n : Nat) : Prop :=
  off.toNat % 256 = 0 ∧ off.toNat + n ≤ s.cx.res.tsp * 0x4000 ∧ (s.spire s.iss.sp).waking = []

/-- A context that waits for a deferred result of the M or X class into a scalar or vector register, under the number `tag` (R178). -/
def expecting (s : State) (y : Ctx) (d : Dest) (least tag : Nat) : Ctx :=
  if d = .s 0 then y
  else { y with deferred := y.deferred ++ [⟨d, none, least, s.iss.num, s.iss.slot, s.iss.off, tag⟩] }

end Sys2Proof.Spec

/-- R254 to R260, R266 to R268: `mma`, `mma.v`, `lat.ld`, `lat.clr`, `aclr`, `aload` and `astat.clr` enter the engine with what they captured,
and set the busy bits of the tile or latch that they write. -/
def Obligations.EngineOperationsEnterTheQueue : Prop :=
  ∀ s : State, s.Clean →
    (∀ (d : Fin 32) (a : SrcS) (ta : Bool) (l : Fin 4) (zs ft : Bool) (pair k : Fin 16) (off : Entry) (y : Ctx),
      take (.s a) s.cx = some (.s off, y) → inAcc s (s.accD d) → inLat s l →
      let m := s.mop (.mmaTs d a ta l zs ft pair k)
      Region s off m.mma.aBytes → Free s [(false, tile s (s.accD d)), (true, lat s l)] →
      Enters (.mmaTs d a ta l zs ft pair k) s y { m with a := off.toNat, d := tile s (s.accD d), l := lat s l } [(false, tile s (s.accD d))] []) ∧
    (∀ (d : Fin 32) (a : SrcV) (rp : Fin 64) (l : Fin 4) (zs ft : Bool) (pair : Fin 16) (v : Vec) (y : Ctx),
      take (.v a) s.cx = some (.v v, y) → inAcc s (s.accD d) → inLat s l → Free s [(false, tile s (s.accD d)), (true, lat s l)] →
      Enters (.mmaV d a rp l zs ft pair) s y { s.mop (.mmaV d a rp l zs ft pair) with vec := v, d := tile s (s.accD d), l := lat s l }
        [(false, tile s (s.accD d))] []) ∧
    (∀ (l : Fin 4) (a : SrcS) (tr : Bool) (t : Fmt) (off : Entry) (y : Ctx), take (.s a) s.cx = some (.s off, y) → inLat s l →
      Region s off (if t = .q4 then 0x8800 else 0x8000) → Free s [(true, lat s l)] →
      Enters (.latLd l a tr t) s y { s.mop (.latLd l a tr t) with a := off.toNat, l := lat s l } [(true, lat s l)] []) ∧
    (∀ l : Fin 4, inLat s l → Free s [(true, lat s l)] →
      Enters (.latClr l) s s.cx { s.mop (.latClr l) with l := lat s l } [(true, lat s l)] []) ∧
    (∀ d : Fin 32, inAcc s (s.accD d) → Free s [(false, tile s (s.accD d))] →
      Enters (.aclr d) s s.cx { s.mop (.aclr d) with d := tile s (s.accD d) } [(false, tile s (s.accD d))] [] ∧
      ∀ k : Fin 32, Enters (.astatClr d k) s s.cx { s.mop (.astatClr d k) with d := tile s (s.accD d) } [(false, tile s (s.accD d))] []) ∧
    (∀ (d : Fin 32) (a : SrcS) (t : Fmt) (off : Entry) (y : Ctx), take (.s a) s.cx = some (.s off, y) → inAcc s (s.accD d) →
      Region s off (16384 * t.width / 8) → Free s [(false, tile s (s.accD d))] →
      Enters (.aload d a t) s y { s.mop (.aload d a t) with a := off.toNat, d := tile s (s.accD d) } [(false, tile s (s.accD d))] [])

/-- R268 to R270, R272, R273: `amov.v`, `astat` and `fmt.rd` enter the engine and await a deferred result; `adrain` enters it with its rounding
captured; `mbar` completes where the context has nothing in the engine and stalls where it has. -/
def Obligations.EngineReadsAndDrains : Prop :=
  ∀ s : State, s.Clean →
    (∀ (v : Fin 16) (a : Fin 32) (row : Fin 128), inAcc s (s.accA a) → Free s [(false, tile s (s.accA a))] →
      Enters (.amovV v a row) s (expecting s s.cx (.v v) 6 s.fresh) { s.mop (.amovV v a row) with d := tile s (s.accA a) } [] []) ∧
    (∀ d a : Fin 32, inAcc s (s.accA a) → Free s [(false, tile s (s.accA a))] →
      Enters (.astat d a) s (expecting s s.cx (.s d) 6 s.fresh) { s.mop (.astat d a) with d := tile s (s.accA a) } [] []) ∧
    (∀ (d : Fin 32) (e : Fin 16), Free s [] →
      Enters (.fmtRd d e) s (expecting s s.cx (.s d) 6 s.fresh) { s.mop (.fmtRd d e) with fe := s.cx.fentry e } [] []) ∧
    (∀ (d : Fin 32) (a : SrcS) (is : Bool) (bt : BT) (sat ft : Bool) (r : Rm) (t : Fmt) (off : Entry) (y : Ctx),
      take (.s a) s.cx = some (.s off, y) → inAcc s (s.accD d) →
      let m := s.mop (.adrain d a is bt sat ft r t)
      Region s off (16384 * m.drainTo.fmt.width / 8 + if m.drainTo.fmt = .q4 then 0x200 else 0) → Free s [(false, tile s (s.accD d))] →
      Enters (.adrain d a is bt sat ft r t) s y { m with a := off.toNat, d := tile s (s.accD d), rm := s.drainRm m } [] []) ∧
    ((s.spire s.iss.sp).ownEngine s.iss.c = false → exec .mbar s = .next s) ∧
    ((s.spire s.iss.sp).ownEngine s.iss.c = true → exec .mbar s = .next (s.stallWith .mbar))

/-- R263 to R265, R271, R272: `mma.h`, `lat.ldh` and `adrainh` enter the engine and send their object's request to the tower; `fmt.ld` samples
its entries at issue, to replace the old ones at the start of the next sc. -/
def Obligations.EngineObjectOperations : Prop :=
  ∀ s : State, s.Clean →
    (∀ (d : Fin 32) (p : Src2) (l : Fin 4) (zs : Bool) (k : Fin 16) (h ix : Entry) (y : Ctx),
      takeAll [.s p.a, .s p.b] s.cx = some ([.s h, .s ix], y) → (∃ q ∈ s.cx.pins, q.h = h) → inAcc s (s.accD d) → inLat s l →
      Free s [(false, tile s (s.accD d)), (true, lat s l)] →
      ∃ q : Req, q.ins = .mmaH d p l zs k ∧ q.a = h ∧ q.b = ix ∧ q.tag = s.fresh ∧ q.tid = s.cx.res.tid ∧
      Enters (.mmaH d p l zs k) s y { s.mop (.mmaH d p l zs k) with h := h, b := ix, d := tile s (s.accD d), l := lat s l, arrived := false }
        [(false, tile s (s.accD d))] [q]) ∧
    (∀ (l : Fin 4) (p : Src2) (h ix : Entry) (y : Ctx),
      takeAll [.s p.a, .s p.b] s.cx = some ([.s h, .s ix], y) → (∃ q ∈ s.cx.pins, q.h = h) → inLat s l → Free s [(true, lat s l)] →
      ∃ q : Req, q.ins = .latLdh l p ∧ q.a = h ∧ q.b = ix ∧ q.tag = s.fresh ∧ q.tid = s.cx.res.tid ∧
      Enters (.latLdh l p) s y { s.mop (.latLdh l p) with h := h, b := ix, l := lat s l, arrived := false } [(true, lat s l)] [q]) ∧
    (∀ (d : Fin 32) (p : Src2) (sat : Bool) (c : SrcS) (h ix b : Entry) (y : Ctx),
      takeAll [.s p.a, .s p.b, .s c] s.cx = some ([.s h, .s ix, .s b], y) → (∃ q ∈ s.cx.drafts, q.1 = h) →
      (c.q = 0 ∨ (b.toNat % 16 = 0 ∧ b.toNat + 16 ≤ s.cx.res.tsp * 0x4000)) → inAcc s (s.accD d) → Free s [(false, tile s (s.accD d))] →
      let m := s.mop (.adrainh d p sat c)
      ∃ q : Req, q.ins = .adrainh d p sat c ∧ q.a = h ∧ q.b = ix ∧ q.tag = s.fresh ∧ q.tid = s.cx.res.tid ∧
      Enters (.adrainh d p sat c) s y { m with h := h, b := ix, d := tile s (s.accD d), rm := s.drainRm m, bar := if c.q = 0 then none else some b.toNat, arrived := false } [] [q]) ∧
    (∀ (a : SrcS) (first n : Fin 16) (off : Entry) (y : Ctx), take (.s a) s.cx = some (.s off, y) → off.toNat % 8 = 0 →
      let offs := (List.range (8 * (n.val + 1))).map (off.toNat + ·)
      Inside s offs → Readable s s.cx.sys.tsw offs → (s.spire s.iss.sp).mem.poison = [] → Free s [] →
      Enters (.fmtLd a first n) s { y with syswr := y.syswr ++ (List.range (n.val + 1)).map fun k =>
        (1024 + first.val + k, BitVec.ofNat 64 ((s.spire s.iss.sp).mem.readTs s.cx.res.tsb s.cx.sys.tsw (off.toNat + 8 * k) 8)) }
        (s.mop (.fmtLd a first n)) [] [])

namespace Sys2Proof.Spec
open Sys2Proof.Machine

/-- m is at the head of the engine of spire sp, its data is here, its occupancy has not begun, and its context does not stand halted (R254, R264, R274). -/
structure MayStart (s : State) (sp : Fin 128) (m : MOp) (r : List MOp) : Prop where
  head : (s.spire sp).engine = m :: r
  ready : m.left = none ∧ m.arrived = true
  goes : (s.spire sp).stands m.c m.tid = false
  alone : ∀ o ∈ r, o.num ≠ m.num
/-- Its occupancy of n sc begins and the spire's stores become x; DRAM, the objects and the stores of every other spire stay. -/
def Begins (s : State) (sp : Fin 128) (m : MOp) (r : List MOp) (n : Nat) (x : SpireMem) (more : State → Prop) : Prop :=
  ∃ t, exec (.matrixOpStart sp) s = .next t ∧ (t.mem, t.objs) = (s.mem, s.objs) ∧ (t.spire sp).engine = { m with left := some n } :: r ∧
    (t.spire sp).mem = x ∧ (∀ k, k ≠ sp.val → (t.spire k).mem = (s.spire k).mem) ∧ more t
/-- It begins, its deferred result v available to its task (R178). -/
def Answers (s : State) (sp : Fin 128) (m : MOp) (r : List MOp) (v : RVal) : Prop :=
  Begins s sp m r 2 (s.spire sp).mem fun t => (s.ctx sp m.c).st ≠ .free → (s.ctx sp m.c).res.tid = m.tid →
    (t.ctx sp m.c).deferred = ((s.ctx sp m.c).answer m.num v).deferred
/-- It leaves the engine with cause k for its task, a deferred trap; no store changes (R265, R275). -/
def Fails (s : State) (sp : Fin 128) (m : MOp) (r : List MOp) (k : Cause) : Prop :=
  ∃ t, exec (.matrixOpStart sp) s = .next t ∧ (t.mem, t.objs) = (s.mem, s.objs) ∧ (t.spire sp).engine = r ∧ (t.spire sp).mem = (s.spire sp).mem ∧
    (t.ctx sp m.c).dtrap = (s.ctx sp m.c).dtrap ++ [⟨k, m.off, m.tid⟩]
/-- The engine may read n bytes of the tile store from e: no poison, and with LCK set no page of another mode (R432, R442). -/
def ReadsFine (s : State) (sp : Fin 128) (m : MOp) (e n : Nat) : Prop :=
  (s.spire sp).mem.poison = [] ∧ (m.lck = true → ∀ o ∈ pagesOf e n, (s.spire sp).mem.touchedAt (physTs m.tsb m.swz o) = true →
    (s.spire sp).mem.tagAt (physTs m.tsb m.swz o) = m.swz)
/-- The bytes it reads. -/
def tsBytes (s : State) (sp : Fin 128) (m : MOp) (n : Nat) : Array Byte := (s.spire sp).mem.tsArray m.tsb m.swz m.a n
/-- Element (i, n) of the tile of an `mma` after it, and its status: row i of A against column n of the latch (R261, R266). -/
def mmaAt (s : State) (sp : Fin 128) (m : MOp) (av : Nat → Nat → FV) (i n : Nat) : BitVec 32 × Nat :=
  let mem := (s.spire sp).mem
  let b := m.mma.b
  mmaElem m.mma m.nvr ((mem.tile m.d).getD (i * 128 + n) 0) ((List.range m.mma.k).map (av i)) ((List.range m.mma.k).map fun k =>
    mmaVal b (codeAt (mem.latch m.l) ((n * kmaxOf b.width + k) * b.width) b.width) ((mem.latchSc m.l).getD (n * 16 + k / 32) 0).toNat)
/-- An `mma` on those rows begins: their elements and the tile's status change, and nothing else in the stores. -/
def Accumulates (s : State) (sp : Fin 128) (m : MOp) (r : List MOp) (rows : List Nat) (av : Nat → Nat → FV) : Prop :=
  let mem := (s.spire sp).mem
  ∃ x : SpireMem, Begins s sp m r m.mma.occupancy x (fun _ => True) ∧ { x with acc := [], accSt := [] } = { mem with acc := [], accSt := [] } ∧
    (∀ i n, i < 128 → n < 128 → (x.tile m.d).getD (i * 128 + n) 0 =
      if i ∈ rows then (mmaAt s sp m av i n).1 else (mem.tile m.d).getD (i * 128 + n) 0) ∧
    x.status m.d = (rows.flatMap fun i => (List.range 128).map fun n => (mmaAt s sp m av i n).2).foldl stOr (mem.status m.d)

end Sys2Proof.Spec

/-- R187, R254, R257, R261 to R271: the operation at the head of the engine starts once its data is here and its context does not stand halted: what every
operation of the engine does then, or the deferred trap that it ends in; a running one loses one sc of its occupancy, and at its end leaves the engine; the
busy bit of an `mma` stays for 12 sc more. -/
def Obligations.EngineEventsRunTheHead : Prop :=
  (∀ (s : State) (sp : Fin 128) (m : MOp) (r : List MOp), MayStart s sp m r → let mem := (s.spire sp).mem
    match m.ins with
      | .mmaTs _ _ _ _ _ _ _ _ => ReadsFine s sp m m.a m.mma.aBytes → Accumulates s sp m r (List.range 128) (m.mma.aAt (tsBytes s sp m m.mma.aBytes))
      | .mmaV _ _ rp _ _ _ _ => mem.poison = [] → Accumulates s sp m r [2 * rp.val, 2 * rp.val + 1] fun i k =>
          mmaVal m.mma.a (lane m.mma.a.width m.vec (i % 2 * m.mma.k + k)) 0
      | .mmaH _ _ _ _ _ => mem.poison = [] → (∀ c ∈ m.data.getD [], c.2 = false) → let v (j : Nat) : Nat := (((m.data.getD []).map (·.1))[j]?).getD 0
          Accumulates s sp m r (List.range 128) fun i k =>
            mmaVal m.mma.a (v (i * m.mma.k + k)) (v (128 * m.mma.k + i * (m.mma.k / 32) + k / 32))
      | .latLd _ _ tr f => ReadsFine s sp m m.a (latRegion f) → Begins s sp m r 32 (latchFrom f tr (tsBytes s sp m (latRegion f)) mem m.l) fun _ => True
      | .latLdh _ _ => (∀ c ∈ m.data.getD [], c.2 = false) →
          Begins s sp m r 1 (latchFetched ((Fmt.ofCode m.a).getD .z8) ((m.data.getD []).map (·.1)).toArray mem m.l) fun _ => True
      | .latClr _ => ∃ x, Begins s sp m r 2 x (fun _ => True) ∧ (∀ k < 32768, cellGet x.lat (m.l * 32768 + k) = 0) ∧ (x.ts, x.acc) = (mem.ts, mem.acc)
      | .aclr _ => ∃ x, Begins s sp m r 2 x (fun _ => True) ∧ x.status m.d = 0 ∧ (∀ k < 16384, cellGet x.acc (m.d * 16384 + k) = 0) ∧
          (x.ts, x.lat) = (mem.ts, mem.lat)
      | .aload _ _ f => ReadsFine s sp m m.a (accWords * f.width / 8) → Begins s sp m r (accWords * f.width / 8 / 1024)
          (mem.setTile m.d fun k => aloadElem f (codeAt (tsBytes s sp m (accWords * f.width / 8)) (k * f.width) f.width)) fun _ => True
      | .amovV _ _ row => mem.poison = [] → Answers s sp m r (.v (ofLanes 32 ((List.range 128).map fun n => ((mem.tile m.d).getD (row.val * 128 + n) 0).toNat)))
      | .astat _ _ => Answers s sp m r (.s (BitVec.ofNat 64 (mem.status m.d)))
      | .fmtRd _ _ => Answers s sp m r (.s m.fe)
      | .astatClr _ k => Begins s sp m r 2 (mem.setStatus m.d (mem.status m.d &&& (31 - k.val))) fun _ => True
      | .adrain _ _ _ _ _ _ _ _ => mem.poison = [] → let d := m.drainTile (mem.tile m.d)
          (∀ e ∈ d.events, nxeHas m.nxe e.2 = false) → Begins s sp m r 64 (mem.setStatus m.d (stOr (mem.status m.d) d.st)) fun t =>
            (t.spire sp).drain = (s.spire sp).drain ++ [⟨m.tsb, m.swz, m.a, drainBytes m.drainTo.fmt m.a d, []⟩]
      | .adrainh _ _ _ _ => ∀ a, s.aops.find? (fun a => a.id == m.num) = some a → mem.poison = [] →
          (∀ e ∈ (m.drainTile (mem.tile m.d)).events, nxeHas m.nxe e.2 = false) → (∀ k, s.copyCheck (towerOf sp) a.r a.r.pinCap ≠ .fail k) →
          Begins s sp m r 2 mem fun t => .sectorCommit m.num ∈ t.agenda
      | _ => Begins s sp m r 2 mem fun _ => True) ∧
  (∀ (s : State) (sp : Fin 128) (m : MOp) (r : List MOp) (k : Cause), MayStart s sp m r → s.runOp sp m = .error k → Fails s sp m r k) ∧
  (∀ (s : State) (sp : Fin 128) (m : MOp) (r : List MOp), (s.spire sp).engine = m :: r → m.arrived = true →
    m.left ≠ none ∨ (s.spire sp).stands m.c m.tid = true → exec (.matrixOpStart sp) s = .next s) ∧
  (∀ (s : State) (sp : Fin 128) (m : MOp) (r : List MOp) (n : Nat), (s.spire sp).engine = m :: r → m.left = some n → (∀ o ∈ r, o.num ≠ m.num) →
    (s.spire sp).stands m.c m.tid = false →
    (isDrainh m.ins = false → ∃ t, exec (.matrixOpComplete sp) s = .next t ∧ (t.mem, t.objs) = (s.mem, s.objs) ∧ (t.spire sp).mem = (s.spire sp).mem ∧
      (n ≤ 1 → (t.spire sp).engine = r ∧
        (m.isMma = true → (t.spire sp).busy = (s.spire sp).busy.map fun b => if (b.latch, b.n) ∈ m.writes then { b with left := some 12 } else b) ∧
        (m.isMma = false → (t.spire sp).busy = (s.spire sp).busy.filter fun b => (b.latch, b.n) ∉ m.writes)) ∧
      (1 < n → (t.spire sp).engine = { m with left := some (n - 1) } :: r ∧ (t.spire sp).busy = (s.spire sp).busy)) ∧
    (isDrainh m.ins = true →
      (n = 1 → ∃ t, exec (.matrixOpComplete sp) s = .next t ∧ (t.mem, t.objs) = (s.mem, s.objs) ∧ (t.spire sp).engine = r ∧ (t.spire sp).mem =
        (s.spire sp).mem.setStatus m.d (stOr ((s.spire sp).mem.status m.d) (m.drainTile ((s.spire sp).mem.tile m.d)).st)) ∧
      (n ≠ 1 → (∃ a ∈ s.aops, a.id = m.num) → exec (.matrixOpComplete sp) s = .next s) ∧
      (n ≠ 1 → (∀ a ∈ s.aops, a.id ≠ m.num) → ∃ t, exec (.matrixOpComplete sp) s = .next t ∧ (t.mem, t.objs) = (s.mem, s.objs) ∧
        (t.spire sp).engine = r ∧ (t.spire sp).mem = (s.spire sp).mem))) ∧
  (∀ (s : State) (sp : Fin 128), ∃ t, exec (.busyBitClear sp) s = .next t ∧
    { t with spires := [] } = { s with spires := [] } ∧ (∀ n, n ≠ sp.val → t.spire n = s.spire n) ∧
    { t.spire sp with busy := [] } = { s.spire sp with busy := [] } ∧ (t.spire sp).busy =
      ((s.spire sp).busy.filter fun b => b.left.all (1 < ·) || (s.spire sp).stands b.c b.tid).map fun b =>
        if (s.spire sp).stands b.c b.tid then b else { b with left := b.left.map (· - 1) })

namespace Sys2Proof.Spec
open Sys2Proof.Machine

-- Slot 3 (R276 to R327)

/-- The request that an operation sends to its tower's HRU, with the operands sampled at issue. -/
def reqOf (s : State) (i : Instr) (a b : Entry) (eidx : Nat) (words : List Entry) : Req :=
  ⟨i, s.iss.sp, s.iss.c, s.cx.res.tid, s.cx.sys.sid, s.iss.off, s.iss.slot, s.iss.scope, a, b, eidx, words, s.fresh⟩

/-- An operation that sends a request: its context becomes `y`, the request is the last one on its way; the engine stays as it was. -/
def Sends (ins : Instr) (s : State) (y : Ctx) (q : Req) : Prop :=
  ∃ t, exec ins s = .next t ∧ t.cx = y ∧ (t.spire s.iss.sp).out = (s.spire s.iss.sp).out ++ [q] ∧
    (t.spire s.iss.sp).engine = (s.spire s.iss.sp).engine ∧ (t.spire s.iss.sp).busy = (s.spire s.iss.sp).busy ∧ t.iss = s.iss ∧ EngineFrame s t

/-- A record of n words stands at `off`: aligned to its size, inside the allocation, readable under mode 0, not poisoned (R281, R304). -/
def RecordAt (s : State) (off : Entry) (n : Nat) : Prop :=
  off.toNat % (8 * n) = 0 ∧ off.toNat + 8 * n ≤ s.cx.res.tsp * 0x4000 ∧ Readable s 0 ((List.range (8 * n)).map (off.toNat + ·)) ∧
  (s.spire s.iss.sp).mem.poison = []
/-- Its words. -/
def recordWords (s : State) (off : Entry) (n : Nat) : List Entry := (s.spire s.iss.sp).mem.words s.cx.res.tsb off.toNat n
/-- No word of a record is bad. -/
def Good (bad : List (Nat × Bool)) : Prop := ∀ p ∈ bad, p.2 = false
/-- What every tile copy's request carries behind its record: the task's allocation, and its launch. -/
def allocWords (s : State) : List Entry :=
  [BitVec.ofNat 64 s.cx.res.tsb, BitVec.ofNat 64 s.cx.res.tsp, if s.cx.res.lck then 1 else 0,
    BitVec.ofNat 64 (s.cx.res.ltwr * 256 + s.cx.res.lslot)]

/-- Tables 10-1 and 10-3: the tile copies, with their operands, stage and whether the tower's engine performs them. -/
def copyForm : Instr → Option (Src2 × Fin 16 × Bool)
  | .tld p st => some (p, st, false)
  | .tst p st => some (p, st, false)
  | .tstW p st => some (p, st, false)
  | .tmc p st _ => some (p, st, false)
  | .tcopy p st _ => some (p, st, true)
  | .tgath p st => some (p, st, false)
  | .tscat p st _ => some (p, st, false)
  | .tfill p st _ => some (p, st, false)
  | _ => none

/-- Live words, futures and objects: sources, the register that awaits the answer, and what the request carries: handle, second operand,
element index, further words. -/
def askForm (s : State) : Instr → Option (List Src × Option (Fin 32) × (List RVal → Entry × Entry × Nat × List Entry))
  | .ldo d p _ => some ([.s p.a, .s p.b], some d, fun l => (sv l 0, sv l 1, 0, s.cx.capture (sv l 0)))
  | .cntAdd p _ e => some ([.s p.a, .s p.b], none, fun l => (sv l 0, sv l 1, s.eidx e, []))
  | .cntRd d a _ e => some ([.s a], some d, fun l => (sv l 0, 0, s.eidx e, []))
  | .atom d a b _ _ e => some ([.s a, popSrc b], some d, fun l => (sv l 0, sv l 1, s.eidx e, []))
  | .atomCas d p _ e => some ([.s p.a, .s p.b], some d, fun l => (sv l 0, sv l 1, s.eidx e, []))
  | .futNew a e => some ([.s a], none, fun l => (sv l 0, 0, s.eidx e, []))
  | .futRes p _ e => some ([.s p.a, .s p.b], none, fun l => (sv l 0, sv l 1, s.eidx e, []))
  | .objVer d a _ => some ([.s a], some d, fun l => (sv l 0, 0, 0, s.cx.capture (sv l 0)))
  | .objDesc d a k => some ([.s a], some d, fun l => (sv l 0, 0, k, []))
  | _ => none

/-- The operation acquires (Table 04-4; a counter read always does, R126). -/
def acquiring : Instr → Bool
  | .ldo _ _ o => o == .acq || o == .acqrel
  | .cntRd _ _ _ _ => true
  | .atom _ _ _ _ o _ => o == .acq || o == .acqrel
  | .atomCas _ _ o _ => o == .acq || o == .acqrel
  | .futRd _ _ o _ => o == .acq || o == .acqrel
  | _ => false
/-- The context after an operation whose answer under the number `tag` it has to acquire first, if `acq`. -/
def holdFor (acq : Bool) (tag : Nat) (y : Ctx) : Ctx := if acq then { y with acqs := y.acqs ++ [tag] } else y

/-- The context after an operation that waits: WAIT, or HALT with the wait pending while it steps (Table 02-5). -/
def waiting (y : Ctx) (w : WaitC) : Ctx := { y with wait := some w, st := if y.st = .halt then .halt else .wait }

/-- The share that a split gives and what the holder keeps, where no borrow is needed (R67). -/
def share (x : Ctx) (req : Nat) : Option (Nat × Nat) :=
  if 2 ^ 32 ≤ req then none
  else if x.sys.cls = 0 then some (0, x.sys.wgt)
  else
    let n := if req = 0 then x.sys.wgt / 2 else req
    if n = 0 ∨ x.sys.wgt ≤ n then none else some (n, x.sys.wgt - n)
/-- Who queues the launch of a `launch` with record w: the issuing task, its closure, and the counter it names (R309). -/
def asker (s : State) (w : List Entry) : Asker :=
  ⟨s.cx.sys.sid, w.getD 0 0, some (s.cx.sys.cls, 0), none, false, w.getD 2 0, bits (wordAt w 1) 16 10, wordAt w 3⟩
/-- The context after a split. -/
def splitCtx (y : Ctx) (kept : Nat) : Ctx := if y.sys.cls = 0 then y else { y with split := none, sys := { y.sys with wgt := kept } }

end Sys2Proof.Spec

/-- R276 to R282: a tile copy whose descriptor and regions are good, with room in its queue, becomes a request with the descriptor, the pin and
draft captured at issue and its allocation. -/
def Obligations.TileCopiesBecomeRequests : Prop :=
  ∀ (i : Instr) (p : Src2) (st : Fin 16) (eng : Bool) (s : State) (off ix : Entry) (y : Ctx), copyForm i = some (p, st, eng) → s.Clean →
    takeAll [.s p.a, .s p.b] s.cx = some ([.s off, .s ix], y) → RecordAt s off 16 →
    let w := recordWords s off 16
    let d : TDesc := ⟨w, st, if p.b.q = 0 then w.getD 1 0 else ix⟩
    Good (d.bad (copyUse i)) → (∀ r ∈ d.regions (copyUse i), r.1 + r.2 ≤ s.cx.res.tsp * 0x4000) →
    s.copies s.iss.sp eng < (if eng then 256 else 64) →
    Sends i s y (reqOf s i d.obj d.ix st (w ++ s.cx.capture d.obj ++ s.cx.captureDraft (if (copyUse i).obj2 then w.getD 8 0 else d.obj) ++ allocWords s))

/-- R293, R299 to R301, R310, R315: the accesses to live words, futures and objects become requests; those that answer await a deferred result,
where the tower's miss table takes them; one that acquires (R126, R131) is remembered until it has been performed. -/
def Obligations.LiveAccessesBecomeRequests : Prop :=
  (∀ (i : Instr) (srcs : List Src) (f : List RVal → Entry × Entry × Nat × List Entry) (s : State) (l : List RVal) (y : Ctx),
    askForm s i = some (srcs, none, f) → s.Clean → takeAll srcs s.cx = some (l, y) →
    Sends i s y (reqOf s i (f l).1 (f l).2.1 (f l).2.2.1 (f l).2.2.2)) ∧
  (∀ (i : Instr) (srcs : List Src) (d : Fin 32) (f : List RVal → Entry × Entry × Nat × List Entry) (s : State) (l : List RVal) (y : Ctx),
    askForm s i = some (srcs, some d, f) → s.Clean → takeAll srcs s.cx = some (l, y) → (s.hru (towerOf s.iss.sp)).accepts = true →
    Sends i s (holdFor (acquiring i) s.fresh (expecting s y (.s d) 8 s.fresh)) (reqOf s i (f l).1 (f l).2.1 (f l).2.2.1 (f l).2.2.2))

/-- R294 to R298: the barrier instructions on an aligned barrier inside the allocation: `bar.init` writes 16 bytes for each barrier, `bar.exp`
and `bar.arr` send their events, `waitb` and `ring.wait` wait; an arrival elsewhere is a request. -/
def Obligations.BarrierInstructions : Prop :=
  ∀ s : State, s.Clean → (s.spire s.iss.sp).waking = [] →
    (∀ (a : SrcS) (n : Fin 16) (off : Entry) (y : Ctx), take (.s a) s.cx = some (.s off, y) → off.toNat % 16 = 0 →
      off.toNat + 16 * (n.val + 1) ≤ s.cx.res.tsp * 0x4000 →
      Sets (.barInit a n) s (withStore s y 0 ((List.range (n.val + 1)).flatMap fun k => (List.range 16).map fun j =>
        (off.toNat + 16 * k + j, BitVec.ofNat 8 ((k * 2 ^ 108 + n.val * 2 ^ 104 + bits off.toNat 4 18 * 2 ^ 68) / 2 ^ (8 * j)))) 2) s.iss) ∧
    (∀ (p : Src2) (imm : Fin 256) (off n : Entry) (y : Ctx), takeAll [.s p.a, .s p.b] s.cx = some ([.s off, .s n], y) → off.toNat % 16 = 0 →
      off.toNat + 16 ≤ s.cx.res.tsp * 0x4000 → Sets (.barExp p imm) s
        { y with tsw := y.tsw ++ [⟨.expect (s.cx.res.tsb + off.toNat) (n.toNat % 2 ^ 32 + 256 * imm), 2, s.iss.slot, s.iss.num, s.cx.res.tid, s.cx.res.tsb⟩] } s.iss) ∧
    (∀ (p : Src2) (mask : Fin 256) (off n : Entry) (y : Ctx), takeAll [.s p.a, .s p.b] s.cx = some ([.s off, .s n], y) → off.toNat % 16 = 0 →
      off.toNat + 16 ≤ s.cx.res.tsp * 0x4000 →
      (mask.val = 2 ^ (s.iss.sp % 8) → Sets (.barArr p mask) s
        { y with tsw := y.tsw ++ [⟨.arrive (s.cx.res.tsb + off.toNat) (n.toNat % 2 ^ 32), 2, s.iss.slot, s.iss.num, s.cx.res.tid, s.cx.res.tsb⟩] } s.iss) ∧
      (mask.val.testBit (s.iss.sp % 8) = false → mask.val ≠ 0 → Sends (.barArr p mask) s y
        (reqOf s (.barArr p mask) off n mask [BitVec.ofNat 64 s.cx.res.tsb, BitVec.ofNat 64 s.cx.res.tsp,
          BitVec.ofNat 64 (s.cx.res.ltwr * 256 + s.cx.res.lslot)]))) ∧
    (∀ (a : SrcS) (ph : Bool) (off : Entry) (y : Ctx), take (.s a) s.cx = some (.s off, y) → off.toNat % 16 = 0 →
      off.toNat + 16 ≤ s.cx.res.tsp * 0x4000 → Sets (.waitb a ph) s (waiting y (.barrier off.toNat ph s.iss.off)) s.iss) ∧
    (∀ (p : Src2) (off u : Entry) (y : Ctx), takeAll [.s p.a, .s p.b] s.cx = some ([.s off, .s u], y) → off.toNat % 16 = 0 →
      ((s.spire s.iss.sp).mem.bar (s.cx.res.tsb + off.toNat)).ridx = 0 → off.toNat + 16 ≤ s.cx.res.tsp * 0x4000 →
      off.toNat + 16 * (((s.spire s.iss.sp).mem.bar (s.cx.res.tsb + off.toNat)).depth + 1) ≤ s.cx.res.tsp * 0x4000 →
      Sets (.ringWait p) s (waiting y (.ring off.toNat u.toNat s.iss.off)) s.iss)

/-- R300, R314, R315: `waitc`, `waitq` and `waitv` send their request and wait for it; `fut.rd` awaits two results; `slot.rd` answers with the
calendar word; `rel.ld` asks for its table, for which a load holds the launch's slot; `obj.pref` only reads its operands. -/
def Obligations.WaitsAndTableReads : Prop :=
  ∀ s : State, s.Clean →
    (∀ (p : Src2) (e : Fin 16) (h n : Entry) (y : Ctx), takeAll [.s p.a, .s p.b] s.cx = some ([.s h, .s n], y) →
      Sends (.waitc p e) s (waiting y (.remote s.fresh)) (reqOf s (.waitc p e) h n (s.eidx e) []) ∧
      Sends (.waitv p) s (waiting y (.remote s.fresh)) (reqOf s (.waitv p) h n 0 []) ∧
      ∀ (mig : Bool) (k : Fin 64), Sets (.objPref p mig k) s y s.iss) ∧
    (∀ (a : SrcS) (h : Entry) (y : Ctx), take (.s a) s.cx = some (.s h, y) →
      Sends (.waitq a) s (waiting y (.remote s.fresh)) (reqOf s (.waitq a) h 0 0 []) ∧
      ((s.hru (towerOf s.iss.sp)).accepts = true → ∀ (d : Fin 32) (o : Ord4) (e : Fin 16),
        Sends (.futRd d a o e) s (holdFor (o == .acq || o == .acqrel) s.fresh
          (expecting s (expecting s y (.s d) 8 s.fresh) (.s d) 8 (s.fresh + 1))) (reqOf s (.futRd d a o e) h 0 (s.eidx e) []))) ∧
    (∀ d : Fin 32, d ≠ 0 → ∃ t, exec (.slotRd d) s = .next t ∧ EngineFrame s t ∧
      (t.cx.deferred.filter fun f => f.tag == s.fresh).map (·.val) = (s.cx.deferred.filter fun f => f.tag == s.fresh).map (fun _ => some (.s (BitVec.ofNat 64 s.calendar)))
        ++ [some (.s (BitVec.ofNat 64 (s.fab.ns / 4096 % 2 ^ 52 * 2 ^ 12 + s.fab.ns / 512 % 8 * 2 ^ 9 + s.fab.ns % 512)))]) ∧
    (∀ (d : Fin 32) (p : Src2) (h n : Entry) (y : Ctx), takeAll [.s p.a, .s p.b] s.cx = some ([.s h, .s n], y) → n.toNat < 64 →
      (s.hru (towerOf s.iss.sp)).accepts = true →
      let q := reqOf s (.relLd d p) h n 0 [BitVec.ofNat 64 s.cx.res.ltwr, BitVec.ofNat 64 s.cx.res.lslot]
      (h = 0 → Sends (.relLd d p) s (expecting s y (.s d) 8 s.fresh) q) ∧
      (∀ x : Slot, h ≠ 0 → s.slot s.cx.res.ltwr s.cx.res.lslot = some x → ∃ t, exec (.relLd d p) s = .next t ∧
        t.cx = expecting s y (.s d) 8 s.fresh ∧ (t.spire s.iss.sp).out = (s.spire s.iss.sp).out ++ [q] ∧ t.mem = s.mem ∧ t.objs = s.objs ∧
        t.slot s.cx.res.ltwr s.cx.res.lslot = some { x with tables := x.tables + 1 }))

/-- R66, R314: `q.open` makes the closure's pair the current one and keeps the outer; `q.ret` returns the weight and brings the outer pair back. -/
def Obligations.ClosureOpenAndReturn : Prop :=
  (∀ (s : State) (p : Src2) (h w : Entry) (y : Ctx), s.Clean → takeAll [.s p.a, .s p.b] s.cx = some ([.s h, .s w], y) → s.cx.sys.opv = false →
    w ≠ 0 → w.toNat < 2 ^ 32 → Sends (.qOpen p) s
      { y with sys := { y.sys with ocls := s.cx.sys.cls, owgt := s.cx.sys.wgt, opv := true, cls := h, wgt := w.toNat } }
      (reqOf s (.qOpen p) h w 0 [])) ∧
  (∀ s : State, s.cx.sys.opv = true → ∃ t, exec .qRet s = .next t ∧ t.mem = s.mem ∧ t.objs = s.objs ∧
    t.cx = { s.cx with sys := { s.cx.sys with cls := s.cx.sys.ocls, wgt := s.cx.sys.owgt, ocls := 0, owgt := 0, opv := false } } ∧
    (∀ n c, n ≠ s.iss.sp ∨ c ≠ s.iss.c → t.ctx n c = s.ctx n c) ∧
    (s.cx.sys.cls ≠ 0 → s.cx.sys.wgt ≠ 0 → ∃ a ∈ (t.spire s.iss.sp).racc, a.h = s.cx.sys.cls ∧
      a.sum = s.cx.sys.wgt + (match (s.spire s.iss.sp).racc.find? (fun b => b.h == s.cx.sys.cls) with
        | some b => b.sum
        | none => 0)))

/-- R101, R103, R105, R135, R316: the draft and pin sets take and lose their entries at issue, and each instruction's request carries its handle; a pin
acquires. -/
def Obligations.DraftAndPinInstructions : Prop :=
  ∀ s : State, s.Clean → (s.hru (towerOf s.iss.sp)).accepts = true →
    (∀ (a : SrcS) (h : Entry) (y : Ctx), take (.s a) s.cx = some (.s h, y) →
      (∀ d : Fin 32, s.cx.hasDraft h = false → s.cx.drafts.length < 4 → ∃ x : Ctx, x = expecting s y (.s d) 8 s.fresh ∧
        Sends (.objOpenw d a) s { x with drafts := x.drafts ++ [(h, 2 ^ 32 + s.fresh)] } (reqOf s (.objOpenw d a) h 0 0 [])) ∧
      (∀ d : Fin 32, s.cx.hasDraft h = true →
        Sends (.objPub d a) s (waiting (expecting s y (.s d) 8 s.fresh) (.publish h)) (reqOf s (.objPub d a) h 0 0 (s.cx.captureDraft h))) ∧
      (s.cx.hasDraft h = true → Sends (.objAbandon a) s { y with drafts := y.drafts.filter (fun d => d.1 != h) }
        (reqOf s (.objAbandon a) h 0 0 (s.cx.captureDraft h))) ∧
      (∀ q : Pin, s.cx.pins.find? (fun p => p.h == h) = some q → Sends (.objUnpin a) s { y with pins := y.pins.filter (fun p => p.h != h) }
        (reqOf s (.objUnpin a) h (BitVec.ofNat 64 q.v) 0 []))) ∧
    (∀ (d : Fin 32) (p : Src2) (h v : Entry) (y : Ctx), takeAll [.s p.a, .s p.b] s.cx = some ([.s h, .s v], y) → s.cx.hasPin h = false →
      s.cx.pins.length < 16 → ∃ x : Ctx, x = expecting s y (.s d) 8 s.fresh ∧
      Sends (.objPin d p) s (holdFor true s.fresh { x with pins := x.pins ++ [⟨h, 2 ^ 32 + s.fresh, x.depth⟩] }) (reqOf s (.objPin d p) h v 0 [])) ∧
    (∀ (p : Src2) (del : Bool) (h off : Entry) (y : Ctx), takeAll [.s p.a, .s p.b] s.cx = some ([.s h, .s off], y) → RecordAt s off 2 →
      let w := recordWords s off 2
      let tk := bits (wordAt w 1) 62 2
      bits (wordAt w 1) 54 8 = 0 → (tk = 1 ∧ wordAt w 0 = 0 ∧ bits (wordAt w 1) 0 32 % 16 = 0 ∨ tk = 2 ∧ wordAt w 0 ≠ 0 ∧ bits (wordAt w 1) 32 22 = 0) →
      Sends (.objSub p del) s y (reqOf s (.objSub p del) h off 0 (w ++ [BitVec.ofNat 64 s.iss.sp, BitVec.ofNat 64 s.cx.res.tsb])))

/-- R323 to R327, R318, R319: a row operation, the near-bank instructions and a collective without release entries become requests once their
record is good. -/
def Obligations.RowBankAndCollectiveRequests : Prop :=
  ∀ s : State, s.Clean →
    (∀ (p : Src2) (fast : Bool) (op : RowOp) (off o : Entry) (y : Ctx), takeAll [.s p.a, .s p.b] s.cx = some ([.s off, .s o], y) →
      o.toNat < 2 ^ 32 → RecordAt s off 16 → let w := recordWords s off 16
      Good (rowBad op w) → (bits (wordAt w 9) 62 2 = 1 → bits (wordAt w 9) 0 32 + 16 ≤ s.cx.res.tsp * 0x4000) →
      ∃ l : List Entry, Sends (.drOp p fast op) s y (reqOf s (.drOp p fast op) off o 0 (w ++ l))) ∧
    (∀ (a : SrcS) (off : Entry) (y : Ctx), take (.s a) s.cx = some (.s off, y) → RecordAt s off 16 → let w := recordWords s off 16
      (bits (wordAt w 2) 62 2 = 1 → bits (wordAt w 2) 0 32 + 16 ≤ s.cx.res.tsp * 0x4000) →
      (Good (nbBad 0 w) → bits (wordAt w 13) 0 22 + 8 * (bits (wordAt w 12) 8 6 + 1) ≤ s.cx.res.tsp * 0x4000 →
        Readable s 0 ((List.range (8 * (bits (wordAt w 12) 8 6 + 1))).map (bits (wordAt w 13) 0 22 + ·)) →
        ∃ l : List Entry, Sends (.nbLoad a) s y (reqOf s (.nbLoad a) (w.getD 0 0) off 0 (w ++ l ++
          (s.spire s.iss.sp).mem.words s.cx.res.tsb (bits (wordAt w 13) 0 22) (bits (wordAt w 12) 8 6 + 1)))) ∧
      (Good (nbBad 1 w) → ∃ l : List Entry, Sends (.nbRun a) s y (reqOf s (.nbRun a) (w.getD 0 0) off 1 (w ++ l))) ∧
      (Good (nbBad 2 w) → bits (wordAt w 13) 0 22 + 1024 ≤ s.cx.res.tsp * 0x4000 →
        ∃ l : List Entry, Sends (.nbAcc a) s y (reqOf s (.nbAcc a) (w.getD 0 0) off 2 (w ++ l)))) ∧
    (∀ (p : Src2) (off q : Entry) (y : Ctx), takeAll [.s p.a, .s p.b] s.cx = some ([.s off, .s q], y) → RecordAt s off 16 →
      let w := recordWords s off 16
      Good (collBad s.cfg.pkn w) → (bits (wordAt w 6) 62 2 = 1 → bits (wordAt w 6) 0 32 + 16 ≤ s.cx.res.tsp * 0x4000) →
      (bit (wordAt w 12) 16 = false ∨ s.cx.sys.cls = 0) → q.toNat < 2 ^ 32 →
      ∃ l : List Entry, Sends (.coll p) s y (reqOf s (.coll p) (w.getD 1 0) off 0 (w ++ l)))

/-- R58, R59, R67, R304, R306 to R309, R311: a fork with room in its target's deque adds one descriptor with the share of weight, at the head for OWN
and else as a tail insert of this sc; `fut.wait` sends its request with the share, and a `launch` with a share where the record's CLSH is the
issuer's closure or is not in view. -/
def Obligations.ForkFutureWaitAndLaunch : Prop :=
  ∀ s : State, s.Clean →
    (∀ (p : Src2) (pk : Place) (off q : Entry) (y : Ctx) (n sh kept : Nat), takeAll [.s p.a, .s p.b] s.cx = some ([.s off, .s q], y) →
      RecordAt s off 16 → let w := recordWords s off 16
      Good (forkBad w (pk == .own)) → (∀ k, 12 ≤ k → k < 16 → wordAt w k = 0) → bits (wordAt w 0) 0 32 % 16 = 0 →
      bits (wordAt w 0) 0 32 < s.cx.res.nlen → s.fewest (targetSpires pk s.iss.sp (bits (wordAt w 2) 0 7)) = some n →
      s.releasable s.iss.sp s.cx s.iss.num = true → share s.cx q.toNat = some (sh, kept) → s.hasRoom n = true →
      ∃ t d, exec (.fork p pk) s = .next t ∧ t.mem = s.mem ∧ t.cx = splitCtx y kept ∧
        (d.entry, d.clsh, d.wgt, d.pois, d.ltwr, d.lslot) = (bits (wordAt w 0) 0 32, s.cx.sys.cls, sh, false, s.cx.res.ltwr, s.cx.res.lslot) ∧
        d.tc = (List.range 8).map (fun k => bits (wordAt w (4 + k / 2)) (32 * (k % 2)) 32) ∧
        d.args = (List.range 4).map (fun k => w.getD (8 + k) 0) ∧
        (t.spire n).deque = (if pk == .own then d :: (s.spire n).deque else (s.spire n).deque) ∧
        t.inserts = (if pk == .own then s.inserts else s.inserts ++ [(n, d)]) ∧
        ∀ m, m ≠ n → (t.spire m).deque = (s.spire m).deque) ∧
    (∀ (p : Src2) (off q : Entry) (y : Ctx) (sh kept : Nat), takeAll [.s p.a, .s p.b] s.cx = some ([.s off, .s q], y) →
      RecordAt s off 16 → let w := recordWords s off 16
      Good (forkBad w true ++ [(14, outside (wordAt w 14) (maskAt 16 10 + maskAt 0 10) || (w.getD 13 0 == 0 && bits (wordAt w 14) 16 10 != 0)), (15, wordAt w 15 != 0)]) →
      bits (wordAt w 0) 0 32 % 16 = 0 → bits (wordAt w 0) 0 32 < s.cx.res.nlen → share s.cx q.toNat = some (sh, kept) →
      ∃ t v, exec (.futWait p) s = .next t ∧ t.mem = s.mem ∧ t.cx = splitCtx y kept ∧
        (t.spire s.iss.sp).out = (s.spire s.iss.sp).out ++ [reqOf s (.futWait p) off q 0
          (w ++ [v, s.cx.sys.cls, BitVec.ofNat 64 sh, BitVec.ofNat 64 s.cx.res.ltwr, BitVec.ofNat 64 s.cx.res.lslot])]) ∧
    (∀ (p : Src2) (off q : Entry) (y : Ctx), takeAll [.s p.a, .s p.b] s.cx = some ([.s off, .s q], y) → RecordAt s off 4 →
      let w := recordWords s off 4
      Good (launchBad w) →
      (∀ sh kept : Nat, s.peekRecord (w.getD 0 0) (bits (wordAt w 1) 0 10) = none → share s.cx q.toNat = some (sh, kept) →
        Sends (.launch p) s (splitCtx y kept) (reqOf s (.launch p) (w.getD 0 0) q (bits (wordAt w 1) 0 10) (w ++ [BitVec.ofNat 64 sh, s.cx.sys.cls]))) ∧
      (∀ r : List Entry, s.peekRecord (w.getD 0 0) (bits (wordAt w 1) 0 10) = some r →
        s.launchFull (towerOf s.iss.sp) (asker s w) r (if r.getD 3 0 = 0 then 0 else if q = 0 then s.cx.sys.wgt / 2 else q.toNat) = false →
        (∀ sh kept : Nat, r.getD 3 0 = s.cx.sys.cls → r.getD 3 0 ≠ 0 → share s.cx q.toNat = some (sh, kept) →
          Sends (.launch p) s (splitCtx y kept) (reqOf s (.launch p) (w.getD 0 0) q (bits (wordAt w 1) 0 10) (w ++ [BitVec.ofNat 64 sh, s.cx.sys.cls]))) ∧
        ((r.getD 3 0 = 0 ∨ r.getD 3 0 ≠ s.cx.sys.cls ∧ q.toNat < 2 ^ 32) →
          Sends (.launch p) s y (reqOf s (.launch p) (w.getD 0 0) q (bits (wordAt w 1) 0 10) (w ++ [0, s.cx.sys.cls])))))

namespace Sys2Proof.Spec
open Sys2Proof.Machine

-- What an event may change

/-- Only spire n changes. -/
def OnlySpire (s t : State) (n : Nat) : Prop := { t with spires := [] } = { s with spires := [] } ∧ ∀ m, m ≠ n → t.spire m = s.spire m
/-- Only the contexts of spire n change. -/
def OnlyCtxs (s t : State) (n : Nat) : Prop := OnlySpire s t n ∧ { t.spire n with ctxs := [] } = { s.spire n with ctxs := [] }

/-- The value is there, not a sample still to be taken. -/
def sampled : RVal → Bool
  | .sampS _ _ => false
  | .sampV _ => false
  | _ => true

/-- Scalars, vectors and masks that flights bring to a register, in order. -/
def toS (q : Nat) (l : List Flight) : List Entry := l.filterMap fun f => match f.dest, f.val with
  | .s k, .s e => if k = q then some e else none
  | _, _ => none
def toV (q : Nat) (l : List Flight) : List Vec := l.filterMap fun f => match f.dest, f.val with
  | .v k, .v e => if k = q then some e else none
  | _, _ => none
def toM (k : Nat) (l : List Flight) : List Mask := l.filterMap fun f => match f.dest, f.val with
  | .m j, .m e => if j = k then some e else none
  | _, _ => none

/-- Flights that land in this sc, and those that stay with one sc less to go. -/
def due (x : Ctx) : List Flight := x.inflight.filter fun f => decide (f.delay ≤ 1)
def staying (x : Ctx) : List Flight := (x.inflight.filter fun f => decide (1 < f.delay)).map fun f => { f with delay := f.delay - 1 }
/-- Every queue has room for what lands in it (R179). -/
def Room (x : Ctx) (l : List Flight) : Prop :=
  (∀ q, q ≠ 0 → (x.sOf q).length + (toS q l).length ≤ 4) ∧ ∀ q, (x.vOf q).length + (toV q l).length ≤ 2

/-- The condition of a wait holds (R57, R298, R300, R314, R315). -/
def Met (s : State) (n c : Nat) : WaitC → Prop
  | .barrier off ph _ => ((s.spire n).mem.bar ((s.ctx n c).res.tsb + off)).ph = ph
  | .ring off u _ =>
    let bar (o : Nat) : Bar := (s.spire n).mem.bar ((s.ctx n c).res.tsb + o)
    let slot := off + 16 * (u % ((bar off).depth + 1))
    inTs (s.ctx n c).res.tsp slot 16 = true ∧ (bar slot).ph = (u / ((bar off).depth + 1) % 2 == 0)
  | .counter h ix tgt => ∃ v, s.counterAt h ix = some v ∧ tgt ≤ v
  | .version h v => ∃ o, s.obj (honum h) = some o ∧ hpkg h = s.cfg.pkn ∧ o.gen = hgchk h ∧ v ≤ o.cver
  | .closure h => ∃ o, s.liveOf h 3 = some o ∧ (s.clo o).st = 2
  | _ => False

/-- The cause for which a wait freezes its context: a barrier that it reads is poisoned (R442), or its ring has come to reach beyond the allocation (R298). -/
def WaitFault (s : State) (n c : Nat) (w : WaitC) (k : Cause) : Prop :=
  (∃ p, s.waitPoison n c w = some p ∧ k = poisonTs 3 p) ∨
  (s.waitPoison n c w = none ∧ ∃ off u b, w = .ring off u b ∧ k = boundsTs 3 off (s.ctx n c).res.tsp ∧
    inTs (s.ctx n c).res.tsp (off + 16 * (u % (((s.spire n).mem.bar ((s.ctx n c).res.tsb + off)).depth + 1))) 16 = false)

/-- The cause of a stall has gone (R55, R186, R187). -/
def Gone (s : State) (n c : Nat) : StallC → Prop
  | .deferredQueue false q => (s.ctx n c).sOf q ≠ [] ∨ ∀ d ∈ (s.ctx n c).deferred, d.dest ≠ .s q
  | .deferredQueue true q => (s.ctx n c).vOf q ≠ [] ∨ ∀ d ∈ (s.ctx n c).deferred, d.dest ≠ .v q
  | .busy l => ∀ b ∈ (s.spire n).busy, (b.latch, b.n) ∉ l
  | .engineFull => (s.spire n).engine.length < 4
  | .flights k => (s.ctx n c).inflight.length + (s.ctx n c).deferred.length + k ≤ 64
  | .mbar => (∀ m ∈ (s.spire n).engine, m.tid ≠ (s.ctx n c).res.tid) ∧ ∀ d ∈ (s.ctx n c).deferred, d.slot ≠ 2
  | .wake b => ∀ w ∈ (s.spire n).waking, w.1 ≠ b
  | .missTable => (s.hru (towerOf n)).miss.length < 1024 ∧ (s.hru (towerOf n)).held.length < 64
  | .acquire => (s.ctx n c).acqs = []
  | .line => True
  | .copyFull e => s.copies n e < (if e then 256 else 64)
  | .launchFull => True
  | .borrow => ∀ p, (s.ctx n c).split = some p → p.answered = true
  | .insertion => s.releasable n (s.ctx n c) s.fresh = true
  | .entry h => ∀ i ∈ s.fab.items, ∀ f ∈ i.flits, f.x.obj = h → f.h.kind = 9 → ∀ r : Req, i.req = some r → r.c = 8 → r.sp ≠ towerOf n * 32

/-- No deferred result of the context may land in this sc (R178). -/
def NoneDeferred (x : Ctx) : Prop := ∀ e ∈ x.deferred, e.val = none ∨ 1 < e.least

/-- A record of a context that freezes with this cause (R403, R404, Table 19-1). -/
def RecordOf (s : State) (n c : Nat) (x : Ctx) (k : Cause) (deff eff : Bool) (boff roff : Nat) (r : TrapRec) : Prop :=
  (r.tcls, r.tsub, r.slot, r.obj, r.ver, r.detail) = (k.cls, k.sub, k.slot, k.obj, k.ver, k.detail) ∧ (r.deff, r.eff, r.sec, r.frz) = (deff, eff, false, true) ∧
  (r.ctx, r.spn, r.pkn, r.spne) = (c, n, s.cfg.pkn, false) ∧ (r.boff, r.roff) = (boff, roff) ∧
  (r.codeh, r.cver, r.ltwr, r.lslot, r.tc0, r.tc1) = (x.res.codeh, x.sys.cvr, x.res.ltwr, x.res.lslot, x.tc.getD 0 0, x.tc.getD 1 0) ∧
  r.snap = x.inflight.length + x.deferred.length ∧ r.cyc = (s.spire n).cyc

/-- R123, R408: a barrier after an arrival of n bytes. -/
def arrived (b : Bar) (n : Nat) : Bar :=
  let a := min (b.arr + n) (2 ^ 32 - 1)
  if b.arm = true ∧ b.exp ≤ a then { b with arr := a - b.exp, exp := 0, arm := false, ph := !b.ph } else { b with arr := a }

/-- A live word that the operation may touch: object, byte offset, and the DRAM address of its eight bytes (R299). -/
structure WordAt (s : State) (t : Nat) (r : Req) (need : Nat) (kinds : List Nat) (o : Obj) (off a : Nat) : Prop where
  entry : s.lookup t 3 r.a = .ok o
  home : hpkg r.a = s.cfg.pkn
  rights : o.rightsOf r.sid &&& need = need
  kind : o.live = true ∧ o.lkind ∈ kinds
  bound : r.eidx < o.words
  place : off = o.wordOff r.eidx ∧ off % 8 = 0 ∧ o.locate 0 off = .mem a
  clean : s.poison = [] ∧ Memory.wf s.mem = true

/-- The task of a request runs where it issued. -/
def RunsAt (s : State) (n c tid : Nat) : Prop := (s.ctx n c).st ≠ .free ∧ (s.ctx n c).res.tid = tid

end Sys2Proof.Spec

/-- R177 to R180, R182: in each sc a running context's fixed-latency results come one sc nearer; where no deferred result may land before them,
those that are due land in order at the tails of their
queues and OR their status bits into FST; one that finds its queue full freezes the context with QUEUE/0x02, and it and the later ones stay. -/
def Obligations.ResultsLandInOrder : Prop :=
  ∀ (s : State) (sp : Fin 128), ∃ t, exec (.resultLanding sp) s = .next t ∧ t.mem = s.mem ∧ t.objs = s.objs ∧
    (∀ n, n ≠ sp.val → ∀ c, t.ctx n c = s.ctx n c) ∧
    (∀ c : Fin 8, let x := s.ctx sp c
      let y := t.ctx sp c
      x.st = .ready → x.syswr = [] → (∀ f ∈ x.inflight, sampled f.val = true) → NoneDeferred x → Room x (due x) →
      y.inflight = staying x ∧ (∀ q, q ≠ 0 → y.sOf q = x.sOf q ++ toS q (due x)) ∧ (∀ q, y.vOf q = x.vOf q ++ toV q (due x)) ∧
      (∀ k, k ≠ 0 → y.mask k = ((toM k (due x)).getLast?).getD (x.mask k)) ∧
      y.sys = { x.sys with fst := (due x).foldl (fun a f => stOr a f.fst) x.sys.fst } ∧ y.fst0 = x.sys.fst ∧
      { y with inflight := [], sq := [], vq := [], masks := [], sys := x.sys, fst0 := 0 } =
        { x with inflight := [], sq := [], vq := [], masks := [], fst0 := 0 }) ∧
    (∀ (c : Fin 8) (f : Flight) (q : Nat) (e : Entry) (r : List Flight), let x := s.ctx sp c
      x.st = .ready → x.syswr = [] → (∀ g ∈ x.inflight, sampled g.val = true) → NoneDeferred x → (∀ k, k ≠ c.val → (s.ctx sp k).inflight = []) →
      x.inflight = f :: r → f.delay ≤ 1 → f.dest = .s q → f.val = .s e → q ≠ 0 → 4 ≤ (x.sOf q).length →
      t.ctx sp c = frozenAt { x with fst0 := x.sys.fst, inflight := x.inflight.map fun g => { g with delay := g.delay - 1 } } x.pc ∧
      ∃ k, Posted t sp k ∧ RecordOf s sp c x (.mk' 2 2 f.slot [(0x40, 1, 0), (0x41, 1, q)]) false true f.off x.pc k)

/-- R178, R403: a deferred result lands once its value is there, its least time is over and its queue has room; until then it stays; and the
oldest deferred fault of a running task freezes its context with EFF = 1, DEFF = 1. -/
def Obligations.DeferredResultsAndFaults : Prop :=
  (∀ (s : State) (sp : Fin 128), ∃ t, exec (.deferredResultLanding sp) s = .next t ∧ t.mem = s.mem ∧ t.objs = s.objs ∧
    (∀ n, n ≠ sp.val → ∀ c, t.ctx n c = s.ctx n c) ∧
    (∀ (c : Fin 8) (d : Deferred) (q : Nat) (e : Entry), let x := s.ctx sp c
      x.st = .ready → x.inflight = [] → x.deferred = [d] → d.dest = .s q → q ≠ 0 →
      (d.val = some (.s e) → d.least ≤ 1 → (x.sOf q).length < 4 → t.ctx sp c = { x with deferred := [] }.setS q (x.sOf q ++ [e])) ∧
      (d.val = none ∨ 1 < d.least → t.ctx sp c = { x with deferred := [{ d with least := d.least - 1 }] }))) ∧
  (∀ (s : State) (sp : Fin 128) (c : Fin 8) (p : Pending) (r : List Pending), (s.ctx sp c).dtrap = p :: r → RunsAt s sp c p.tid →
    (s.ctx sp c).st = .ready ∨ (s.ctx sp c).st = .wait ∨ (s.ctx sp c).st = .stall → ∃ t k, exec (.deferredTrap sp c) s = .next t ∧
      t.mem = s.mem ∧ t.ctx sp c = { frozenAt (s.ctx sp c) (s.ctx sp c).pc with dtrap := r } ∧ Posted t sp k ∧
      (∀ n d, n ≠ sp.val ∨ d ≠ c.val → t.ctx n d = s.ctx n d) ∧
      RecordOf s sp c (s.ctx sp c) p.cause true true p.boff (s.ctx sp c).pc k)

/-- R118, R123, R296: a tile-store write of a context that is not halted takes effect after its delay and sets the tags of its pages; one with more to
go waits; and the oldest arrival of a spire, those of tile copies before those of the multicast network, counts at its barrier, once in an sc, which
flips when it is armed and its bytes are there. -/
def Obligations.TileStoreWritesLand : Prop :=
  (∀ (s : State) (sp : Fin 128) (c : Fin 8) (b : List (Nat × Byte)) (tags : List (Nat × Nat)) (d k n tid tsb : Nat), k < 4 →
    (s.ctx sp c).tsw = [⟨.bytes b tags, d, k, n, tid, tsb⟩] → (s.ctx sp c).st ≠ .halt → (∀ j, j ≠ c.val → (s.ctx sp j).tsw = []) →
    (s.spire sp).out = [] → (s.spire sp).drain = [] →
    ∃ t, exec (.tsWriteLanding sp) s = .next t ∧ OnlySpire s t sp ∧ (∀ j, j < 8 → j ≠ c.val → t.ctx sp j = s.ctx sp j) ∧
      (d = 0 → t.ctx sp c = { s.ctx sp c with tsw := [] } ∧ (t.spire sp).mem.ts = cellsPut (s.spire sp).mem.ts b ∧
        (t.spire sp).mem.tag = tags.foldl (fun m p => Tab.set m p.1 p.2) (s.spire sp).mem.tag ∧
        (t.spire sp).mem.acc = (s.spire sp).mem.acc ∧ (t.spire sp).mem.lat = (s.spire sp).mem.lat) ∧
      (d ≠ 0 → t.ctx sp c = { s.ctx sp c with tsw := [⟨.bytes b tags, d - 1, k, n, tid, tsb⟩] } ∧ (t.spire sp).mem = (s.spire sp).mem)) ∧
  (∀ (s : State) (sp : Fin 128) (a : Arr) (r : List Arr) (n j : Nat), (s.spire sp).arrivals = a :: r → (a.mc = true → ∀ b ∈ r, b.mc = true) →
    s.locate a.sp 8 a.tid = some (n, j) → (s.ctx n j).res.tsb + a.off ∉ (s.spire n).barDone →
    Memory.wf (s.spire n).mem.ts = true → ∃ t, exec (.barrierArrival sp) s = .next t ∧ t.mem = s.mem ∧ (t.spire sp).arrivals = r ∧
      (t.spire n).mem.bar ((s.ctx n j).res.tsb + a.off) = arrived ((s.spire n).mem.bar ((s.ctx n j).res.tsb + a.off)) a.n ∧
      (s.ctx n j).res.tsb + a.off ∈ (t.spire n).barDone ∧
      (∀ p, p < (s.ctx n j).res.tsb + a.off ∨ (s.ctx n j).res.tsb + a.off + 16 ≤ p →
        (t.spire n).mem.byteAt p = (s.spire n).mem.byteAt p) ∧
      ∀ m, m ≠ n → (t.spire m).mem = (s.spire m).mem)

/-- R56, R57, R129, R298, R442: a context leaves WAIT once its condition holds and the results and tile-store writes that it had issued before have landed, and not
before; one whose barrier is poisoned, or whose ring lies beyond its allocation, freezes; a yield ends when no context that it waits for is READY. -/
def Obligations.WaitsEndWhenMet : Prop :=
  ∀ (s : State) (sp : Fin 128),
    (∃ t, exec (.waitSatisfied sp) s = .next t ∧ t.mem = s.mem ∧ t.objs = s.objs ∧ (∀ n, n ≠ sp.val → ∀ c, t.ctx n c = s.ctx n c) ∧
      ∀ (c : Fin 8) (w : WaitC), (s.ctx sp c).st = .wait → (s.ctx sp c).wait = some w → (∀ l, w ≠ .yield l) →
        ((∀ k, ¬WaitFault s sp c w k) →
          (Met s sp c w → (s.ctx sp c).landed = true → t.ctx sp c = { s.ctx sp c with st := .ready, wait := none }) ∧
          (Met s sp c w → (s.ctx sp c).landed = false → (t.ctx sp c).st = .wait) ∧
          (¬Met s sp c w → t.ctx sp c = s.ctx sp c)) ∧
        ∀ k, WaitFault s sp c w k → t.ctx sp c = { s.ctx sp c with st := .frozen, stall := none, stepping := none, halting := false } ∧
          ∃ r, Posted t sp r ∧ RecordOf s sp c (s.ctx sp c) k true true w.boff (s.ctx sp c).pc r) ∧
    (∃ t, exec (.yieldReturn sp) s = .next t ∧ OnlyCtxs s t sp ∧
      ∀ (c : Fin 8) (l : List Nat), (s.ctx sp c).st = .wait → (s.ctx sp c).wait = some (.yield l) → (∀ k ∈ l, (s.ctx sp k).wait = none) →
        (s.ctx sp c).landed = true →
        t.ctx sp c = (if (∀ k ∈ l, (s.ctx sp k).st ≠ .ready) then { s.ctx sp c with st := .ready, wait := none }
          else { s.ctx sp c with wait := some (.yield (l.filter fun k => (s.ctx sp k).st == .ready)) }))

/-- R52, R55, R186, R187: a stalled context stays stalled until the sc in which the cause of its stall has gone; it is then READY, or stalls for what
its next bundle meets; where no other context of its spire runs, stalls or steps, it is READY unless its next bundle must stall. -/
def Obligations.StallsEndWhenTheCauseGoes : Prop :=
  ∀ (s : State) (sp : Fin 128), ∃ t, exec (.stallCleared sp) s = .next t ∧ t.mem = s.mem ∧ t.objs = s.objs ∧
    (∀ n, n ≠ sp.val → ∀ c, t.ctx n c = s.ctx n c) ∧
    ∀ (c : Fin 8) (k : StallC), (s.ctx sp c).st = .stall → (s.ctx sp c).stall = some k →
      ((Gone s sp c k ∧ (t.ctx sp c = { s.ctx sp c with st := .ready, stall := none } ∨ ∃ q, t.ctx sp c = { s.ctx sp c with stall := some q }) ∧
        ((∀ j, j ≠ c.val → (s.ctx sp j).st = .free ∨ (s.ctx sp j).st = .wait ∨ (s.ctx sp j).st = .frozen) →
          let y : Ctx := { s.ctx sp c with st := .ready, stall := none }
          t.ctx sp c = match ((s.lineArrives sp c).setCtx sp c y).blocked sp c with
            | none => y
            | some q => { s.ctx sp c with stall := some q })) ∨
      (¬Gone s sp c k ∧ t.ctx sp c = s.ctx sp c))

/-- R126, R299 to R301: the tower serves the oldest request of its queue; a live word homed here is read and written in one step: `cnt.add`
saturates at 2^64 - 1, `atom.cas` writes where the compare is equal, a read answers the old value, and what the context has acquired by it is performed. -/
def Obligations.LiveOperationsAtTheirHome : Prop :=
  ∀ (s : State) (t : Fin 4) (r : Req) (l : List Req) (o : Obj) (off a : Nat), (s.hru t).q = r :: l → r.sp < 128 → r.c ≠ 8 →
    (isRelease r.ins = true → r.scope < 3 ∨ s.l2Lines = []) →
    let same (u : State) (n : Nat) : Prop := (u.hru t).q = l ∧ u.objs = s.objs ∧ (∀ b, b < a ∨ a + n ≤ b → cellGet u.mem b = cellGet s.mem b)
    let answered (u : State) (v : Entry) : Prop := RunsAt s r.sp r.c r.tid →
      u.ctx r.sp r.c = ((s.ctx r.sp r.c).performed r.tag).answer r.tag (.s v)
    (∀ p q e, r.ins = .cntAdd p q e → WordAt s t r 2 [1] o off a → ∃ u, exec (.l2Miss t) s = .next u ∧ same u 8 ∧ (∀ n, (u.spire n).mem = (s.spire n).mem) ∧
      readLE u.mem a 8 = min (readLE s.mem a 8 + r.b.toNat) (2 ^ 64 - 1)) ∧
    (∀ d p q e, r.ins = .cntRd d p q e → WordAt s t r 1 [1, 4] o off a → ∃ u, exec (.l2Miss t) s = .next u ∧ same u 0 ∧
      answered u (BitVec.ofNat 64 (readLE s.mem a 8))) ∧
    (∀ d p b op q e, r.ins = .atom d p b op q e → WordAt s t r 2 [0] o off a → o.fmt = .z32 → ∃ u, exec (.l2Miss t) s = .next u ∧ same u 4 ∧
      answered u (BitVec.ofNat 64 (readLE s.mem a 4)) ∧
      readLE u.mem a 4 = (let x := readLE s.mem a 4
        let v := r.b.toNat % 2 ^ 32
        match op with
          | .add => (x + v) % 2 ^ 32
          | .min => min x v
          | .max => max x v
          | .and => x &&& v
          | .or => x ||| v
          | .xor => x ^^^ v
          | .swap => v)) ∧
    (∀ d p q e, r.ins = .atomCas d p q e → WordAt s t r 2 [0] o off a → o.fmt = .z32 → ∃ u, exec (.l2Miss t) s = .next u ∧ same u 4 ∧
      answered u (BitVec.ofNat 64 (readLE s.mem a 4)) ∧
      readLE u.mem a 4 = if readLE s.mem a 4 = r.b.toNat % 2 ^ 32 then r.b.toNat / 2 ^ 32 % 2 ^ 32 else readLE s.mem a 4) ∧
    (∀ p e, r.ins = .futNew p e → WordAt s t r 2 [2] o off a → off % 16 = 0 → bits (readLE s.mem (a + 8) 8) 62 2 ≠ 1 →
      ∃ u, exec (.l2Miss t) s = .next u ∧ same u 16 ∧ readLE u.mem a 8 = 0 ∧ readLE u.mem (a + 8) 8 = 0)

/-- R264, R284, R288, R297: a tile copy into the tile store commits the cells of one sector of its plan: their bytes stand at their places, the operation
counts it; a `bar.arr` is sent to its receiver once; the tile that an engine operation has fetched is kept with it, its lines pinned in the dome L2. -/
def Obligations.CopiesCommitSectorBySector : Prop :=
  (∀ (s : State) (op : Nat) (a : AOp) (k n j : Nat) (l : List (Cell × Nat × Bool)), s.aops.find? (fun b => b.id == op) = some a →
    (∀ b ∈ s.aops, b.id = op → b = a) →
    (∃ p st, a.r.ins = .tld p st ∨ a.r.ins = .tgath p st ∨ a.r.ins = .tfill p st false) → a.failing = [] → a.r.desc.tk = 0 → 8 ≤ a.r.desc.width →
    s.copyStops a.r = false → s.locate a.r.sp a.r.c a.r.tid = some (n, j) → (s.spire n).waking = [] → (∀ i, i ∈ a.done ↔ i < k) →
    k < a.plan.length → s.cellVals (towerOf a.r.sp) a (a.plan.getD k []) [] [] = .ok (l, []) → (∀ p ∈ l, p.2.2 = false) →
    let d := a.r.desc
    let bytes := l.flatMap fun p => (List.range (d.cellBytes p.1)).map fun i =>
      (physTs (s.ctx n j).res.tsb d.swz (d.tsOff a.tsBase p.1 + i), (BitVec.ofNat 8 (p.2.1 / 2 ^ (8 * i)) : Byte))
    ∃ t, exec (.sectorCommit op) s = .next t ∧ ((∀ q ∈ s.l2Lines, q.2.2.dirty = []) → t.mem = s.mem) ∧ t.objs = s.objs ∧
      (∀ m, m ≠ n → t.spire m = s.spire m) ∧
      (t.spire n).mem.ts = cellsPut (s.spire n).mem.ts bytes ∧ (t.spire n).mem.acc = (s.spire n).mem.acc ∧
      ∀ b ∈ t.aops, b.id = op → b.done = k :: a.done ∧ b.bytes = a.bytes + bytes.length) ∧
  (∀ (s : State) (op : Nat) (sp : Fin 128) (a : AOp) (p : Src2) (st : Fin 256) (tid tsb : Nat), s.aops = [a] → a.id = op →
    a.r.ins = .barArr p st → a.recv = [(sp.val, tid, tsb, 0)] → a.failing = [] → a.r.desc.tk = 0 →
    ∃ t, exec (.multicastDelivery op sp) s = .next t ∧ t.mem = s.mem ∧ t.aops = [] ∧ (∀ m, (t.spire m).mem = (s.spire m).mem) ∧
      (t.spire sp).arrivals = (s.spire sp).arrivals ++ [⟨sp, tid, tsb, a.r.a.toNat, a.r.b.toNat % 2 ^ 32, op, true⟩] ∧
      .barrierArrival sp ∈ t.agenda) ∧
  (∀ (s : State) (sp : Fin 128) (m : MOp) (a : AOp) (l : List (Cell × Nat × Bool)), (s.spire sp).engine = [m] → m.arrived = false →
    isDrainh m.ins = false → s.aops.find? (fun b => b.id == m.num) = some a →
    s.cellVals (towerOf sp) a a.r.desc.cells [] [] = .ok (l, []) → ∃ t, exec (.mmaHFetchArrival sp) s = .next t ∧ t.objs = s.objs ∧
      (∀ n, n ≠ sp.val → t.spire n = s.spire n) ∧
      t.spire sp = (match (s.fillFrom (towerOf sp) a a.r.desc.cells).pinFetched (towerOf sp) a with
        | some _ => { s.spire sp with engine := [{ m with arrived := true, data := some (l.map (·.2)), a := a.r.desc.fmtCode, ver := a.srcVer }] }
        | none => s.spire sp))

/-- R93, R98, R103, R106, R107: a publish waits while an earlier write of the draft is outstanding or a package that has joined it has not answered; once
none is, no dirty sector of the draft and no backing object's publish is left, the draft becomes the current version in one
step, the old one is retained if it is pinned, no page of the new one stays shared, and the publisher receives the new version. -/
def Obligations.PublishAdvancesTheVersion : Prop :=
  ∀ (s : State) (h : Entry) (o : Obj) (n : Nat), s.here h = some o → o.closing = some n →
    ((∃ r ∈ s.draftWriters h, r.tag < n) ∨ o.await ≠ [] → exec (.publishComplete h) s = .next s) ∧
    (∀ r : Req, (∀ q ∈ s.draftWriters h, n ≤ q.tag) → (∀ m ∈ s.draftDrains h, n ≤ m) → o.await = [] → o.joined = [] → o.prims = [] →
      s.following h = false → (∀ q ∈ s.l2Lines, q.2.2.h = h → q.2.2.ver = o.dver → q.2.2.dirty = []) → o.subs = [] → o.w.length = 16 → o.dver ≠ o.cver →
      o.publisher = some r → r.sp < 128 → r.c < 8 → RunsAt s r.sp r.c r.tid → ∃ t p, exec (.publishComplete h) s = .next t ∧ t.mem = s.mem ∧
      t.obj (honum h) = some p ∧ (∀ k, k ≠ honum h → t.obj k = s.obj k) ∧
      (p.cver, p.dver, p.wrj, p.pinc, p.pino) = (o.dver, 0, 0, 0, (o.pino + o.pinc) % 2 ^ 32) ∧
      (o.pinc = 0 → Tab.has p.maps o.cver = false) ∧ (o.pinc ≠ 0 → Tab.get p.retained o.cver 0 = o.pinc ∧
        Tab.get p.maps o.cver [] = Tab.get o.maps o.cver []) ∧
      (∀ k, p.page o.dver k = o.page o.dver k &&& ~~~(BitVec.ofNat 64 (2 ^ 59))) ∧ p.closing = none ∧
      (∀ d ∈ (t.ctx r.sp r.c).drafts, d.1 = h → 2 ^ 32 ≤ d.2) ∧
      (t.ctx r.sp r.c).deferred = ((s.ctx r.sp r.c).answer r.tag (.s (BitVec.ofNat 64 o.dver))).deferred ∧
      ((s.ctx r.sp r.c).wait = some (.publish h) → (t.ctx r.sp r.c).wait = some .over))

namespace Sys2Proof.Spec
open Sys2Proof.Machine

-- Near-bank units (R326, R327, R339 to R344)

/-- The unit whose turn it is runs, not suspended, and its next microinstruction is not the last entry. -/
def Runs (s : State) (q : NReq) : Prop :=
  (s.nbu s.nbuCur).cur = some q ∧ (s.nbu s.nbuCur).suspended = false ∧ (s.nbu s.nbuCur).mpc < 63
/-- Only the unit n changes. -/
def OnlyNbu (s t : State) (n : Nat) : Prop := { t with nbus := [] } = { s with nbus := [] } ∧ ∀ m, m ≠ n → t.nbu m = s.nbu m

/-- Row RC + IMM lies in the run's page, in a frame of HBM, with its first byte at `a`; no byte of memory is poisoned (R340). -/
def RowAt (s : State) (q : NReq) (imm : Nat) (a : Nat) : Prop :=
  ∃ row f : Nat, (row : Int) = (s.nbu s.nbuCur).rc + Int.bmod imm (2 ^ 32) ∧ row / 64 = q.row / 64 ∧ s.rowFrame q.h q.ver row = some f ∧
    a = f * 65536 + row % 64 * 1024 ∧ s.poison = [] ∧ Memory.wf s.mem = true

/-- Lane j of a row at `a` under a format of Table 12-4: the code read, and the value widened to f32. -/
def laneCode (f : NFmt) (m : List Host.Cell) (a j : Nat) : Nat :=
  match f with
  | .f32 => readLE m (a + 4 * j) 4
  | .bfLo => (convert (decodeFlt .bf16 (readLE m (a + 2 * j) 2)) .f32 .rne false).code
  | .bfHi => (convert (decodeFlt .bf16 (readLE m (a + 512 + 2 * j) 2)) .f32 .rne false).code
  | .hfLo => (convert (decodeFlt .f16 (readLE m (a + 2 * j) 2)) .f32 .rne false).code
  | .hfHi => (convert (decodeFlt .f16 (readLE m (a + 512 + 2 * j) 2)) .f32 .rne false).code
/-- A rounded f32 lane. -/
def to32 (m : Rm) (v : FVI) : BitVec 32 := BitVec.ofNat 32 (finish .f32 ⟨m, 0, 0⟩ v).code
def val32 (x : BitVec 32) : FV := decodeFlt .f32 x.toNat
/-- Where the lanes of a format stand in a row, and how wide they are. -/
def halfOf : NFmt → Nat
  | .bfHi => 512
  | .hfHi => 512
  | _ => 0
def rowFmt : NFmt → Fmt
  | .f32 => .f32
  | .bfLo => .bf16
  | .bfHi => .bf16
  | .hfLo => .f16
  | .hfHi => .f16

/-- A microinstruction sets the 256 lanes of A[bd] to `g`, MPC advances, and nothing else changes. -/
def SetsLanes (ins : Instr) (s : State) (bd : Nat) (g : Nat → BitVec 32) : Prop :=
  ∃ t, exec ins s = .next t ∧ OnlyNbu s t s.nbuCur ∧ (∀ j, j < 256 → (t.nbu s.nbuCur).lane bd j = g j) ∧
    (∀ k j, k ≠ bd → j < 256 → (t.nbu s.nbuCur).lane k j = (s.nbu s.nbuCur).lane k j) ∧
    { t.nbu s.nbuCur with a := [] } = { s.nbu s.nbuCur with a := [], mpc := (s.nbu s.nbuCur).mpc + 1 }
/-- A microinstruction leaves the unit as `u`, and nothing else changes. -/
def SetsUnit (ins : Instr) (s : State) (u : Nbu) : Prop := ∃ t, exec ins s = .next t ∧ OnlyNbu s t s.nbuCur ∧ t.nbu s.nbuCur = u

/-- The tile store of the task that issued a request, after bytes at relative offsets are written under mode 0. -/
def Stored (s t : State) (n j : Nat) (l : List (Nat × Byte)) : Prop :=
  (t.spire n).mem.ts = cellsPut (s.spire n).mem.ts (l.map fun p => (physTs (s.ctx n j).res.tsb 0 p.1, p.2)) ∧
  (t.spire n).mem.acc = (s.spire n).mem.acc ∧ ∀ m, m ≠ n → (t.spire m).mem = (s.spire m).mem
/-- A 64-bit word as eight bytes from `off`. -/
def wordBytesAt (off v : Nat) : List (Nat × Byte) := (List.range 8).map fun i => (off + i, BitVec.ofNat 8 (v / 2 ^ (8 * i)))

-- Row operations (R323 to R338)

/-- R324: a byte of the result. -/
def rowByte (op : RowOp) (ones : Bool) (x y z : Byte) : Byte :=
  match op with
  | .copy => x
  | .fill => if ones then 0xFF else 0
  | .and => x &&& y
  | .or => x ||| y
  | .xor => x ^^^ y
  | .not => ~~~x
  | .maj => (x &&& y) ||| (x &&& z) ||| (y &&& z)

/-- The row under way has its sources and its destination in DRAM here, its destination page private and nothing poisoned: the
destination row's first byte is `m`. -/
def RowsHere (s : State) (a : RowRun) (m : Nat) : Prop :=
  let dst := s.rowSpot (towerOf a.r.sp) a.r.sid a.r.rowDst a.dstVer (a.r.dstRow a.row) true
  dst.2 = .mem m ∧ s.elsewhere dst.1 = false ∧ s.readyPage (towerOf a.r.sp) a.r dst.1 a.dstVer (1024 * a.r.dstRow a.row) = .go s ∧
  (∀ p ∈ s.rowSources (towerOf a.r.sp) a, ∃ k, p.2.2.2 = .mem k) ∧ s.poison = [] ∧ Memory.wf s.mem = true
/-- Frames of HBM with IL = 0 that hold the destination row and the source rows. -/
def rowFrames (s : State) (a : RowRun) : Option Nat × List (Option Nat) :=
  (s.rowFrame (s.rowSpot (towerOf a.r.sp) a.r.sid a.r.rowDst a.dstVer (a.r.dstRow a.row) true).1 a.dstVer (a.r.dstRow a.row),
    (s.rowSources (towerOf a.r.sp) a).map fun p => s.rowFrame p.1 p.2.1 p.2.2.1)
/-- First byte of source row k. -/
def rowSrcAt (s : State) (a : RowRun) (k : Nat) : Nat :=
  match (s.rowSources (towerOf a.r.sp) a)[k]? with
  | some (_, _, _, .mem x) => x
  | _ => 0

end Sys2Proof.Spec

/-- R340, R341 (Table 12-5): the microinstructions that read a row or two accumulators set 256 lanes of one accumulator, each rounded
once, and no status is kept. -/
def Obligations.MicroinstructionsSetLanes : Prop :=
  ∀ (s : State) (q : NReq), Runs s q → let u := s.nbu s.nbuCur
    (∀ (bd : Fin 16) (f : NFmt) (imm : Fin 4294967296) (a : Nat), RowAt s q imm a → let x (j : Nat) : Nat := laneCode f s.mem a j
      SetsLanes (.ldr bd f imm) s bd (fun j => BitVec.ofNat 32 (x j)) ∧
      (∀ m : Rm, SetsLanes (.sadd bd f m imm) s bd (fun j => to32 m (FV.fma m (val32 u.scl) (decodeFlt .f32 (x j)) (val32 (u.lane bd j)))) ∧
        SetsLanes (.mulr bd f m imm) s bd (fun j => to32 m (FV.mul (val32 (u.lane bd j)) (decodeFlt .f32 (x j))))) ∧
      SetsLanes (.minr bd f imm) s bd (fun j => BitVec.ofNat 32 (fminCode .f32 false (u.lane bd j).toNat (x j))) ∧
      SetsLanes (.maxr bd f imm) s bd (fun j => BitVec.ofNat 32 (fminCode .f32 true (u.lane bd j).toNat (x j)))) ∧
    (∀ (bd bs : Fin 16) (m : Rm), SetsLanes (.aadd bd bs m) s bd (fun j => to32 m (FV.add m (val32 (u.lane bd j)) (val32 (u.lane bs j)))) ∧
      SetsLanes (.ascl bd bs m) s bd (fun j => to32 m (FV.mul (val32 u.scl) (val32 (u.lane bs j))))) ∧
    (∀ bd : Fin 16, SetsLanes (.clr bd) s bd (fun _ => 0))

/-- R341, R342 (Table 12-5): `sclp`, `sclm`, `radv` and `loop` set SCL, RC, LCT and MPC; `wb` commits an accumulator's lanes, rounded, to a
draft row; `end` ends the run: the word {MPC, NST = 0} stands at offset 0x70 of the record. -/
def Obligations.MicroinstructionsOfControl : Prop :=
  ∀ (s : State) (q : NReq), Runs s q → let u := s.nbu s.nbuCur
    (∀ px : Fin 8, SetsUnit (.sclp px) s { u with scl := BitVec.ofNat 32 (wordAt u.p px), mpc := u.mpc + 1 } ∧
      (∀ m : Rm, SetsUnit (.sclm px m) s
        { u with scl := to32 m (FV.mul (val32 u.scl) (decodeFlt .f32 (wordAt u.p px % 2 ^ 32))), mpc := u.mpc + 1 }) ∧
      ∀ imm : Fin 64, (u.lct + 1 < wordAt u.p px % 2 ^ 32 → SetsUnit (.nbuLoop px imm) s { u with lct := u.lct + 1, mpc := imm }) ∧
        (wordAt u.p px % 2 ^ 32 ≤ u.lct + 1 → SetsUnit (.nbuLoop px imm) s { u with lct := 0, mpc := u.mpc + 1 })) ∧
    (∀ imm : Fin 4294967296, SetsUnit (.radv imm) s { u with rc := (u.rc + imm) % 2 ^ 32, mpc := u.mpc + 1 }) ∧
    (∀ (bs : Fin 16) (f : NFmt) (m : Rm) (imm : Fin 4294967296) (a : Nat), RowAt s q imm a → q.draft = true →
      ∃ t, exec (.wb bs f m imm) s = .next t ∧ t.nbu s.nbuCur = { u with mpc := u.mpc + 1 } ∧ t.spires = s.spires ∧ t.objs = s.objs ∧
        (∀ j, j < 256 → readLE t.mem (a + halfOf f + (rowFmt f).width / 8 * j) ((rowFmt f).width / 8) =
          (convert (val32 (u.lane bs j)) (rowFmt f) ⟨m, 0, 0⟩ false).code % 2 ^ (rowFmt f).width) ∧
        ∀ b, b < a + halfOf f ∨ a + halfOf f + 256 * ((rowFmt f).width / 8) ≤ b → cellGet t.mem b = cellGet s.mem b) ∧
    (∀ n j : Nat, s.locate q.r.sp q.r.c q.r.tid = some (n, j) → bits (wordAt q.r.words 2) 62 2 = 0 → u.queue = [] →
      ∃ t, exec .endRun s = .next t ∧ (t.nbu s.nbuCur).cur = none ∧ t.mem = s.mem ∧ t.objs = s.objs ∧
        Stored s t n j (wordBytesAt (q.r.b.toNat + 0x70) (u.mpc * 256)))

/-- R327, R339, R343, R344: an idle unit takes its oldest request: an image goes to consecutive entries, a run starts at its entry with
RC its row, SCL 1.0, LCT 0 and its parameters; an access suspends a run, with all its state, until no access is pending. -/
def Obligations.NearBankRequestsStartAndSuspend : Prop :=
  (∀ (s : State) (n : Fin 512) (q : NReq) (rest : List NReq), (s.nbu n).cur = none → (s.nbu n).queue = q :: rest → q.r.eidx = 1 →
    (q.draft = true → s.earlierDraft q.r.a q.r.tid q.r.tag = false ∧ s.l2Lines = []) → s.nbHeld n = [] →
    ∃ t, exec (.nbuRequestStart n) s = .next t ∧ OnlyNbu s t n ∧ t.nbu n = { s.nbu n with
      queue := rest, cur := some q, suspended := false, mpc := bits (wordAt q.r.words 12) 0 6, rc := q.row, lct := 0, scl := 0x3F800000
      p := (q.r.words.drop 4).take 8 }) ∧
  (∀ (s : State) (n : Fin 512) (q : NReq) (a b : Nat), (s.nbu n).cur = none → (s.nbu n).queue = [q] → q.r.eidx = 0 →
    s.nbHeld n = [] → s.locate q.r.sp q.r.c q.r.tid = some (a, b) → bits (wordAt q.r.words 2) 62 2 = 0 → ∃ t, exec (.nbuRequestStart n) s = .next t ∧
      t.mem = s.mem ∧ Stored s t a b (wordBytesAt (q.r.b.toNat + 0x70) 0) ∧
      (∀ k, k < q.image.length → Tab.get (t.nbu n).ms (bits (wordAt q.r.words 12) 0 6 + k) 0 = q.image.getD k 0) ∧
      ∀ k, k < bits (wordAt q.r.words 12) 0 6 ∨ bits (wordAt q.r.words 12) 0 6 + q.image.length ≤ k →
        Tab.get (t.nbu n).ms k 0 = Tab.get (s.nbu n).ms k 0) ∧
  (∀ (s : State) (n : Fin 512) (q : NReq) (p : Nat × Nat), (s.nbu n).cur = some q → s.pendingPc n = some p → ∃ t,
    exec (.nbuSuspend n) s = .next t ∧ t.nbu n = { s.nbu n with suspended := true } ∧ t.mem = s.mem ∧ t.access = s.access.erase p ∧
    t.agenda = s.agenda ++ [.nbuResume n] ∧ ∀ m, m ≠ n.val → t.nbu m = s.nbu m) ∧
  (∀ (s : State) (n : Fin 512), s.pendingPc n = none → SetsUnit (.nbuResume n) { s with nbuCur := n } { s.nbu n with suspended := false })

/-- R329, R331, R335, R336: a row whose frames share one subarray takes class A and its bank, if that is free, with the next number of arrival; the triple activation leaves the bitwise
majority in all three rows; a row through the engine is written with the byte string of R324, and nothing else is. -/
def Obligations.RowsAreComputed : Prop :=
  (∀ (s : State) (op : Nat) (a : RowRun) (m f : Nat), s.rowRun op = some a → a.id = op → RowsHere s a m → (rowFrames s a).1 = some f →
    s.l2Lines = [] → s.earlierDraft a.r.rowDst a.r.tid a.r.tag = false → (∀ g ∈ (rowFrames s a).2, ∃ x, g = some x ∧ x / 16 = f / 16) → (∀ b ∈ s.rowBusy, b.2.2.1 ≠ op ∧ (b.1, b.2.1) ≠ (f / 2 ^ 14 % 512, f / 1024 % 16)) →
    ∃ t, exec (.rowOpRow op) s = .next t ∧ t.mem = s.mem ∧ t.spires = s.spires ∧ t.objs = s.objs ∧
      t.rowRun op = some { a with cls := some 0, step := 0 } ∧ t.rowBusy = s.rowBusy ++ [(f / 2 ^ 14 % 512, f / 1024 % 16, op, s.fresh)] ∧
      t.agenda = s.agenda ++ [.rowStep op]) ∧
  (∀ (s : State) (op : Nat) (a : RowRun) (b : Nat × Nat × Nat × Nat), s.rowRun op = some a → a.id = op → s.rowBusy.find? (fun q => q.2.2.1 == op) = some b →
    (b.1, b.2.1) ∉ s.access → (∀ p, s.nbuStepAt b.1 = some p → p.2 = b.2.1 → b.2.2.2 ≤ p.1) → (rowSteps (rowOpOf a.r.ins))[a.step]? = some .triple → ∃ (t : State) (c : RowRun), exec (.rowStep op) s = .next t ∧ t.mem = s.mem ∧
      t.spires = s.spires ∧ t.rowRun op = some c ∧ c.step = a.step + 1 ∧ c.k1 = c.k0 ∧ c.k2 = c.k0 ∧ c.d0 = a.d0 ∧
      t.agenda = s.agenda ++ [.rowStep op] ∧
      (∀ (i : Nat) (x y z : Byte), a.k0[i]? = some x → a.k1[i]? = some y → a.k2[i]? = some z → c.k0[i]? = some (rowByte .maj false x y z))) ∧
  (∀ (s : State) (op : Nat) (a : RowRun) (m : Nat), s.rowRun op = some a → a.id = op → RowsHere s a m →
    (∀ b ∈ s.rowBusy, b.2.2.1 ≠ op) → ∃ t, exec (.fallbackRow op) s = .next t ∧ t.spires = s.spires ∧ t.objs = s.objs ∧ (∀ i, i < 1024 → cellGet t.mem (m + i) =
        rowByte (rowOpOf a.r.ins) a.r.fillOnes (cellGet s.mem (rowSrcAt s a 0 + i)) (cellGet s.mem (rowSrcAt s a 1 + i))
          (cellGet s.mem (rowSrcAt s a 2 + i))) ∧
      (∀ b, b < m ∨ m + 1024 ≤ b → cellGet t.mem b = cellGet s.mem b) ∧
      t.rowRun op = some { a with row := a.row + 1, step := 0, cls := none, buf := [], nf := a.nf + 1 } ∧
      t.agenda = s.agenda ++ [if a.row + 1 < a.r.nrow then .rowOpRow op else .rowOpDone op])

/-- R23, R324, R337, R338, R343: a row operation ends with STAT in its record; an access to a bank that it holds, or to a pseudo-channel whose
unit runs, waits, and any other is served at once; one that waits is served before the operation's next step; a refresh changes nothing. -/
def Obligations.RowOperationsEndAndAccessesWait : Prop :=
  (∀ (s : State) (op : Nat) (a : RowRun) (n j : Nat), s.rowRun op = some a → s.quiet op = true → s.locate a.r.sp a.r.c a.r.tid = some (n, j) →
    bits (wordAt a.r.words 9) 62 2 = 0 → ∃ t, exec (.rowOpDone op) s = .next t ∧ t.mem = s.mem ∧ t.objs = s.objs ∧ t.rowRun op = none ∧
      Stored s t n j (wordBytesAt (a.r.a.toNat + 0x58) ((if a.np then 2 ^ 51 else 0) + a.nf * 2 ^ 34 + a.nb * 2 ^ 17 + a.na))) ∧
  (∀ (s : State) (pc : Fin 512) (b : Fin 16), exec (.refresh pc b) s = .next s ∧
    ((∃ q ∈ s.rowBusy, (q.1, q.2.1) = (pc.val, b.val)) ∨ (s.nbu pc).cur ≠ none →
      exec (.ordinaryAccess pc b) s = .next { s with access := s.access ++ [(pc.val, b.val)] }) ∧
    ((∀ q ∈ s.rowBusy, (q.1, q.2.1) ≠ (pc.val, b.val)) → (s.nbu pc).cur = none → exec (.ordinaryAccess pc b) s = .next s)) ∧
  (∀ (s : State) (op : Nat) (a : RowRun) (b : Nat × Nat × Nat × Nat), s.rowRun op = some a → s.rowBusy.find? (fun q => q.2.2.1 == op) = some b →
    (b.1, b.2.1) ∈ s.access → exec (.rowStep op) s = .next { s with access := s.access.erase (b.1, b.2.1), agenda := .rowStep op :: s.agenda })

namespace Sys2Proof.Spec
open Sys2Proof.Machine

-- Launches (R39 to R50, R198 to R201)

/-- A task stands at the start of its run in context c of spire sp (R39): its launch, coordinate, arguments, weight and closure, code
version, entry, role, format table and the bases of its allocation; tile-store writes of the task before it in this context have yet to land. -/
def NewTask (s t : State) (sp c : Nat) (l : Launch) (tc : List Nat) (args : List Entry) (wgt : Nat) (cls : Entry) (cver entry rol : Nat)
    (b : Nat × Nat × Nat) : Prop :=
  let x := t.ctx sp c
  let w (k : Nat) : Nat := wordAt l.words k
  x.st = .ready ∧ x.pc = entry ∧ x.tc = tc ∧ (∀ k a, args[k]? = some a → x.sOf (k + 1) = [a]) ∧ (∀ q, q = 0 ∨ args.length < q → x.sOf q = []) ∧
  (x.vq, x.masks, x.lc, x.lb, x.loop, x.rstk, x.pins, x.drafts) = ([], [], 0, 0, none, [], [], []) ∧
  (x.inflight, x.deferred, x.wait, x.stall) = ([], [], none, none) ∧ x.tsw = (s.ctx sp c).tsw ∧ (∀ k v, l.ft[k]? = some v → Tab.get x.ftab k 0 = v) ∧
  (x.sys.nvr, x.sys.wgt, x.sys.cls, x.sys.sid, x.sys.pri, x.sys.ftp) = (bits (w 0) 36 4, wgt, cls, l.sid, bits (w 0) 24 3, bits (w 6) 0 5) ∧
  (x.sys.xlh, x.sys.rol, x.sys.cvr, x.sys.lwc, x.sys.seed, x.sys.sctr) = (l.words.getD 27 0, rol, cver, l.lwci, 0, 0) ∧
  (x.sys.rmd, x.sys.fst, x.sys.nxe, x.sys.tsw, x.sys.opv) = (0, 0, 0, 0, false) ∧
  (x.res.tsb, x.res.tsp, x.res.accB, x.res.accN) = (b.1 * 0x4000, bits (w 6) 8 9, b.2.1, bits (w 6) 24 8) ∧
  (x.res.latB, x.res.latN, x.res.cov, x.res.codeh) = (b.2.2, bits (w 6) 32 3, bits (w 0) 32 2, l.words.getD 1 0) ∧
  ∀ a, b.1 * 0x4000 ≤ a → a < (b.1 + bits (w 6) 8 9) * 0x4000 → (t.spire sp).mem.byteAt a = 0

/-- The arbiter of tower n alone changes, with the agenda and the count of numbers given out. -/
def OnlyArb (s t : State) (n : Nat) : Prop :=
  { t with towers := [], agenda := [], fresh := 0 } = { s with towers := [], agenda := [], fresh := 0 } ∧ (∀ m, m ≠ n → t.tower m = s.tower m) ∧
  { t.tower n with arb := .reset } = { s.tower n with arb := .reset }

/-- No other pending launch of its priority comes before launch l, the i-th of tower t: each was found due later, or is not due (R47). -/
def NextDue (s : State) (t i : Nat) (l : Launch) : Prop :=
  ∀ j x, (s.arb t).pend[j]? = some x → j ≠ i → x.id ≠ l.id ∧ (x.pri = l.pri → match l.due with
    | none => x.due = none ∧ s.launchDue false x = false
    | some d => d < s.fresh ∧ ∀ e, x.due = some e → d < e)

/-- A descriptor's task may start in context c of spire sp: the context is free, its launch is active and not stale, there is room. -/
def Fits (s : State) (sp c : Nat) (d : Desc) (l : Launch) (b : Nat × Nat × Nat) : Prop :=
  s.takes sp c = true ∧ s.launchOf d.ltwr d.lslot = some l ∧ s.room sp l = some b ∧ s.cfg.fuses.svn ≤ l.tsvn ∧ d.pois = false

/-- A closure homed here whose element stands in DRAM at `a` (Table 11-4). -/
structure CloAt (s : State) (h : Entry) (o : Obj) (a : Nat) : Prop where
  entry : s.liveOf h 3 = some o
  place : o.locate 0 0 = .mem a
  clean : s.poison = [] ∧ Memory.wf s.mem = true
/-- Its words: ISSUED, RETURNED, BORROWS, and the state with W0. -/
def cloWords (m : List Host.Cell) (a : Nat) : List Nat := [readLE m a 8, readLE m (a + 8) 8, readLE m (a + 16) 8, readLE m (a + 24) 8]

/-- A keep core may command contexts of this space on this spire (R380, R411). -/
def May (s : State) (who sp c : Nat) : Prop := s.enabled sp = true ∧ (who = 0 ∨ s.granted (s.ctx sp c).sys.sid = true)
/-- The answer that a context's control register holds (R411). -/
def Res (t : State) (sp c v : Nat) : Prop := Tab.get (t.spire sp).ctlRes c 0 = v

end Sys2Proof.Spec

/-- R47 to R50: a pending launch whose dependences hold enters its queue; the head of the highest queue takes the lowest free slot; a copy
enters the other towers' queues; a slot whose tasks have all retired frees, with the lines pinned for it; a launch whose translation has failed leaves, its
weight returned. -/
def Obligations.LaunchesMoveToSlots : Prop :=
  (∀ (s : State) (t : Fin 4) (i : Nat) (l : Launch), (s.arb t).pend[i]? = some l → l.trans = false → l.bor = false → l.fmt = false → l.pkgWide = false →
    s.depHolds true l.words l.depC l.depIx l.depTgt = true → s.depPoisoned l.words = false → ((s.arb t).queue l.pri).length < 256 → NextDue s t i l →
    ∃ u d, exec (.launchDependenceMet t i) s = .next u ∧ OnlyArb s u t ∧ (∀ e, l.due = some e → d = e) ∧
      ((u.arb t).pend.map fun x => { x with due := none }) = ((s.arb t).pend.map fun x => { x with due := none }).eraseIdx i ∧
      (u.arb t).queue l.pri = (s.arb t).queue l.pri ++ [{ l with due := some d }] ∧ (∀ p, p ≠ l.pri → (u.arb t).queue p = (s.arb t).queue p)) ∧
  (∀ (s : State) (t : Fin 4) (p k : Nat) (l : Launch) (r : List Launch), p < 8 → (s.arb t).queue p = l :: r →
    (∀ q, p < q → q < 8 → (s.arb t).queue q = []) → k < 64 → Tab.get (s.arb t).slots k none = none →
    (∀ j, j < k → Tab.get (s.arb t).slots j none ≠ none) → s.outOfRange l.words = false → ∃ u, exec (.launchActivate t) s = .next u ∧
      OnlyArb s u t ∧ (u.arb t).queue p = r ∧ (∃ x, u.slot t k = some x ∧ x.l = l ∧ (x.deficit, x.nextGang, x.live, x.placedAll) = (0, 0, 0, false)) ∧
      ∀ j, j ≠ k → u.slot t j = s.slot t j) ∧
  (∀ (s : State) (t : Fin 4) (l : Launch) (r : List Launch), (s.arb t).copies = l :: r → ((s.arb t).queue l.pri).length < 256 →
    ∃ u, exec (.launchCopy t) s = .next u ∧ OnlyArb s u t ∧ (u.arb t).copies = r ∧ (u.arb t).queue l.pri = (s.arb t).queue l.pri ++ [l]) ∧
  (∀ (s : State) (t : Fin 4) (k : Fin 64) (x : Slot), s.slot t k = some x →
    (x.placedAll = true ∧ x.live = 0 ∧ x.tables = 0 → ∃ u, exec (.launchRetire t k) s = .next u ∧ OnlyArb (s.unpinLines (64 * t + k)) u t ∧
      u.slot t k = none ∧ (∀ n, ∀ w ∈ (u.spire n).icache, (64 * t.val + k.val) ∉ w.pins) ∧ ∀ j, j ≠ k.val → u.slot t j = s.slot t j) ∧
    (x.placedAll = false ∨ x.live ≠ 0 ∨ x.tables ≠ 0 → exec (.launchRetire t k) s = .next s)) ∧
  (∀ (s : State) (t : Fin 4) (l : Launch) (noff nlen tsvn entry : Nat), (s.arb t).pend = [l] → l.trans = true → noff % 16 = 0 → entry % 16 = 0 →
    entry < nlen → s.cfg.fuses.svn ≤ tsvn → ∃ u, exec (.translationReady t 0 noff nlen tsvn entry) s = .next u ∧ OnlyArb s u t ∧
      (u.arb t).pend = [{ l with trans := false, noff := noff, nlen := nlen, tsvn := tsvn, entry := entry }]) ∧
  (∀ (s : State) (t : Fin 4) (l : Launch) (noff tsvn entry : Nat), (s.arb t).pend = [l] → l.trans = true → l.closure ≠ 0 → l.wgt ≠ 0 →
    ∃ u, exec (.translationReady t 0 noff 0 tsvn entry) s = .next u ∧ (u.arb t).pend = [] ∧ u.wret = s.wret ++ [(l.closure, l.wgt)] ∧ u.mem = s.mem)

/-- R43, R50, R68: a visit adds 65,536 to a slot's deficit; a gang of one that fits is placed whole where its place is free, at the cost of
its deficit, and its task starts with its coordinate, role and share of the weight. -/
def Obligations.GangsArePlacedWhole : Prop :=
  ∀ (s : State) (t : Fin 4) (slot : Fin 64) (x : Slot), s.slot t slot = some x → x.placedAll = false → hasSeq x.l.words = false →
    let d := min (x.deficit + 65536) (max (2 ^ 20) (gangCost t x.l))
    (∀ at_ : List (Fin 128 × Fin 8), d < gangCost t x.l → ∃ u, exec (.gangPlace t slot at_) s = .next u ∧ OnlyArb s u t ∧
      u.slot t slot = some { x with deficit := d }) ∧
    (∀ (sp : Fin 128) (c : Fin 8) (h own : List Nat) (r : List (List Nat)) (k : Nat) (o : Option Nat) (b : Nat × Nat × Nat),
      gangCost t x.l ≤ d → s.outranked t x.l = false → s.restores t x.l = false → s.holders t x.l.words = h :: r →
      s.gangOf t x.l h = some [(k, own, o)] → towerOf sp = t.val →
      sp.val ∈ own → s.takes sp c = true → s.room sp x.l = some b → s.cfg.fuses.svn ≤ x.l.tsvn →
      ∃ u, exec (.gangPlace t slot [(sp, c)]) s = .next u ∧ u.mem = s.mem ∧
        NewTask s u sp c x.l (s.tupleOf x.l.words k ++ List.replicate (8 - (s.tupleOf x.l.words k).length) 0)
          ((x.l.words.drop 8).take (bits (wordAt x.l.words 0) 48 8)) (if x.l.closure = 0 then 0 else shareOf x.l.wgt (ntasks x.l.words) k)
          x.l.closure (s.codeVersion x.l 0) x.l.entry (roleOf x.l.words (s.tupleOf x.l.words k)) b ∧
        u.slot t slot = some { x with deficit := d - gangCost t x.l, placedAll := true, live := x.live + 1 } ∧
        ∀ n j, n ≠ sp.val ∨ j ≠ c.val → u.ctx n j = s.ctx n j)

/-- R51, R58 to R60, R64: a free context takes its own deque's head, or steals the tail entry of its victim where the descriptor's reach
allows it; the task starts with what the descriptor holds; an entry that left a deque lets the oldest held push in. -/
def Obligations.FreeContextsTakeDescriptors : Prop :=
  (∀ (s : State) (sp : Fin 128) (c : Fin 8) (d : Desc) (r : List Desc) (l : Launch) (b : Nat × Nat × Nat), (s.spire sp).deque = d :: r →
    Fits s sp c d l b → ∃ t, exec (.dequePop sp c) s = .next t ∧ t.mem = s.mem ∧ NewTask s t sp c l d.tc d.args d.wgt d.clsh d.cver d.entry d.rol b ∧
      (t.spire sp).deque = r ∧ (∀ n j, n ≠ sp.val ∨ j ≠ c.val → t.ctx n j = s.ctx n j)) ∧
  (∀ (s : State) (sp : Fin 128) (c : Fin 8) (d : Desc) (l : Launch) (b : Nat × Nat × Nat) (v : Nat), s.thief sp = true → stealTime (s.spire sp).victim ≤ (s.spire sp).pause →
    (victims sp)[(s.spire sp).victim]? = some v → s.enabled v = true → (s.spire v).deque.getLast? = some d →
    Fits s sp c d l b → (v / 8 = sp.val / 8 ∧ (d.sreach = 1 ∨ d.sreach = 2) ∨ v / 8 ≠ sp.val / 8 ∧ d.sreach = 2) →
    ∃ t, exec (.stealAttempt sp c) s = .next t ∧ t.mem = s.mem ∧ NewTask s t sp c l d.tc d.args d.wgt d.clsh d.cver d.entry d.rol b ∧
      (t.spire v).deque = (s.spire v).deque.dropLast ∧ (t.spire sp).victim = 0) ∧
  (∀ (s : State) (sp : Fin 128), (s.spire sp).restart = some 0 → ∃ t, exec (.stealRestart sp) s = .next t ∧ OnlySpire s t sp ∧
    t.spire sp = { s.spire sp with restart := none, victim := 0 }) ∧
  (∀ (s : State) (t : Fin 4) (h : HeldPush) (r : List HeldPush), (s.arb t).holding = h :: r → s.hasRoom h.sp = true →
    ∃ u, exec (.holdingListInsert t) s = .next u ∧ u.mem = s.mem ∧ (u.spire h.sp).deque = (s.spire h.sp).deque ++ [h.d] ∧
      (u.arb t).holding = r ++ (s.arb t).upstream.take 1 ∧ (u.arb t).upstream = (s.arb t).upstream.drop 1 ∧
      ∀ n, n ≠ h.sp → u.spire n = s.spire n)

/-- R65 to R70: returned weight grows RETURNED at the closure's home and closes it when it equals ISSUED; a borrow grows ISSUED and BORROWS
by at least W0; its answer gives the weight to the task; an accumulator is flushed after 1,024 sc or when its spire holds nothing of it. -/
def Obligations.WeightReturnsAndBorrows : Prop :=
  (∀ (s : State) (h : Entry) (w : Nat) (r : List (Entry × Nat)) (o : Obj) (a : Nat), s.wret = (h, w) :: r → hpkg h = s.cfg.pkn → CloAt s h o a →
    (s.clo o).st = 1 → (s.clo o).returned + w < 2 ^ 64 → ∃ t, exec .weightReturn s = .next t ∧ t.wret = r ∧ t.spires = s.spires ∧ t.objs = s.objs ∧
      cloWords t.mem a = [(s.clo o).issued, (s.clo o).returned + w, (s.clo o).borrows,
        (if (s.clo o).returned + w = (s.clo o).issued then 2 else 1) * 2 ^ 62 + (s.clo o).w0] ∧
      ∀ b, b < a ∨ a + 32 ≤ b → cellGet t.mem b = cellGet s.mem b) ∧
  (∀ (s : State) (sp : Fin 128) (c : Fin 8) (q : Nat) (o : Obj) (a : Nat), let x := s.ctx sp c
    x.split = some ⟨q, false, false⟩ → hpkg x.sys.cls = s.cfg.pkn → CloAt s x.sys.cls o a →
    let share := if q = 0 then x.sys.wgt / 2 else q
    let need := max (s.clo o).w0 (max (share + 1 - x.sys.wgt) (2 - x.sys.wgt))
    x.sys.wgt + need < 2 ^ 32 → (s.clo o).issued + need < 2 ^ 64 → (s.clo o).borrows + 1 < 2 ^ 64 → ∃ t, exec (.borrow sp c) s = .next t ∧
      t.spires = s.spires ∧ t.objs = s.objs ∧ t.borrows = s.borrows ++ [(x.res.tid, need)] ∧ t.agenda = s.agenda ++ [.borrowAnswer sp c] ∧
      cloWords t.mem a = [(s.clo o).issued + need, (s.clo o).returned, (s.clo o).borrows + 1, (s.clo o).st * 2 ^ 62 + (s.clo o).w0]) ∧
  (∀ (s : State) (sp : Fin 128) (c : Fin 8) (tid n : Nat) (r : List (Nat × Nat)) (q : Split), s.borrows = (tid, n) :: r → RunsAt s sp c tid →
    (s.ctx sp c).split = some q → ∃ t, exec (.borrowAnswer sp c) s = .next t ∧ t.mem = s.mem ∧ t.borrows = r ∧
      t.ctx sp c = (if n = 0 then { s.ctx sp c with split := some { q with answered := true, refused := true } }
        else { s.ctx sp c with split := some { q with answered := true }, sys := { (s.ctx sp c).sys with wgt := (s.ctx sp c).sys.wgt + n } })) ∧
  (∀ (s : State) (sp : Fin 128) (k : Fin 8) (a : RAcc), (s.spire sp).racc[k.val]? = some a → a.h ≠ 0 → a.sum ≠ 0 →
    let flushed (t : State) : Prop := t.mem = s.mem ∧ t.wret = s.wret ++ [(a.h, a.sum)] ∧ t.agenda = s.agenda ++ [.weightReturn] ∧
      t.spire sp = { s.spire sp with racc := (s.spire sp).racc.eraseIdx k }
    (1024 ≤ a.since → ∃ t, exec (.accFlushTimer sp k) s = .next t ∧ flushed t) ∧
    ((s.spire sp).holds a.h = false → ∃ t, exec (.accFlushIdle sp k) s = .next t ∧ flushed t)) ∧
  (∀ (s : State) (p : RelPush) (r : List RelPush) (tb : Nat × RelTab) (sp : Nat) (d : Desc), s.relq = p :: r → p.asked = false → p.h = 0 →
    s.relTabs.find? (fun q => q.1 == p.rtid) = some tb → tb.2.entries = [(p.rstep, sp, d)] → d.cver ≠ 0 → s.hasRoom sp = true →
    (∀ h ∈ (s.arb (towerOf sp)).holding, h.sp ≠ sp) → ∃ t, exec .releaseStepPush s = .next t ∧ t.mem = s.mem ∧ t.relq = r ∧ p.rstep ∈ t.relDone ∧
      (t.spire sp).deque = (s.spire sp).deque ++ [{ d with clsh := 0, wgt := 0 }] ∧ ∀ n, n ≠ sp → t.spire n = s.spire n)

namespace Sys2Proof.Spec
open Sys2Proof.Machine

/-- The image of a saved task keeps what it holds from 0 (Table 19-9). -/
def FromZero (i : SaveImg) : Prop := (i.ctx.res.tsb, i.ctx.res.accB, i.ctx.res.latB) = (0, 0, 0)
/-- DRAM address of byte `off` of save slot `img` of a launch. -/
def slotAddr (s : State) (l : Launch) (img off : Nat) : Option Nat := s.saveAddr l (img * slotBytes l.words + off)
/-- Offsets in a save slot of the first accumulator word and of the first latch byte of a task (Table 19-9). -/
def accOff (r : TaskRes) : Nat := 0x10000 + r.tsp * 0x4000
def latOff (r : TaskRes) : Nat := accOff r + r.accN * 0x10000
/-- The launch's save area stands in HBM, each byte in a place of its own. -/
structure AreaHere (s : State) (l : Launch) (img : Nat) : Prop where
  here : s.slotFault l img = none
  apart : ∀ a b m, s.saveAddr l a = some m → s.saveAddr l b = some m → a = b
  wf : Memory.wf s.mem = true
/-- What the save area's slot holds of a task under allocation r is what the spire's stores hold (R417, R420). -/
def HoldsStores (s : State) (l : Launch) (img : Nat) (x : SpireMem) (r : TaskRes) : Prop :=
  (∀ a, a < r.tsp * 0x4000 → ∃ m, slotAddr s l img (0x10000 + a) = some m ∧ cellGet s.mem m = x.byteAt (r.tsb + a)) ∧
  (∀ k, k < r.accN * 16384 → ∃ m, slotAddr s l img (accOff r + 4 * k) = some m ∧ readLE s.mem m 4 = (cellGet x.acc (r.accB * 16384 + k)).toNat) ∧
  (∀ k, k < r.latN * 32768 → ∃ m, slotAddr s l img (latOff r + k) = some m ∧ cellGet s.mem m = cellGet x.lat (r.latB * 32768 + k))
/-- Each cell of a spire's stores is listed once. -/
def Listed (x : SpireMem) : Prop := (x.ts.map (·.1)).Nodup ∧ (x.acc.map (·.1)).Nodup ∧ (x.lat.map (·.1)).Nodup
/-- All but the context's state, bases and pending events. -/
def bare (x : Ctx) : Ctx := { x with st := .free, res := .reset, dtrap := [], tsw := [] }

end Sys2Proof.Spec

/-- R72 to R74, R417 to R421: pre-emption stops a context at a bundle boundary; a save frees the context and leaves a valid image, in the save area the bytes
of its pages, tiles and latches and the header; a restore gives the task back its registers, and its stores from the save area, under its new bases; the image is
no longer valid. A context that may not be pre-empted or whose save is not ready goes on; an invalid or mismatched image is left and reported. -/
def Obligations.TasksAreSavedAndRestored : Prop :=
  (∀ (s : State) (sp : Fin 128) (c : Fin 8), s.preemptible (s.ctx sp c) = true → ∃ t, exec (.preempt sp c) s = .next t ∧
    { t with spires := [], agenda := [] } = { s with spires := [], agenda := [] } ∧
    t.ctx sp c = { s.ctx sp c with st := .saving, prev := (s.ctx sp c).st, stall := none, stepping := none, halting := false } ∧
    t.agenda = s.agenda ++ [.saveComplete sp c] ∧ (∀ n j, n ≠ sp.val ∨ j ≠ c.val → t.ctx n j = s.ctx n j)) ∧
  (∀ (s : State) (sp : Fin 128) (c : Fin 8), s.preemptible (s.ctx sp c) = false → exec (.preempt sp c) s = .next s) ∧
  (∀ (s : State) (sp : Fin 128) (c : Fin 8) (y : Slot) (img : Nat), let x := s.ctx sp c
    x.st = .saving → s.saveReady sp c = true → s.slot x.res.ltwr x.res.lslot = some y → img < recSaven y.l.words → Tab.has y.imgs img = false →
    (∀ k, k < img → Tab.has y.imgs k = true) →
    x.res.tsp = recTsp y.l.words → x.res.accN = recAcc y.l.words → x.res.latN = recLat y.l.words → AreaHere s y.l img → Listed (s.spire sp).mem →
    ∃ t i z, exec (.saveComplete sp c) s = .next t ∧
      t.ctx sp c = { Ctx.reset with tsw := x.tsw, dtrap := x.dtrap } ∧ (∀ n j, n ≠ sp.val ∨ j ≠ c.val → t.ctx n j = s.ctx n j) ∧
      t.slot x.res.ltwr x.res.lslot = some z ∧ z.live = y.live ∧ z.imgs.find? (fun p => p.1 == img) = some (img, i) ∧
      i.valid = true ∧ FromZero i ∧ bare i.ctx = bare x ∧ i.ctx.st = (if x.prev = .wait then .wait else .ready) ∧
      t.headWord y.l img 0 = 0x5356453100010001 ∧ (∀ k, k < 4 → t.headWord y.l img (k + 1) = (s.headerOf sp x).getD k 0 % 2 ^ 64) ∧
      HoldsStores t y.l img (s.spire sp).mem x.res) ∧
  (∀ (s : State) (sp : Fin 128) (c : Fin 8), (s.ctx sp c).st ≠ .saving ∨ s.saveReady sp c = false → exec (.saveComplete sp c) s = .next s) ∧
  (∀ (s : State) (t : Fin 4) (slot : Fin 64) (sp : Fin 128) (c : Fin 8) (y : Slot) (img : Nat) (i : SaveImg) (b : Nat × Nat × Nat),
    s.slot t slot = some y → y.imgs.find? (fun p => p.1 == img) = some (img, i) → i.stopped = false → s.takes sp c = true → sp.val ∉ i.tried →
    (s.headerOk y.l img = true → s.mismatch y.l img sp = 0 → s.room sp y.l = some b →
      i.ctx.res.tsp = recTsp y.l.words → i.ctx.res.accN = recAcc y.l.words → i.ctx.res.latN = recLat y.l.words → FromZero i → AreaHere s y.l img →
      ∃ u z, exec (.restore t slot img sp c) s = .next u ∧ let x := u.ctx sp c
        x.st = (if i.ctx.pflt then .frozen else i.ctx.st) ∧ (x.pc, x.tc, x.sq, x.vq, x.masks, x.rstk, x.pins, x.drafts) =
          (i.ctx.pc, i.ctx.tc, i.ctx.sq, i.ctx.vq, i.ctx.masks, i.ctx.rstk, i.ctx.pins, i.ctx.drafts) ∧
        (x.loop, x.lc, x.lb, x.ftab, x.sys, x.wait, x.deferred) =
          (i.ctx.loop, i.ctx.lc, i.ctx.lb, i.ctx.ftab, i.ctx.sys, i.ctx.wait, i.ctx.deferred) ∧
        x.inflight = i.ctx.inflight.map (fun f => { f with delay := if i.ctx.pflt then f.delay else f.delay + 1 }) ∧
        x.res = { i.ctx.res with tsb := b.1 * 0x4000, accB := b.2.1, latB := b.2.2, lck := x.res.lck } ∧ HoldsStores s y.l img (u.spire sp).mem x.res ∧
        u.slot t slot = some z ∧ Tab.has z.imgs img = false ∧ u.headWord y.l img 0 = s.headWord y.l img 0 - 1 ∧
        ∀ n j, n ≠ sp.val ∨ j ≠ c.val → u.ctx n j = s.ctx n j) ∧
    (s.headerOk y.l img = false → ∃ u z, exec (.restore t slot img sp c) s = .next u ∧ (u.mem, u.spires) = (s.mem, s.spires) ∧
      u.slot t slot = some z ∧ z.imgs.find? (fun p => p.1 == img) = some (img, { i with stopped := true })) ∧
    (s.headerOk y.l img = true → s.mismatch y.l img sp ≠ 0 → ∃ u z, exec (.restore t slot img sp c) s = .next u ∧ (u.mem, u.spires) = (s.mem, s.spires) ∧
      u.slot t slot = some z ∧ z.imgs.find? (fun p => p.1 == img) = some (img, { i with tried := sp.val :: i.tried })))

/-- R412, R413, R423 (Tables 19-5, 19-6): RESUME, SAVE, TERMINATE, HALT, STEP and RELEASE of a context in the states that allow them; any
other state refuses the command with RES = 1 and no other effect. -/
def Obligations.ContextCommands : Prop :=
  ∀ (s : State) (who : Nat) (sp : Fin 128) (c : Fin 8), May s who sp c → let x := s.ctx sp c
    let refused (i : Instr) : Prop := ∃ t, exec i s = .next t ∧ OnlySpire s t sp ∧ t.spire sp = { s.spire sp with ctlRes := Tab.set (s.spire sp).ctlRes c 1 }
    let others (t : State) : Prop := t.mem = s.mem ∧ ∀ n j, n ≠ sp.val ∨ j ≠ c.val → t.ctx n j = s.ctx n j
    (x.st = .frozen → s.pend x.res.tid = 0 → ∃ t, exec (.resume who sp c) s = .next t ∧ others t ∧ Res t sp c 0 ∧
      t.ctx sp c = { x with st := (if x.wait = none then .ready else .wait), inflight := x.inflight.map fun f => { f with delay := f.delay + 1 } }) ∧
    (x.st ≠ .frozen ∨ s.pend x.res.tid ≠ 0 → refused (.resume who sp c)) ∧
    (x.st = .ready ∨ x.st = .wait ∨ x.st = .stall → ∃ t r, exec (.halt who sp c) s = .next t ∧ others t ∧ Res t sp c 0 ∧
      t.ctx sp c = { x with st := .halt, stall := none, stepping := none, halting := false, nstep := 0 } ∧ Posted t sp r ∧
      (r.tcls, r.tsub, r.ctx, r.frz, r.eff, r.boff, r.roff, r.detail) = (15, 2, c.val, false, true, x.pc, x.pc, [])) ∧
    (x.st ≠ .ready → x.st ≠ .wait → x.st ≠ .stall → refused (.halt who sp c)) ∧
    (∀ n : Fin 256, x.st = .halt → s.pend x.res.tid = 0 → ∃ t, exec (.step who sp c n) s = .next t ∧ others t ∧ Res t sp c 0 ∧
      t.ctx sp c = { x with stepping := some (n + 1), nstep := 0 }) ∧
    (x.st = .halt → s.pend x.res.tid = 0 → ∃ t, exec (.release who sp c) s = .next t ∧ others t ∧ Res t sp c 0 ∧ t.ctx sp c = { x with
      st := (if x.wait = none then .ready else .wait), stepping := none, halting := false
      inflight := x.inflight.map fun f => { f with delay := f.delay + 1 } }) ∧
    (x.st ≠ .halt → refused (.release who sp c) ∧ ∀ n : Fin 256, refused (.step who sp c n)) ∧
    (x.st ≠ .free → x.st ≠ .saving → s.freeSave x ≠ none → ∃ t, exec (.save who sp c) s = .next t ∧ others t ∧ Res t sp c 0 ∧
      t.ctx sp c = { x with st := .saving, prev := x.st, stall := none, stepping := none, halting := false }) ∧
    (x.st = .free ∨ x.st = .saving ∨ s.freeSave x = none → refused (.save who sp c)) ∧
    (x.st = .frozen ∨ x.st = .halt → x.depth = 0 → x.sys.opv = false → ∃ t, exec (.terminate who sp c) s = .next t ∧ others t ∧ Res t sp c 0 ∧
      t.ctx sp c = { Ctx.reset with tsw := x.tsw, dtrap := x.dtrap } ∧
      .launchRetire (Fin.ofNat 4 x.res.ltwr) (Fin.ofNat 64 x.res.lslot) ∈ t.agenda) ∧
    (x.st ≠ .frozen → x.st ≠ .halt → refused (.terminate who sp c))

/-- R410, R422 (Tables 19-4, 19-7): PREON, RETRY and TERMIMG of an active slot; a write of HEAD acknowledges what lies before it; TQB and
TQLOG are taken while HEAD = TAIL, which sets both to 0. -/
def Obligations.SlotCommandsAndTrapQueueRegisters : Prop :=
  (∀ (s : State) (who : Nat) (t : Fin 4) (k : Fin 64) (y : Slot), s.slot t k = some y → who = 0 ∨ s.granted y.l.sid = true →
    (∃ u, exec (.preon who t k) s = .next u ∧ OnlyArb s u t ∧ u.slot t k = some { y with preoff := false } ∧ Tab.get (u.arb t).lscRes k 0 = 0) ∧
    (∀ (img : Nat) (i : SaveImg), y.imgs = [(img, i)] →
      (img < recSaven y.l.words → ∃ u, exec (.retry who t k img) s = .next u ∧ OnlyArb s u t ∧
        u.slot t k = some { y with imgs := [(img, { i with stopped := false, tried := [] })] } ∧ Tab.get (u.arb t).lscRes k 0 = 0) ∧
      (img < recSaven y.l.words → s.headWord y.l img 0 / 2 ^ 16 = 0x535645310001 → ∃ u, exec (.termimg who t k img) s = .next u ∧
        (∃ z, u.slot t k = some z ∧ z.imgs = [] ∧ z.live = y.live - 1) ∧ .launchRetire t k ∈ u.agenda ∧ Tab.get (u.arb t).lscRes k 0 = 0) ∧
      (recSaven y.l.words ≤ img → ∃ u, exec (.termimg who t k img) s = .next u ∧ OnlyArb s u t ∧ u.slot t k = some y ∧
        Tab.get (u.arb t).lscRes k 0 = 1))) ∧
  (∀ (s : State) (t : Fin 4) (v : Entry), let q := (s.tower t).tq
    let h := bits v.toNat 0 16
    v.toNat / 2 ^ 48 = 0 → bits v.toNat 16 16 = 0 → h < 2 ^ q.tqlog →
    ((h + 2 ^ q.tqlog - q.head) % 2 ^ q.tqlog ≤ (q.tail + 2 ^ q.tqlog - q.head) % 2 ^ q.tqlog →
      ∃ u, exec (.tqHeadWrite t v) s = .next u ∧ (u.tower t).tq.head = h ∧ u.mem = s.mem ∧ u.objs = s.objs ∧ ∀ n c, u.ctx n c = s.ctx n c) ∧
    (¬(h + 2 ^ q.tqlog - q.head) % 2 ^ q.tqlog ≤ (q.tail + 2 ^ q.tqlog - q.head) % 2 ^ q.tqlog → exec (.tqHeadWrite t v) s =
      .next { s with cfg := { s.cfg with accessErrors := s.cfg.accessErrors + 1 } })) ∧
  (∀ (s : State) (t : Fin 4) (v : Entry), v.toNat / 2 ^ 48 = 0 → bits v.toNat 5 7 = 0 →
    ((s.tower t).tq.head ≠ (s.tower t).tq.tail → exec (.tqConfigWrite t v) s =
      .next { s with cfg := { s.cfg with accessErrors := s.cfg.accessErrors + 1 } }) ∧
    ((s.tower t).tq.head = (s.tower t).tq.tail → (s.hru t).held = [] → (∀ n, towerOf n = t.val → (s.spire n).held = []) →
      ∃ u, exec (.tqConfigWrite t v) s = .next u ∧ u.mem = s.mem ∧ (∀ n c, u.ctx n c = s.ctx n c) ∧ (u.tower t).tq =
        { (s.tower t).tq with tqb := v.toNat / 4096 * 4096, tqlog := v.toNat % 32, head := 0, tail := 0 }))

namespace Sys2Proof.Spec
open Sys2Proof.Machine

-- The fabric (R346 to R366, R446 to R456)

/-- A record of class FABRIC enters the trap queue of tower k, or waits at its HRU (R445, R469). -/
def Noted (s t : State) (k sub : Nat) (det : List (Nat × Nat × Nat)) : Prop :=
  ∃ r : TrapRec, (r.tcls, r.tsub, r.spne, r.ctx, r.spn, r.detail) = (12, sub, true, 7, 0, det) ∧
    ((t.tower k).tq, (t.hru k).held) = (s.tower k).tq.take ((s.hru k).held ++ [r])
/-- A record of lane n. -/
def LaneNoted (s t : State) (n sub : Nat) (det : List (Nat × Nat × Nat)) : Prop := Noted s t (n / 128) sub ([(0x40, 2, n)] ++ det)
/-- Only the fabric changes. -/
def OnlyFab (s t : State) : Prop := { t with fab := s.fab } = s
/-- The fabric changes, and what a record of it may touch. -/
def FabAndQueues (s t : State) : Prop := { t with fab := s.fab, towers := s.towers } = s

/-- A flit for this package passes its checks, does not fill its lane's window, and is the next of its path (R350, R357, R364, R446). -/
structure Arrives (s : State) (f : Flit) : Prop where
  room : (s.lane f.lane).wfc + 1 < 2 ^ 24
  tag : f.tagOk = true ∧ (s.peer f.h.hsrc).oldKey = false ∧ f.h.kp = ((s.peer f.h.hsrc).epoch % 2 == 1)
  known : (s.peer f.h.hsrc).unreachable = false
  hdr : f.h.rsv = 0 ∧ f.h.edst = s.cfg.pkn
  turn : s.fab.reorder = [] ∧ s.nextPseq (flitPath f) = f.h.pseq

/-- Its lane has counted the flit and its bit errors, and its sender has been heard (R446, R451). -/
def Heard (s t : State) (f : Flit) : Prop :=
  t.lane f.lane = { s.lane f.lane with bec := min ((s.lane f.lane).bec + f.errs) (2 ^ 32 - 1), wfc := (s.lane f.lane).wfc + 1 } ∧
  (t.peer f.h.hsrc).heard = some s.fab.ns ∧ (t.spires, t.mem, t.objs, t.nbus, t.cfg) = (s.spires, s.mem, s.objs, s.nbus, s.cfg)
/-- It has been handed on in its turn. -/
def HandedOn (s t : State) (f : Flit) : Prop := Heard s t f ∧ t.fab.reorder = [] ∧ t.nextPseq (flitPath f) = (f.h.pseq + 1) % 2 ^ 16

/-- The HRU of tower k has the request r after its others, and is to serve it. -/
def Asked (s t : State) (k : Nat) (r : Req) : Prop :=
  (t.hru k).q = (s.hru k).q ++ [r] ∧ (∀ j, j ≠ k → t.hru j = s.hru j) ∧ Instr.l2Miss (Fin.ofNat 4 k) ∈ t.agenda
/-- Home tower of a request: that of the word for a live object, else that of the handle (R95). -/
def homeAt (s : State) (h : Entry) (eidx : Nat) : Nat :=
  match s.here h with
  | some o => if o.live then o.homeTower (o.wordOff eidx) % 4 else honum h % 4
  | none => honum h % 4
/-- The first commit of a stream, in one segment (R352, R359). -/
def FirstOfStream (s : State) (f : Flit) : Prop :=
  f.x.sseq = 1 ∧ f.x.segi = 0 ∧ f.x.segn = 1 ∧ ∀ y ∈ s.fab.streams, y.key ≠ (f.x.obj, f.h.esrc, f.x.rtag / 2 ^ 14)
/-- The bytes of a commit of one segment, as places in its object and bytes: under the mask that it carries, or the start of a whole row of a row operation;
none of a poisoned row. -/
def commitBytes (red : Bool) (f : Flit) : List (Nat × Byte) :=
  if red = false ∧ f.x.opc = 1 then (List.range 1024).zip f.data else if red = false ∧ f.x.opc = 2 then [] else segBytes [f.data]
/-- The item that a flit answers. -/
def itemOf (s : State) (peer rtag : Nat) : Option Item := s.fab.items.find? fun i => i.peer == peer && i.rtag == rtag
/-- The items without it. -/
def itemsBut (s : State) (peer rtag : Nat) : List Item := s.fab.items.filter fun i => !(i.peer == peer && i.rtag == rtag)
/-- What item i has in flight is queued again for a path chosen afresh. -/
def Again (t : State) (f : Flit) : Prop := ∃ g ∈ t.fab.outq, (g.h.edst, g.x.rtag, g.x.segi, g.h.kind) = (f.h.edst, f.x.rtag, f.x.segi, f.h.kind)

/-- Package q is faced in this slot by its lane n alone, and nothing is to be forwarded to it. -/
structure Faces (s : State) (q n : Nat) : Prop where
  emits : s.emits = true ∧ q ≠ s.cfg.pkn ∧ s.present q = true ∧ s.directSlot q = s.slotNow
  time : s.flitTime < 15 ∧ s.usedTimes q ≤ s.flitTime
  lane : s.inService q = [n] ∧ n < 512 ∧ Tab.get (s.lane n).ctr q 0 < 2 ^ 32 - 2
  idle : ∀ k, (s.tower k).relay = []
/-- The header of the hop (R350, R356, R364). -/
def hopHdr (s : State) (q n : Nat) (h : FlitHdr) (pseq : Nat) : FlitHdr :=
  { h with
    hsrc := s.cfg.pkn
    hdst := q
    kp := (s.peer q).epoch % 2 == 1
    rsv := 0
    crd := min 255 (Tab.get (s.peer q).owed (n / 128) 0)
    pseq := pseq
    ctr := Tab.get (s.lane n).ctr q 0
    tns := s.fab.ns % 4096 }

end Sys2Proof.Spec

/-- R349 to R352, R356 to R360, R364, R446, R450, R456: a flit that passes its checks is handed on in path order: a request, a commit, a live
operation or a page map request joins the queue of its home HRU; a response or an acknowledgement ends the item it answers; a part or a
release of a collective is held for it; a TIME flit steers the time base; a flit that fails its tag has no effect but TAGF. -/
def Obligations.FlitsReachTheirConsumers : Prop :=
  (∀ (s : State) (f : Flit), Arrives s f →
    (∃ t, exec (.idle f) s = .next t ∧ Heard s t f ∧ OnlyFab s t ∧ t.fab = { s.fab with lanes := t.fab.lanes, peers := t.fab.peers }) ∧
    (∃ t, exec (.key f) s = .next t ∧ HandedOn s t f ∧ OnlyFab s t ∧
      t.fab = { s.fab with lanes := t.fab.lanes, peers := t.fab.peers, pseqRx := t.fab.pseqRx }) ∧
    (∃ t, exec (.rdreq f) s = .next t ∧ HandedOn s t f ∧ Asked s t (homeAt s f.x.obj 0)
      ⟨.tld zS2 0, 128 + f.h.esrc, 8, 0, 0, 0, f.x.sseq, 3, f.x.obj, 0, 0,
        [BitVec.ofNat 64 f.x.ver, BitVec.ofNat 64 f.x.off, BitVec.ofNat 64 (f.x.segi * 16 + f.x.segn)], f.x.rtag⟩) ∧
    (FirstOfStream s f → ∀ red : Bool, ∃ t, exec (if red then .redw f else .write f) s = .next t ∧ HandedOn s t f ∧
      Asked s t (homeAt s f.x.obj (if red then 1 else 0)) ⟨.tst zS2 0, 128 + f.h.esrc, 8, 0, 0, 0, 1, 3, f.x.obj, 0, if red then 1 else 0,
        [BitVec.ofNat 64 f.x.ver, BitVec.ofNat 64 f.x.off, BitVec.ofNat 64 f.x.fmt, BitVec.ofNat 64 f.x.opc] ++
          (commitBytes red f).map fun p => BitVec.ofNat 64 ((f.x.off + p.1) * 256 + p.2.toNat), f.x.rtag⟩) ∧
    (∀ w0 a b : Entry, f.x.sseq = 0 → f.x.opc = 1 → f.data.length = 24 → bytesWords 3 f.data = [w0, a, b] →
      ∃ t, exec (.live f) s = .next t ∧ HandedOn s t f ∧ Asked s t (homeAt s a (bits w0.toNat 32 32))
        ⟨.cntAdd zS2 .rlx 0, 128 + f.h.esrc, 8, 0, bits w0.toNat 16 16, 0, 0, 3, a, b, bits w0.toNat 32 32, [], f.x.rtag⟩) ∧
    (f.x.opc = 1 → ∃ t, exec (.hruFlit f) s = .next t ∧ HandedOn s t f ∧ Asked s t (homeAt s f.x.obj 0)
      ⟨.tgath zS2 0, 128 + f.h.esrc, 8, 0, wordAt (flitWords f) 0, 0, f.x.sseq, 3, f.x.obj, 0, 0,
        [1, BitVec.ofNat 64 f.x.ver, BitVec.ofNat 64 (f.x.off / 65536)], f.x.rtag⟩) ∧
    (∀ (i : Item) (n : Nat) (a : AOp), itemOf s f.h.esrc f.x.rtag = some i → i.op = some n → i.got = [] → f.x.opc ≠ 7 → f.x.segi = 0 →
      f.x.segn = 1 → s.aops.find? (fun a => a.id == n) = some a → ∃ t, exec (.rdrsp f) s = .next t ∧ HandedOn s t f ∧
      t.fab.items = itemsBut s f.h.esrc f.x.rtag ∧ t.aops.find? (fun a => a.id == n) =
        some { a with buf := a.buf ++ ((List.range f.data.length).zip f.data).map fun p => (f.x.obj, f.x.off + p.1, p.2) }) ∧
    (∀ i : Item, itemOf s f.h.esrc f.x.rtag = some i → i.op = none → f.x.opc ≠ 7 → ∃ t, exec (.ack f) s = .next t ∧ HandedOn s t f ∧
      OnlyFab s t ∧ t.fab.items = itemsBut s f.h.esrc f.x.rtag) ∧
    (FirstOfStream s f → let p := partOf f.h.esrc f.x.off [f.data]
      s.collOver p.memb p.ix = false → ∃ t, exec (.collFlit f) s = .next t ∧ HandedOn s t f ∧ t.collIn = s.collIn ++ [p] ∧
        ∃ a, t.fab.outq = s.fab.outq ++ [a] ∧ (a.h.kind, a.h.edst, a.x.rtag, a.x.sseq) = (5, f.h.esrc, f.x.rtag, 1)) ∧
    (FirstOfStream s f → let n (k : Nat) : Nat := wordAt (bytesWords 6 f.data) k
      let memb := n 0 + n 1 * 2 ^ 64 + n 2 * 2 ^ 128 + n 3 * 2 ^ 192
      s.collOver memb (n 4) = false → ∃ t, exec (.rel f) s = .next t ∧ HandedOn s t f ∧
        t.collRel = s.collRel ++ [⟨memb, n 4, f.h.esrc, bits (n 5) 0 6, bits (n 5) 8 8, f.x.obj, f.x.off % 2 ^ 32⟩] ∧
        ∃ a, t.fab.outq = s.fab.outq ++ [a] ∧ (a.h.kind, a.h.edst, a.x.rtag, a.x.sseq) = (5, f.h.esrc, f.x.rtag, 1)) ∧
    (∀ off : Int, s.fab.master = s.cfg.pkn → f.x.opc ≠ 7 → ∃ t, exec (.time f off) s = .next t ∧ HandedOn s t f ∧ ∃ g, t.fab.outq = s.fab.outq ++ [g] ∧
      (g.h.kind, g.h.edst, g.x.opc, g.data) = (0xA, f.h.esrc, 7, leBytes s.fab.ns 8)) ∧
    (∀ off : Int, s.fab.master ≠ s.cfg.pkn → f.h.esrc = s.fab.master → s.fab.aligned = true → -2 ^ 31 ≤ off → off < 2 ^ 31 →
      (-8 ≤ off ∧ off ≤ 8 → ∃ (t : State) (e : Int), exec (.time f off) s = .next t ∧ HandedOn s t f ∧ -2 ≤ e ∧ e ≤ 2 ∧
        t.fab.ns = ((s.fab.ns : Int) - off + e).toNat ∧ t.fab.timeSeen = s.fab.ns ∧ t.fab.aligned = true) ∧
      (¬(-8 ≤ off ∧ off ≤ 8) → ∃ t, exec (.time f off) s = .next t ∧ HandedOn s t f ∧ (t.fab.aligned, t.fab.dark, t.fab.ns) = (false, true, s.fab.ns)))) ∧
  (∀ (s : State) (f : Flit), (s.lane f.lane).wfc + 1 < 2 ^ 24 → f.h.edst ≠ s.cfg.pkn →
    (f.tagOk = false → (s.lane f.lane).tagf ≠ (s.lane f.lane).tagf0 → ∃ t, exec (.flitDiscard f) s = .next t ∧ OnlyFab s t ∧
      t.fab = { s.fab with lanes := t.fab.lanes } ∧ t.lane f.lane = { s.lane f.lane with
        bec := min ((s.lane f.lane).bec + f.errs) (2 ^ 32 - 1), wfc := (s.lane f.lane).wfc + 1
        tagf := min ((s.lane f.lane).tagf + 1) (2 ^ 32 - 1) }) ∧
    (s.tagPasses f = true → f.h.rsv = 0 → f.h.kind ≤ 0xB → ∃ t, exec (.flitDiscard f) s = .next t ∧ OnlyFab s t ∧
      t.fab = { s.fab with lanes := t.fab.lanes } ∧ t.lane f.lane = { s.lane f.lane with
        bec := min ((s.lane f.lane).bec + f.errs) (2 ^ 32 - 1), wfc := (s.lane f.lane).wfc + 1
        ucw := min ((s.lane f.lane).ucw + 1) (2 ^ 32 - 1) }) ∧
    (s.tagPasses f = true → f.h.rsv = 0 → ∃ t, exec (.rdreq f) s = .next t ∧ Heard s t f ∧
      (t.tower (f.lane.val / 128)).relay = (s.tower (f.lane.val / 128)).relay ++ [(s.fab.ns / 512, flitOfKind f 1)]))

/-- R446 to R449, R366, R469 (Table 21-2): a window's end, retraining at both ends, its limit, a lost carrier and a keep core's writes change
the lane as their rules say; what was not acknowledged on a lane that left service goes again. -/
def Obligations.LanesLeaveAndReturnToService : Prop :=
  ∀ (s : State) (n : Fin 512), let l := s.lane n
    let others (t : State) : Prop := ∀ m, m ≠ n.val → t.lane m = s.lane m
    (2 ^ 24 ≤ l.wfc → ∃ t, exec (.laneWindowClose n) s = .next t ∧ OnlyFab s t ∧ others t ∧
      t.lane n = { l with lwin := l.bec, bec := 0, wfc := 0, ucw0 := l.ucw, tagf0 := l.tagf, wantTrain := (t.lane n).wantTrain } ∧
      ((t.lane n).wantTrain = true ↔ l.wantTrain = true ∨
        l.rte = true ∧ l.lst = 0 ∧ (l.thr < l.bec ∨ l.ucw0 + 64 ≤ l.ucw ∨ l.tagf0 + 64 ≤ l.tagf))) ∧
    (l.wantTrain = true → l.ldis = false → ∃ t, exec (.retrainStart n) s = .next t ∧ FabAndQueues s t ∧ others t ∧
      LaneNoted s t n 3 [(0x48, 4, l.lwin)] ∧ t.lane n = { l with
        lst := 1, rtc := min 65535 (l.rtc + 1), outSince := some s.fab.ns, facing := none, wantTrain := false, failed := false } ∧
      ∀ i ∈ s.fab.items, ∀ f ∈ i.flits, f.lane = n → f.h.hdst ≠ s.cfg.pkn → Again t f) ∧
    (l.lst = 0 → ∃ t, exec (.trainingPatternReceived n) s = .next t ∧ OnlyFab s t ∧ others t ∧ t.lane n = { l with
        lst := 1, rtc := min 65535 (l.rtc + 1), outSince := some s.fab.ns, facing := some (s.facedBy n s.slotNow), wantTrain := false, failed := false } ∧
      ∀ i ∈ s.fab.items, ∀ f ∈ i.flits, f.lane = n → f.h.hdst ≠ s.cfg.pkn → f.h.hdst = s.facedBy n s.slotNow → Again t f) ∧
    (l.lst = 1 → s.flitTime = 0 → ∃ t, exec (.laneHandBack n) s = .next t ∧ FabAndQueues s t ∧ others t ∧
      t.lane n = { l with lst := 0, outSince := none, facing := none } ∧
      (l.facing = none → ∀ a, l.outSince = some a → LaneNoted s t n 4 [(0x48, 4, (s.fab.ns - a) / 4096)]) ∧ (l.facing ≠ none → OnlyFab s t)) ∧
    (∀ a, l.lst = 1 → l.facing = none → l.outSince = some a → a + 64 * 4096 ≤ s.fab.ns → ∃ t, exec (.retrainTimeout n) s = .next t ∧
      FabAndQueues s t ∧ others t ∧ t.lane n = { l with lst := 3, failed := true } ∧ LaneNoted s t n 5 []) ∧
    (l.lst ≠ 4 → ∃ t, exec (.lostCarrier n) s = .next t ∧ OnlyFab s t ∧ others t ∧
      t.lane n = { l with lst := 3, failed := true, facing := none, outSince := some s.fab.ns } ∧
      ∀ i ∈ s.fab.items, ∀ f ∈ i.flits, f.lane = n → f.h.hdst ≠ s.cfg.pkn → Again t f) ∧
    (∀ v : Entry, bits v.toNat 32 30 = 0 → ∃ t, exec (.laneRegWrite n 3 v) s = .next t ∧ OnlyFab s t ∧ others t ∧
      ((t.lane n).rte, (t.lane n).ldis, (t.lane n).thr) = (bit v.toNat 63, bit v.toNat 62, bits v.toNat 0 32) ∧
      (bit v.toNat 62 = true → (t.lane n).lst = 4 ∧ (l.lst ≠ 4 → ∀ i ∈ s.fab.items, ∀ f ∈ i.flits, f.lane = n → f.h.hdst ≠ s.cfg.pkn → Again t f))) ∧
    (∀ v : Entry, bits v.toNat 24 8 = 0 → exec (.laneRegWrite n 0 v) s = .next (s.modLane n fun l => { l with bec := bits v.toNat 32 32 })) ∧
    (∀ v : Entry, bits v.toNat 24 8 ≠ 0 → exec (.laneRegWrite n 0 v) s =
      .next { s with cfg := { s.cfg with accessErrors := s.cfg.accessErrors + 1 } })

/-- R347, R350, R353, R356, R365, R450, R451, R455, R456: a slot's start; the flit of a flit time; a resend and its limit; keys; a peer heard
again; the loss of alignment and its return. -/
def Obligations.FlitsAreSentAndResent : Prop :=
  (∀ s : State, let k := max s.fab.slotAt (s.fab.ns / 512)
    ∃ t, exec .slotStart s = .next t ∧ { t with fab := s.fab, agenda := s.agenda } = s ∧ t.fab.ns = max s.fab.ns (k * 512) ∧
      t.fab.slotAt = k + 1 ∧ t.fab.used = [] ∧ t.fab.items = s.fab.items ∧
      (k % 8 = 0 → s.fab.aligned = true → s.cfg.thermal = false → t.fab.dark = false) ∧ (k % 8 ≠ 0 → t.fab.dark = s.fab.dark)) ∧
  (∀ (s : State) (q : Fin 256) (n : Nat), Faces s q n →
    (∀ f : Flit, s.fab.outq = [f] → f.h.hdst = q → f.h.edst = q → f.h.rly = false → s.mayGo f = true → s.onPath q q < 2 ^ 15 → ∃ t, exec (.flitSend q) s = .next t ∧
      OnlyFab s t ∧ t.fab.outq = [] ∧ (t.lane n).ctr = Tab.set (s.lane n).ctr q (Tab.get (s.lane n).ctr q 0 + 1) ∧ ∃ g, t.fab.sent = [g] ∧
        (g.h, g.x, g.data, g.lane.val) = (hopHdr s q n f.h
          (((s.fab.pseqTx.find? (fun p => p.1 == q.val && p.2.1 == 256)).map (·.2.2)).getD 0), f.x, f.data, n)) ∧
    (s.fab.outq = [] → ∃ t g, exec (.flitSend q) s = .next t ∧ OnlyFab s t ∧ t.fab.sent = [g] ∧ (g.h.kind, g.h.hsrc, g.h.edst, g.data, g.lane.val) =
      (0, s.cfg.pkn, q.val, [], n))) ∧
  (∀ (s : State) (q : Nat) (it : Item), it.rtag < 2 ^ 16 → itemOf s q it.rtag = some it → s.unreachable q = false → it.sentNs + 8 * 4096 ≤ s.fab.ns →
    (it.sends < 32 → ∃ t, exec (.resendTimer (q * 2 ^ 16 + it.rtag)) s = .next t ∧ OnlyFab s t ∧
      itemOf t q it.rtag = some { it with sends := it.sends + 1, sentNs := s.fab.ns } ∧ ∀ f ∈ it.flits, Again t f) ∧
    (32 ≤ it.sends → (s.peer q).heard = none → it.op = none → it.req = none → (∀ j ∈ s.fab.items, j.peer = q → j = it) →
      ∃ t, exec (.resendTimer (q * 2 ^ 16 + it.rtag)) s = .next t ∧ FabAndQueues s t ∧ t.unreachable q = true ∧ Noted s t 0 8 [(0x40, 1, q)] ∧
        t.fab.items = s.fab.items.filter fun j => j.peer != q)) ∧
  (∀ (s : State) (q : Fin 256), let p := s.peer q
    (∃ t, exec (.keyEpochInstall q) s = .next t ∧ FabAndQueues s t ∧
      t.peer q = { p with epoch := p.epoch + 1, oldKey := true, newOn := [], epochNs := s.fab.ns } ∧ (∀ n ∈ lanesToward q, Tab.get (t.lane n).ctr q 0 = 0) ∧
      (∀ n ∈ lanesToward q, (s.lane n).lst = 2 → Tab.get (s.lane n).ctr q 0 = 2 ^ 32 - 1 → (t.lane n).lst = 0) ∧
      ∀ n, n ∉ lanesToward q → t.lane n = s.lane n) ∧
    (p.oldKey = true → 16 ≤ p.newOn.length ∨ p.epochNs + 4096 ≤ s.fab.ns → ∃ t, exec (.oldKeyErase q) s = .next t ∧ OnlyFab s t ∧
      t.peer q = { p with oldKey := false, newOn := [] }) ∧
    (p.unreachable = true → ∃ t, exec (.peerReachable q) s = .next t ∧ FabAndQueues s t ∧ Noted s t 0 9 [(0x40, 1, q)] ∧
      t.peer q = { p with unreachable := false, credit := Peer.reset.credit })) ∧
  (∀ s : State,
    (s.fab.aligned = true → s.fab.timeSeen + 4096 * 4096 ≤ s.fab.ns → ∃ t, exec .timeFlitTimeout s = .next t ∧ FabAndQueues s t ∧
      (t.fab.aligned, t.fab.dark, t.fab.unalignedAt) = (false, true, s.fab.ns) ∧ (∀ k, (t.tower k).relay = []) ∧
      Noted s t 0 0x0A [(0x40, 8, s.fab.lastOff.toNat)]) ∧
    (s.fab.aligned = false → ∃ t, exec .alignmentRegained s = .next t ∧ FabAndQueues s t ∧ t.fab.aligned = true ∧
      Noted s t 0 0x0B [(0x40, 4, (s.fab.ns - s.fab.unalignedAt) / 4096)])) ∧
  (∀ (s : State) (c : Nat) (a : CollRun), s.collRun c = some a →
    (a.phase = 1 → (∀ p ∈ s.collIn, p.memb = a.memb → p.ix = a.ix → p.digest = a.r.cDigest ∧ p.step ≠ 7) → ∀ g : CollSeg, a.segs = [g] → g.step = 3 → s.collPending a = false →
      (∀ q ∈ collDests a.memb 3 s.cfg.pkn, q ∈ g.sent) → (∀ q ∈ collNeeds a.memb 3 s.cfg.pkn, s.received a g.seg 3 q ≠ none) →
      ∃ t b, exec (.collStep c) s = .next t ∧ t.mem = s.mem ∧ t.fab = s.fab ∧ t.collRun c = some b ∧ b.phase = 2 ∧ b.segs.map (·.part) =
        [(collNeeds a.memb 3 s.cfg.pkn).foldl (fun x q => joinParts a.r x (((s.received a g.seg 3 q).map (·.1)).getD [])) g.part]) ∧
    (2 ≤ a.phase → a.phase ≠ 2 → a.phase ≠ 3 → a.rels = 0 → a.r.cTk = 0 → ∃ t, exec (.collStep c) s = .next t ∧ t.mem = s.mem ∧ t.spires = s.spires ∧
      t.collRun c = none))

namespace Sys2Proof.Spec
open Sys2Proof.Machine

-- HRU commands, registers, gating (R27, R31, R34, R35, R79, R114, R115, R464)

/-- The ring of HRU t holds no entry after the one at HEAD. -/
def LastEntry (s : State) (t : Nat) : Prop :=
  Memory.wf s.mem = true ∧ ((s.hru t).tail = (s.hru t).head ∨ (s.hru t).tail = ((s.hru t).head + 1) % 256)
/-- Where the status byte of the entry at HEAD stands (Table 03-8). -/
def statusAt (s : State) (t : Nat) : Nat := (s.hru t).cmdb + 32 * (s.hru t).head + 1
/-- A command has taken its ring entry: HEAD moves on and the entry says whether it was carried out (R115). -/
def TookEntry (s u : State) (t : Nat) (ok : Bool) : Prop :=
  (u.hru t).head = ((s.hru t).head + 1) % 256 ∧ Tab.get (u.hru t).status (s.hru t).head 0 = (if ok then 1 else 2) ∧
  cellGet u.mem (statusAt s t) = (if ok then 1 else 2) ∧ (u.cfg, u.fab) = (s.cfg, s.fab)
/-- It has changed no other byte of DRAM, and no spire. -/
def Took (s u : State) (t : Nat) (ok : Bool) : Prop :=
  TookEntry s u t ok ∧ u.spires = s.spires ∧ ∀ a, a ≠ statusAt s t → cellGet u.mem a = cellGet s.mem a
/-- The write is discarded: the count of access errors alone moves (R27). -/
def discarded (s : State) : State := { s with cfg := { s.cfg with accessErrors := s.cfg.accessErrors + 1 } }
/-- A keep core's write at `a` is discarded and reported to it (R27). -/
def reported (s : State) (kc : Fin 16) (a : Nat) : State :=
  { s with cfg := { s.cfg with accessErrors := s.cfg.accessErrors + 1, kcErrors := s.cfg.kcErrors ++ [(kc.val, a)] } }
/-- The trap queue registers of tower t alone change. -/
def OnlyTq (s u : State) (t : Nat) (f : TrapQ → TrapQ) : Prop :=
  { u with towers := s.towers } = s ∧ u.tower t = { s.tower t with tq := f (s.tower t).tq } ∧ ∀ k, k ≠ t → u.tower k = s.tower k
/-- A word of DRAM holds these bytes from a, and nothing else has changed there. -/
def Landed (m n : List Host.Cell) (a : Nat) (data : List Byte) : Prop :=
  (∀ (k : Nat) (b : Byte), data[k]? = some b → cellGet n (a + k) = b) ∧ ∀ x, x < a ∨ a + data.length ≤ x → cellGet n x = cellGet m x

-- The control protocol (R368, R373)

/-- A message that the port of its session accepts after bring-up. -/
structure Served (s : State) (m : CpMsg) (x : Session) : Prop where
  ses : s.sessionOf m = some x
  up : s.cfg.bsts = 0xFF
  form : m.cpv = 1 ∧ m.rsv = false
/-- The configuration with the message's SEQ taken and its reply, and nothing else of it changed. -/
def replied (c : Machine.Config) (m : CpMsg) (op sts : Nat) (words : List Nat) : Machine.Config :=
  { c with
    sessions := c.sessions.map fun x => if m.kc = none ∧ x.sess = m.sess then { x with seq := m.seq + 1 } else x
    replies := c.replies ++ [⟨m.portB, m.sess, m.seq, op, sts, words⟩] }
/-- The reply to a verb of RoCEv2. -/
def verbReply (c : Machine.Config) (portB : Bool) (op sts : Nat) (words : List Nat) : Machine.Config :=
  { c with replies := c.replies ++ [⟨portB, 0, 0, op, sts, words⟩] }
/-- A memory region over a live object, in one HBM or LPDDR page, at DRAM address a. -/
structure RegionAt (s : State) (r : RoceReq) (n : Nat) (o : Obj) (a : Nat) : Prop where
  region : s.memRegion r n = some o
  live : o.live = true ∧ o.lkind ≠ 4
  place : o.locate 0 r.off = .mem a
  page : r.off % 256 + n ≤ 256 ∨ peIL (o.page 0 (r.off / 65536)) = false ∧ r.off % 65536 + n ≤ 65536
  wf : Memory.wf s.mem = true
/-- The semaphore as a master holds it. -/
def heldAs (x : Sem) (m : Master) : Sem := { x with held := true, own := min (rankOf m) 2, kcn := rankOf m - 2, cnt := (x.cnt + 1) % 2 ^ 32 }

end Sys2Proof.Spec

/-- R27, R31, R79, R100, R114, R115, R380, R427: what the HRU's commands and the keep cores' register writes leave; what they refuse. -/
def Obligations.HruCommandsAndRegisterWrites : Prop :=
  (∀ (s : State) (t : Fin 4) (onum : Nat) (words : List Entry) (rights : List (Nat × Nat)), LastEntry s t →
    let osid := bits (wordAt words 9) 48 16
    16 ≤ (s.hru t).otlog → (s.hru t).otlog ≤ 26 → 0 < onum → onum < 2 ^ (s.hru t).otlog →
    (s.granted osid = true → s.obj onum = none → ∃ u o, exec (.otew t onum words rights) s = .next u ∧ Took s u t true ∧ u.obj onum = some o ∧
      o.rights = rights ∧ o.w.length = 16 ∧ (∀ k, k < 16 → k ≠ 4 → k ≠ 5 → k ≠ 7 → k ≠ 13 → o.w.getD k 0 = words.getD k 0) ∧
      (o.cver, o.dver, o.pinc, o.pino) = (if o.cls = 1 then 1 else 0, 0, 0, 0) ∧ (o.wrj, o.nsub, o.maps) = (0, 0, []) ∧ ∀ k, k ≠ onum → u.obj k = s.obj k) ∧
    (∀ o : Obj, s.granted osid = true → s.granted o.osid = true → s.obj onum = some o → o.cls ≠ 0 → o.gen = bits (wordAt words 0) 40 24 →
      ∃ u p, exec (.otew t onum words rights) s = .next u ∧ Took s u t true ∧ u.obj onum = some p ∧ p.rights = rights ∧
      (∀ k, k = 4 ∨ k = 5 ∨ k = 7 → p.w.getD k 0 = o.w.getD k 0) ∧ (p.wrj, p.nsub) = (o.wrj, o.nsub) ∧
      (∀ k, k < 16 → k ≠ 4 → k ≠ 5 → k ≠ 7 → k ≠ 13 → p.w.getD k 0 = words.getD k 0) ∧ (p.maps, p.retained) = (o.maps, o.retained) ∧
      ∀ k, k ≠ onum → u.obj k = s.obj k) ∧
    (s.granted osid = false → ∃ u, exec (.otew t onum words rights) s = .next u ∧ Took s u t false ∧ u.objs = s.objs)) ∧
  (∀ (s : State) (t : Fin 4) (h e : Entry) (ver page : Nat) (o : Obj), s.here h = some o → o.live = false → s.granted o.osid = true →
    page < o.pages → LastEntry s t → let v := if ver = 0 then o.dver else ver
    v ≠ 0 → v = o.dver ∨ o.holds v = true →
    (pageEntryOk e = true → ∃ u p, exec (.pmu t h ver page e) s = .next u ∧ Took s u t true ∧ u.obj (honum h) = some p ∧
      p.page v page = (e &&& ~~~(BitVec.ofNat 64 (2 ^ 59))) ||| (o.page v page &&& BitVec.ofNat 64 (2 ^ 59)) ∧
      (∀ w q, w ≠ v ∨ q ≠ page → p.page w q = o.page w q) ∧ ∀ k, k ≠ honum h → u.obj k = s.obj k) ∧
    (pageEntryOk e = false → ∃ u, exec (.pmu t h ver page e) s = .next u ∧ Took s u t false ∧ u.objs = s.objs)) ∧
  (∀ (s : State) (t : Fin 4) (h : Entry) (page : Option Nat) (dom : Bool), LastEntry s t →
    let gone (u : State) : Prop := u.objs = s.objs ∧ ∀ k, k < 4 → ∀ p ∈ (u.hru k).tlb, p.1 = h → ∃ q, page = some q ∧ (p.2.2.1 ≠ q ∨ 2 ^ 32 ≤ p.2.1)
    (dom = false ∨ s.others = [] → ∃ u, exec (.tinv t h page dom) s = .next u ∧ Took s u t true ∧ gone u) ∧
    (dom = true → s.others ≠ [] → ∃ u, exec (.tinv t h page dom) s = .next u ∧ gone u ∧ (u.hru t).acks = s.others ∧ (u.hru t).head = (s.hru t).head ∧
      (u.mem, u.spires, u.cfg) = (s.mem, s.spires, s.cfg))) ∧
  (∀ (s : State) (t : Fin 4) (sid : Nat) (h : Entry), LastEntry s t →
    (s.granted sid = true → ∃ u, exec (.purge t (some sid) h) s = .next u ∧ TookEntry s u t true ∧ u.objs = s.objs ∧
      (∀ n, ∀ l ∈ (u.spire n).l1, l.h = h → l.sid = sid → l.pins ≠ [] ∨ l.dirty ≠ []) ∧
      ∀ q ∈ u.l2Lines, q.2.2.h = h → q.2.2.sid = sid → q.2.2.pins ≠ [] ∨ q.2.2.dirty ≠ []) ∧
    (s.granted sid = false → ∃ u, exec (.purge t (some sid) h) s = .next u ∧ Took s u t false ∧ u.objs = s.objs)) ∧
  (∀ (s : State) (t : Fin 4) (l : List Nat), LastEntry s t →
    (0 < l.length → l.length ≤ 4096 → (∀ f ∈ l, f < 2 ^ 23) → ∃ u, exec (.fpool t l) s = .next u ∧ Took s u t true ∧
      (u.hru t).pool = (s.hru t).pool ++ l ∧ u.objs = s.objs) ∧
    ((∃ f ∈ l, 2 ^ 23 ≤ f) → ∃ u, exec (.fpool t l) s = .next u ∧ Took s u t false ∧ (u.hru t).pool = (s.hru t).pool ∧ u.objs = s.objs)) ∧
  (∀ (s : State) (t : Fin 4) (n : Nat), LastEntry s t → 0 < n → n ≤ 4096 → ∃ u, exec (.cpool t n) s = .next u ∧ Took s u t true ∧ u.objs = s.objs ∧
    (u.hru t).cpool = (s.hru t).cpool ++ (List.range n).map ((s.hru t).cnext + ·) ∧ (u.hru t).cnext = (s.hru t).cnext + n) ∧
  (∀ (s : State) (v : Entry), let w := v.toNat
    (w < 2 ^ 8 → (∀ t, t < 4 → bits w (2 * t) 2 ≠ 3) → (∀ t, t < 4 → s.active t = false) → ∃ u, exec (.tdmodeWrite v) s = .next u ∧
      { u with cfg := s.cfg, towers := s.towers } = s ∧ u.cfg = { s.cfg with tdmode := w } ∧ ∀ t d, t < 4 → d < 4 →
        u.swallowOf t d = (u.timedDomain t d).foldl (fun k q => max k (s.swallowOf q.1 q.2)) 0) ∧
    (2 ^ 8 ≤ w ∨ (∃ t, t < 4 ∧ (bits w (2 * t) 2 = 3 ∨ s.active t = true)) → exec (.tdmodeWrite v) s = .next (discarded s)) ∧
    (w % 2 ^ 32 = 0 → s.cfg.pknSet = false → exec (.pkidWrite v) s = .next { s with cfg := { s.cfg with pkn := w / 2 ^ 56, pknSet := true } }) ∧
    (w % 2 ^ 32 = 0 → s.cfg.pknSet = true → exec (.pkidWrite v) s = .next s) ∧ (w % 2 ^ 32 ≠ 0 → exec (.pkidWrite v) s = .next (discarded s))) ∧
  (∀ (s : State) (v : Entry) (kc : Fin 16) (who : Nat), let w := v.toNat
    (0 < w → w < 2 ^ 16 → exec (.registerWrite 0x00F000000050 v kc who) s = .next { s with cfg := { s.cfg with ldt := w } }) ∧
    (2 ^ 16 ≤ w → exec (.registerWrite 0x00F000000050 v kc who) s = .next (reported s kc 0x00F000000050)) ∧
    (∀ t : Fin 4, let rung := s.modHru t fun u => { u with tail := w % 256 }
      (w < 2 ^ 16 → (s.hru t).head ≠ (s.hru t).tail ∨ w % 256 = (s.hru t).head →
        exec (.registerWrite (0x00F000010010 + 0x1000 * t.val) v kc who) s = .next rung) ∧
      (∀ i, w < 2 ^ 16 → (s.hru t).head = (s.hru t).tail → w % 256 ≠ (s.hru t).head → rung.ringCommand t = some i →
        exec (.registerWrite (0x00F000010010 + 0x1000 * t.val) v kc who) s = .next { rung with agenda := i :: s.agenda }) ∧
      (∃ u, exec (.registerWrite (0x00F000030020 + 0x1000 * t.val) v kc who) s = .next u ∧ OnlyTq s u t fun q => { q with cecd := w / 2 ^ 32, cecs := w % 2 ^ 32 }) ∧
      (w / 2 ^ 56 % 4 = 0 → bits w 4 44 = 0 → ∃ u, exec (.registerWrite (0x00F000030028 + 0x1000 * t.val) v kc who) s = .next u ∧
        OnlyTq s u t fun q => { q with kmax := w / 2 ^ 58, tmax := bits w 48 8, pev := q.pev &&& (15 - w % 16) })) ∧
    (∀ (sp : Fin 128) (c : Fin 8), let a := 0x00F000040000 + 0x100 * sp.val + 8 * c.val
      (w = 2 ^ 60 → May s who sp c → exec (.registerWrite a v kc who) s = exec (.resume who sp c) s) ∧
      (w = 2 ^ 60 → ¬May s who sp c → exec (.registerWrite a v kc who) s = .next (reported s kc a))) ∧
    (∀ a : Nat, a % 8 = 0 → inDram a 8 = true → s.tableByte a = false → Memory.wf s.mem = true → ∃ u, exec (.registerWrite a v kc who) s = .next u ∧
      Landed s.mem u.mem a (leBytes w 8) ∧ { u with mem := s.mem, poison := s.poison } = s) ∧
    (∀ k : Fin 64, w = 1 → exec (.registerWrite (0x00F000020008 + 16 * k.val) v kc who) s = exec (.semAcquire kc k []) s) ∧
    exec (.registerWrite 0x00F000060000 v kc who) s = .next (reported s kc 0x00F000060000)) ∧
  (∀ (s : State) (sp : Fin 128) (b : Fin 64), let x := s.spire sp
    ((∀ r ∈ s.held sp, apart (4 * b.val) 4 (r.tsb / 0x4000) r.tsp = true) → b.val ∉ x.gated → b.val ∉ x.failed → (∀ w ∈ x.waking, w.1 ≠ b.val) →
      ∃ u, exec (.gateTsBank sp b) s = .next u ∧ OnlySpire s u sp ∧ { u.spire sp with mem := x.mem } = { x with gated := x.gated ++ [b.val] } ∧
        (∀ a, a / 0x10000 = b.val → (u.spire sp).mem.byteAt a = 0) ∧ ∀ a, a / 0x10000 ≠ b.val → (u.spire sp).mem.byteAt a = x.mem.byteAt a) ∧
    ((∃ r ∈ s.held sp, apart (4 * b.val) 4 (r.tsb / 0x4000) r.tsp = false) → exec (.gateTsBank sp b) s = .next s) ∧
    (∃ u, exec (.bankWakeComplete (.ts sp b)) s = .next u ∧ OnlySpire s u sp ∧ u.spire sp = { x with waking := x.waking.filter fun w => w.1 != b.val }) ∧
    ((∃ w ∈ x.waking, w.1 = b.val ∧ 2048 ≤ w.2) → ∃ u, exec (.bankWakeTimeout (.ts sp b)) s = .next u ∧ u.mem = s.mem ∧ b.val ∈ (u.spire sp).failed ∧
      (∀ w ∈ (u.spire sp).waking, w.1 ≠ b.val) ∧ bit (u.tower (towerOf sp)).tq.pev 3 = true ∧
      ∀ c : Fin 8, u.ctx sp c = (if (x.ctx c).st = .stall ∧ (x.ctx c).stall = some (.wake b) then { x.ctx c with
        st := .frozen, stall := none, stepping := none, halting := false } else x.ctx c))) ∧
  (∀ (s : State) (t d l : Fin 4) (way : Fin 16), let x := s.tower t
    let g := x.l2gated
    let at_ := (d.val, l.val, way.val)
    (at_ ∉ g → (g.filter fun w => w.1 == d.val && w.2.1 == l.val).length < 12 → ∃ u, exec (.gateL2Way t d l way) s = .next u ∧
      { u with towers := s.towers } = s ∧ u.tower t = { x with l2gated := g ++ [at_] }) ∧
    (at_ ∉ g → 12 ≤ (g.filter fun w => w.1 == d.val && w.2.1 == l.val).length → exec (.gateL2Way t d l way) s = .next s) ∧
    (at_ ∈ g → (∀ w ∈ x.l2waking, (w.1, w.2.1, w.2.2.1) ≠ at_) → (∀ q ∈ s.l2 t (4 * d.val + l.val), q.way ≠ way.val) →
      ∃ u, exec (.gateL2Way t d l way) s = .next u ∧ { u with towers := s.towers } = s ∧
        u.tower t = { x with l2waking := x.l2waking ++ [(d.val, l.val, way.val, 0)] }) ∧
    (∃ u, exec (.bankWakeComplete (.l2 t d l way)) s = .next u ∧ { u with towers := s.towers } = s ∧
      u.tower t = { x with
        l2gated := g.filter fun w => w != at_
        l2waking := x.l2waking.filter fun w => (w.1, w.2.1, w.2.2.1) != at_ }) ∧
    ((∃ w ∈ x.l2waking, (w.1, w.2.1, w.2.2.1) = at_ ∧ 2048 ≤ w.2.2.2) → ∃ u, exec (.bankWakeTimeout (.l2 t d l way)) s = .next u ∧
      { u with towers := s.towers } = s ∧ u.tower t = { x with
        l2waking := x.l2waking.filter fun w => (w.1, w.2.1, w.2.2.1) != at_
        tq := x.tq.raisePev 8 }))

/-- R368 to R373, R377, R457, R458, R460: what sessions, control messages, semaphores, RoCEv2 verbs, storage completions, frames and links
leave; a message that is not accepted has no effect. -/
def Obligations.HostPortsServeTheirMessages : Prop :=
  (∀ (s : State) (portB : Bool) (sess sid : Nat), (∀ x ∈ s.cfg.sessions, x.sess ≠ sess) → exec (.sessionOpen portB sess sid true) s =
    .next { s with cfg := { s.cfg with sessions := s.cfg.sessions ++ [⟨portB, sess, sid, 0⟩] } }) ∧
  (∀ (s : State) (m : CpMsg), s.sessionOf m = none → exec (.cpMessageDiscard m) s = .next s ∧ (∀ a, exec (.cpRegisterRead m a) s = .next s) ∧
    (∀ a v, exec (.cpRegisterWrite m a v) s = .next s) ∧ ((∀ p ∈ s.cfg.launching, p.1 ≠ m) → ∀ r, exec (.cpQueueLaunch m r) s = .next s)) ∧
  (∀ (s : State) (m : CpMsg) (x : Session), s.sessionOf m = some x → s.cfg.bsts = 0xFF → m.cpv ≠ 1 ∨ m.rsv = true →
    exec (.cpMessageDiscard m) s = .next { s with cfg := replied s.cfg m 0 3 [] } ∧ ∀ a, exec (.cpRegisterRead m a) s = .next { s with cfg := replied s.cfg m 1 3 [] }) ∧
  (∀ (s : State) (m : CpMsg) (x : Session), Served s m x →
    exec (.cpMessageDiscard m) s = .next { s with cfg := replied s.cfg m 0 3 [] } ∧
    (∀ a v, s.regRead a = some v → exec (.cpRegisterRead m a) s = .next { s with cfg := replied s.cfg m 1 0 [v] }) ∧
    (∀ a, s.regRead a = none → exec (.cpRegisterRead m a) s = .next { s with cfg := replied s.cfg m 1 2 [] }) ∧
    (∀ a v, (s.sem 0).heldBy (portMaster m) = false → exec (.cpRegisterWrite m a v) s = .next { s with cfg := replied s.cfg m 2 2 [] }) ∧
    (∀ v : Entry, (s.sem 0).heldBy (portMaster m) = true → 0 < v.toNat → v.toNat < 2 ^ 16 → exec (.cpRegisterWrite m 0x00F000000050 v) s =
      .next { s with cfg := { replied s.cfg m 2 0 [] with ldt := v.toNat } }) ∧
    (∀ rec : List Entry, (∀ p ∈ s.cfg.launching, p.1 ≠ m) →
      (rec.length ≠ 32 → exec (.cpQueueLaunch m rec) s = .next { s with cfg := replied s.cfg m 3 3 [] }) ∧
      (rec.length = 32 → x.sid = 0 → m.kc = none → exec (.cpQueueLaunch m rec) s = .next { s with cfg := replied s.cfg m 3 2 [] }) ∧
      ∀ (noff nlen tsvn entry : Nat) (lwci : Bool) (ft : List Entry), let t := msgTower m
        let u := s.tookMsg m
        rec.length = 32 → x.sid ≠ 0 ∨ m.kc ≠ none → u.launchCause t ⟨x.sid, 0, none, none, false, 0, 0, 0⟩ rec = 0 →
        u.kernel t x.sid rec = .native noff nlen tsvn entry lwci → u.fmtNow (rec.getD 5 0) = some ft →
        rec.getD 3 0 = 0 → bits (wordAt rec 24) 0 3 = 0 → pkgWideOf rec = false → ((s.arb t).queue (bits (wordAt rec 0) 24 3)).length < 256 →
        ∃ v l, exec (.cpQueueLaunch m rec) s = .next v ∧ (v.mem, v.spires, v.objs) = (s.mem, s.spires, s.objs) ∧ v.cfg = replied s.cfg m 3 0 [] ∧
          (v.arb t).queue (bits (wordAt rec 0) 24 3) = (s.arb t).queue (bits (wordAt rec 0) 24 3) ++ [l] ∧
          (l.words, l.sid, l.wgt, l.noff, l.nlen, l.tsvn, l.entry, l.lwci, l.ft) = (rec, x.sid, 0, noff, nlen, tsvn, entry, lwci, ft)) ∧
    (∀ k : Fin 64, ((s.sem k).held = false → ∃ t, exec (.cpSemAcquire m k []) s = .next t ∧ { t with cfg := s.cfg } = s ∧
        t.sem k = heldAs (s.sem k) (portMaster m) ∧ t.cfg.replies = s.cfg.replies ++ [⟨m.portB, m.sess, m.seq, 4, 0, [(t.sem k).word]⟩]) ∧
      ((s.sem k).held = true → ∃ t, exec (.cpSemAcquire m k []) s = .next t ∧ { t with cfg := s.cfg } = s ∧ t.sem k = s.sem k ∧
        t.cfg.replies = s.cfg.replies ++ [⟨m.portB, m.sess, m.seq, 4, 2, [(s.sem k).word]⟩]) ∧
      ((s.sem k).heldBy (portMaster m) = true → ∃ t, exec (.cpSemRelease m k) s = .next t ∧ { t with cfg := s.cfg } = s ∧
        t.sem k = { s.sem k with held := false } ∧ t.cfg.replies = s.cfg.replies ++ [⟨m.portB, m.sess, m.seq, 5, 0, [(t.sem k).word]⟩]) ∧
      ((s.sem k).heldBy (portMaster m) = false → ∃ t, exec (.cpSemRelease m k) s = .next t ∧ { t with cfg := s.cfg } = s ∧ t.sem k = s.sem k ∧
        t.cfg.replies = s.cfg.replies ++ [⟨m.portB, m.sess, m.seq, 5, 2, [(s.sem k).word]⟩])) ∧
    (∀ nonce : List Byte, nonce.length = 32 → ∃ words, exec (.cpAttestation m nonce true) s = .next { s with cfg := replied s.cfg m 6 0 words } ∧
      words.length = 48 ∧ words.take 40 = (bytesWords 40 (s.report nonce)).map (·.toNat)) ∧
    (∀ nonce : List Byte, nonce.length ≠ 32 → exec (.cpAttestation m nonce true) s = .next { s with cfg := replied s.cfg m 6 3 [] }) ∧
    (∀ t : Fin 4, ∃ words, exec (.cpTrapQueueRead m t) s = .next { s with cfg := replied s.cfg m 7 0 words } ∧
      words.head? = some ((s.tower t).tq.tail * 2 ^ 32 + (s.tower t).tq.head) ∧ words.length = 1 + 16 * (s.queued t).length)) ∧
  (∀ (s : State) (kc : Fin 16) (k : Fin 64),
    ((s.sem k).held = false → exec (.semAcquire kc k []) s = .next (s.setSem k (heldAs (s.sem k) (.kc kc)))) ∧
    ((s.sem k).held = true → ∃ t, exec (.semAcquire kc k []) s = .next t ∧ t.sem k = s.sem k ∧ { t with cfg := s.cfg } = s) ∧
    ((s.sem k).heldBy (.kc kc) = true → exec (.semRelease kc k) s = .next (s.setSem k { s.sem k with held := false })) ∧
    ((s.sem k).heldBy (.kc kc) = false → ∃ t, exec (.semRelease kc k) s = .next t ∧ t.sem k = s.sem k ∧ { t with cfg := s.cfg } = s)) ∧
  (∀ (s : State) (portB : Bool) (qp len : Nat), exec (.roceSend portB qp len) s =
    .next { s with cfg := { s.cfg with received := s.cfg.received ++ [(portB, qp, len)] } }) ∧
  (∀ (s : State) (r : RoceReq) (data : List Byte) (o : Obj) (a : Nat), RegionAt s r data.length o a →
    (∃ t, exec (.rdmaWrite r data) s = .next t ∧ Landed s.mem t.mem a data ∧ t.cfg = verbReply s.cfg r.portB 0x81 0 [] ∧ t.objs = s.objs) ∧
    (∀ qp imm, ∃ t, exec (.writeWithImmediate r data qp imm) s = .next t ∧ Landed s.mem t.mem a data ∧ t.objs = s.objs ∧
      t.cfg = verbReply { s.cfg with received := s.cfg.received ++ [(r.portB, qp, imm)] } r.portB 0x81 0 [])) ∧
  (∀ (s : State) (r : RoceReq) (ver len : Nat) (o : Obj) (a : Nat), RegionAt s r len o a → exec (.rdmaRead r ver len) s =
    .next { s with cfg := verbReply s.cfg r.portB 0x82 0 ((List.range len).map fun k => (cellGet s.mem (a + k)).toNat) }) ∧
  (∀ (s : State) (r : RoceReq) (ver len : Nat), s.memRegion r len = none → exec (.rdmaRead r ver len) s = .next { s with cfg := verbReply s.cfg r.portB 0x82 2 [] }) ∧
  (∀ (s : State) (h th : Entry) (off : Nat) (data : List Byte) (tix : Nat) (o : Obj) (f : Nat), s.lookup 0 3 h = .ok o → s.elsewhere h = false → o.live = false →
    off + data.length ≤ o.bytes → o.dver ≠ 0 → o.closing = none → o.page o.dver (off / 65536) = BitVec.ofNat 64 (2 ^ 61 + f) → f < 2 ^ 23 →
    off % 65536 + data.length ≤ 65536 → (∀ q ∈ s.l2Lines, q.2.2.dirty = []) → Memory.wf s.mem = true → ∃ t, exec (.nvmeCompletion h off data 0 th tix) s = .next t ∧
      Landed s.mem t.mem (f * 65536 + off % 65536) data ∧ t.objs = s.objs ∧ t.cfg = s.cfg ∧ t.spires = s.spires) ∧
  (∀ (s : State) (b : Bool), let p := s.port b
    exec (.frameDiscard b) s = .next (s.setPort b { p with dfr := min (p.dfr + 1) (2 ^ 32 - 1) }) ∧
    exec (.portLinkUp b) s = .next (s.setPort b { p with lnk := true, pfl := false }) ∧
    exec (.portLinkDown b) s = .next (s.setPort b { p with lnk := false, downNs := s.fab.ns }) ∧
    (p.lnk = false → p.pfl = false → p.downNs + s.cfg.ldt * 1000000 ≤ s.fab.ns → let m : Master := if b then .portB else .portA
      ∃ t, exec (.portFail b) s = .next t ∧ { t with cfg := s.cfg, towers := s.towers } = s ∧
        (t.tower (if b then 1 else 0)).tq = (s.tower (if b then 1 else 0)).tq.interrupt ∧ t.port b = { p with pfl := true, frc := min (p.frc + (s.heldSems m).length) 65535 } ∧
        (∀ k, k < 64 → t.sem k = if (s.sem k).heldBy m then { s.sem k with held := false } else s.sem k) ∧
        t.cfg.sessions = s.cfg.sessions.filter fun x => x.portB != b) ∧
    (s.fab.ns < p.downNs + s.cfg.ldt * 1000000 → exec (.portFail b) s = .next s))

/-- R33, R374 to R378, R439 to R442, R453, R459, R461 to R463: throttling, stops, operating points, corrected and uncorrectable errors; the SVN
fuses, whose rise freezes every context that runs on older code and takes its instruction lines away; and bring-up after a reset: through step 7, or halted at the step that fails, DRAM and fuses kept. -/
def Obligations.ResetPowerAndErrors : Prop :=
  (∀ (s : State) (t : Fin 4) (k : Fin 57) (thermal : Bool) (temp : Nat), s.tdmode t = 0 →
    (∀ d : Fin 4, Tab.get (s.tower t).swallow d 0 < k.val → (∀ j, d.val < j → j < 4 → k.val ≤ Tab.get (s.tower t).swallow j 0) →
      ∃ u, exec (.powerThrottle t k thermal temp) s = .next u ∧ { u with towers := s.towers } = s ∧ Tab.get (u.tower t).swallow d 0 = k.val ∧
        (∀ j, j ≠ d.val → Tab.get (u.tower t).swallow j 0 = Tab.get (s.tower t).swallow j 0) ∧ bit (u.tower t).tq.pev (if thermal then 1 else 0) = true ∧
        (u.tower t).tq.kmax = max (s.tower t).tq.kmax k.val ∧ (u.tower t).tq.tmax = max (s.tower t).tq.tmax (min temp 255)) ∧
    (∀ sp : Fin 32, k.val = 56 → (∀ d, d < 4 → 56 ≤ Tab.get (s.tower t).swallow d 0) → s.enabled (32 * t.val + sp.val) = true →
      (s.spire (32 * t.val + sp.val)).stopped = false → (∀ j, sp.val < j → j < 32 → s.enabled (32 * t.val + j) = false ∨ (s.spire (32 * t.val + j)).stopped = true) →
      ∃ u, exec (.powerThrottle t k thermal temp) s = .next u ∧ u.spire (32 * t.val + sp.val) = { s.spire (32 * t.val + sp.val) with stopped := true } ∧
        (∀ n, n ≠ 32 * t.val + sp.val → u.spire n = s.spire n) ∧ bit (u.tower t).tq.pev 2 = true) ∧
    (∀ dom : Fin 4, k.val ≤ Tab.get (s.tower t).swallow dom 0 → ∃ u, exec (.powerExcessEnd t dom k) s = .next u ∧ Tab.get (u.tower t).swallow dom 0 = k.val ∧
      (∀ n, u.spire n = { s.spire n with stopped := if towerOf n = t.val then false else (s.spire n).stopped }) ∧ u.mem = s.mem) ∧
    (∀ (dom : Fin 4) (point : Nat), ∃ u, exec (.operatingPointChange t dom point) s = .next u ∧ { u with towers := s.towers } = s ∧
      u.tower t = { s.tower t with point := Tab.set (s.tower t).point dom point } ∧ ∀ j, j ≠ t.val → u.tower j = s.tower j)) ∧
  (∀ (s : State) (t : Fin 4) (temp : Nat),
    (105 ≤ temp → ∃ u, exec (.thermalStop t temp) s = .next u ∧ (u.cfg.thermal, u.fab.dark, u.emits) = (true, true, false) ∧ (u.mem, u.spires) = (s.mem, s.spires) ∧
      ∀ k, (u.tower k).relay = []) ∧
    (temp < 105 → ∃ u, exec (.thermalStop t temp) s = .next u ∧ OnlyTq s u t fun q => { q with tmax := max q.tmax (min temp 255) }) ∧
    (∃ u, exec (.eccCorrected t true) s = .next u ∧ OnlyTq s u t fun q => { q with cecd := min (q.cecd + 1) (2 ^ 32 - 1) }) ∧
    ∃ u, exec (.eccCorrected t false) s = .next u ∧ OnlyTq s u t fun q => { q with cecs := min (q.cecs + 1) (2 ^ 32 - 1) }) ∧
  (∀ (s : State) (sp : Fin 128) (n a : Nat), let x := s.spire sp
    (∃ u, exec (.uncorrectableError (.ts sp n)) s = .next u ∧ OnlySpire s u sp ∧ { u.spire sp with mem := x.mem } = x ∧
      (∀ w, w ∈ (u.spire sp).mem.poison ↔ w ∈ x.mem.poison ∨ w = (1, n / 8 * 8)) ∧ (u.spire sp).mem.ts = x.mem.ts) ∧
    (∃ u, exec (.uncorrectableError (.cleanLine sp)) s = .next u ∧ OnlySpire s u sp ∧ u.spire sp = { x with chkn := min (x.chkn + 1) (2 ^ 32 - 1) }) ∧
    (∀ (ic : Bool) (k : Nat), ∃ u, exec (.uncorrectableError (.line sp ic k)) s = .next u ∧ OnlySpire s u sp ∧ u.spire sp = { x with
      chkn := min (x.chkn + 1) (2 ^ 32 - 1)
      icache := if ic then x.icache.eraseIdx k else x.icache
      l1 := if ic then x.l1 else x.l1.eraseIdx k }) ∧
    (∀ (l : Fin 4) (k : Nat) (o : Fin 1024) (w : CLine), let i := sp.val % 32 / 8 * 4 + l.val
      (s.l2 (towerOf sp) i)[k]? = some w → w.dirty ≠ [] → o.val / 8 * 8 ∉ w.bad → ∃ u, exec (.uncorrectableError (.l2 sp l k o)) s = .next u ∧
        u.l2 (towerOf sp) i = (s.l2 (towerOf sp) i).set k { w with bad := w.bad ++ [o.val / 8 * 8] } ∧ (u.mem, u.spires, u.objs) = (s.mem, s.spires, s.objs)) ∧
    (∃ u, exec (.uncorrectableError (.dram a)) s = .next u ∧ { u with poison := s.poison } = s ∧
      ∀ w, w ∈ u.poison ↔ w ∈ s.poison ∨ w % 8 = 0 ∧ w / 32 = a / 32) ∧
    ∀ (c : Fin 8) (q k : Nat), k < ((x.ctx c).sOf q).length → (false, q, k) ∉ (x.ctx c).qbad → ∃ u, exec (.uncorrectableError (.queue sp c false q k)) s = .next u ∧
      u.mem = s.mem ∧ u.ctx sp c = { x.ctx c with qbad := (x.ctx c).qbad ++ [(false, q, k)] }) ∧
  (∀ (s : State) (target blown : Nat), let v := s.cfg.fuses.svn
    let w := min target (v + blown)
    let stale (x : Ctx) : Prop := (x.st = .ready ∨ x.st = .wait ∨ x.st = .stall) ∧ x.res.tsvn < w
    (v < target → target ≤ s.cfg.fsvn → target ≤ 64 → ∃ t, exec (.svnRaise target true blown) s = .next t ∧
      t.cfg = { s.cfg with fuses := { s.cfg.fuses with svn := w } } ∧ (t.mem, t.objs, t.fab) = (s.mem, s.objs, s.fab) ∧
      (∀ n c, stale (s.ctx n c) → t.ctx n c = { s.ctx n c with st := .frozen, stall := none, stepping := none, halting := false }) ∧
      (∀ n c, ¬ stale (s.ctx n c) → t.ctx n c = s.ctx n c) ∧
      ∀ n, ∀ k ∈ (t.spire n).icache, k ∈ (s.spire n).icache ∧
        ∀ m c, (s.ctx m c).st ≠ .free → (s.ctx m c).res.tsvn < w → k.h ≠ (s.ctx m c).res.codeh) ∧
    exec (.svnRaise target false blown) s = .next s ∧ (target ≤ v ∨ s.cfg.fsvn < target → exec (.svnRaise target true blown) s = .next s)) ∧
  (∀ (s : State) (b : Bringup),
    (b.fusesOk = true → b.rootOk = true → b.sigOk = true → b.segBad = none → s.cfg.fuses.svn ≤ b.fsvn → b.dmap = none → b.hbmBad = none → b.lpddrBad = none →
      b.sliceOk = true → b.aligned = true → ∃ t, exec (.reset b) s = .next t ∧ (t.mem, t.poison, t.cfg.fuses) = (s.mem, s.poison, s.cfg.fuses) ∧
      (t.cfg.bsts, t.cfg.pkn, t.cfg.fsvn, t.cfg.grants) = (0xFF, 0, b.fsvn, b.grants.take 64) ∧ (∀ n c, t.ctx n c = Ctx.reset) ∧
      (t.fab.aligned, t.fab.master, t.fab.items, t.agenda) = (true, b.master.val, [], []) ∧ (t.cfg.sessions, t.cfg.sems, t.cfg.tdmode) = ([], [], 0) ∧
      ∀ k, k < 4 → ((t.hru k).otb, (t.hru k).otlog) = (bits b.otb.toNat 12 36 * 4096, bits b.otb.toNat 0 5)) ∧
    (b.fusesOk = false → ∃ t, exec (.reset b) s = .next t ∧ (t.cfg.bsts, t.cfg.fcause, t.mem) = (1, 1, s.mem)) ∧
    (b.fusesOk = true → b.rootOk = true → b.sigOk = false → ∃ t, exec (.reset b) s = .next t ∧ (t.cfg.bsts, t.cfg.fcause, t.mem) = (2, 3, s.mem)) ∧
    (b.fusesOk = true → b.rootOk = true → b.sigOk = true → b.segBad = none → b.fsvn < s.cfg.fuses.svn → ∃ t, exec (.reset b) s = .next t ∧
      (t.cfg.bsts, t.cfg.fcause, t.mem) = (2, 5, s.mem))) ∧
  (∀ s : State, s.fab.aligned = false → exec .bringupAlignTimeout s = .next { s with cfg := { s.cfg with bsts := 6, fcause := 0x30, fidx := 0 } })

namespace Sys2Proof.Spec
open Sys2Proof.Machine

-- A step (R53, R168 to R172, R402, R403)

/-- Nothing is due before the next bundle: the spire `cur` gets the pulse, may issue and selects context c, whose next 128 bits are w (R33, R53, R71, R76). -/
structure Selects (s : State) (c w : Nat) : Prop where
  quiet : s.agenda = [] ∧ s.nbuTurn = []
  may : s.mayIssue s.cur = true
  pulse : s.swallowed s.cur = false
  picks : (s.spire s.cur).select = some c
  bits : s.fetch s.cur (s.ctx s.cur c) (s.ctx s.cur c).pc = .ok w
/-- The state in which the bundle's checks are made. -/
def started (s : State) (c : Nat) : State := (s.begin s.cur c).issued s.cur c
/-- Its header (Table 06-3). -/
def headerOf (w : Nat) : Header := Header.of (slotWord w 0)
/-- The bundle's operations are l, every check of R402 before its slots passes, and no acquire of the context holds a memory-class operation back (R131). -/
structure Accepts (s : State) (c w : Nat) (l : List SlotOp) : Prop where
  picks : Selects s c w
  scope : (headerOf w).headed = false ∨ (headerOf w).scope < 6
  slots : (started s c).checkSlots (headerOf w) w [0, 1, 2, 3] = .ok l
  ports : portCheck (headerOf w) l = none
  queues : (started s c).cx.queueCheck l = .fine
  acquires : (started s c).cx.acqs = [] ∨ ∀ o ∈ l, memClass o.slot o.ins = false
/-- The end of a bundle and of its spire's sc. -/
def ended (s : State) : State := (if s.iss.active then s.commit else s).finishCycle
/-- The context c freezes before its bundle: no slot has taken effect, the resume offset is the bundle's own (R403). -/
def FrozenBefore (s t : State) (c : Nat) (k : Cause) : Prop :=
  let u := started s c
  let x := u.ctx s.cur c
  t.mem = s.mem ∧ t.objs = s.objs ∧ (∀ n j, n ≠ s.cur ∨ j ≠ c → t.ctx n j = u.ctx n j) ∧
  t.ctx s.cur c = { x with st := .frozen, stall := none, stepping := none, halting := false } ∧
  ∃ r, RecordOf u s.cur c x k false false x.pc x.pc r ∧ Posted t s.cur r

end Sys2Proof.Spec

/-- Where the bytes at the pc decode to an operation of a bundle that passes its checks, a step is exec of that operation at the slot's
state and then the bundle's end; the slots of a longer bundle run in order; when it stalls, the selector goes on (R53); a pulse that the spire's clock does not
get does nothing for it (R33); the bytes come through the instruction cache (R96); an event that is due runs before any bundle; a near-bank unit's turn runs the
microinstruction at its MPC. -/
def Obligations.StepRunsTheDecodedInstruction : Prop :=
  (∀ (s : State) (c w : Nat) (l : List SlotOp), Accepts s c w l → let t := (started s c).load s.cur (headerOf w) l
    exec .bundleIssue s = .next t ∧ t.iss.active = true ∧ (∀ o ∈ l, decodeSlot o.slot o.word = .ok o.ins ∧ o.word = slotWord w o.slot ∧ o.ins ≠ .nop) ∧
    (l = [] → step s = .next (ended t)) ∧
    (∀ (o : SlotOp) (u : State), l = [o] → exec o.ins (t.atSlot o []) = .next u →
      (u.iss.stalled = false → step s = .next (ended u)) ∧
      ∀ v, u.iss.active = false → u.iss.stalled = true → u.tryIssue 8 = .next v → step s = .next v.finishCycle) ∧
    (∀ (o p : SlotOp) (r : List SlotOp) (u v : State), slotOrder t.cx.sys.opv l = o :: p :: r → exec o.ins (t.atSlot o (p :: r)) = .next u →
      u.iss.active = true → exec p.ins (u.atSlot p r) = .next v → r = [] ∨ v.iss.active = false → v.iss.stalled = false → step s = .next (ended v))) ∧
  (∀ s : State, s.agenda = [] → s.nbuTurn = [] → s.swallowed s.cur = true → step s = .next s.nextTurn) ∧
  (∀ (s : State) (c : Nat), let x := s.ctx s.cur c
    let a := x.res.noff + x.pc
    let ic := (s.spire s.cur).icache
    s.cfg.fuses.svn ≤ x.res.tsvn →
    (∀ w, readLine ic x.sys.sid x.res.codeh x.sys.cvr a 16 = some (w, false) → s.fetch s.cur x x.pc = .ok w) ∧
    ∀ o : Obj, let e := o.page x.sys.cvr (a / 65536)
      hpkg x.res.codeh = s.cfg.pkn → s.lookup (towerOf s.cur) 0 x.res.codeh = .ok o → o.repl = 0 → o.live = false → o.fmt = .z8 → o.rank = 1 →
      o.rightsOf x.sys.sid &&& rRD = rRD → s.poison = [] → (s.hru (towerOf s.cur)).cached x.res.codeh x.sys.cvr (a / 65536) = none → peST e = 1 →
      peFRAME e < 2 ^ 23 → findLine ic x.sys.sid x.res.codeh x.sys.cvr (lineOf a) = none → (freeWay geoIc ic (geoIc.set (lineOf a)) []).isSome = true →
      a % 16 = 0 → s.fetch s.cur x x.pc = .line ∧
        (s.fillCode s.cur x a).fetch s.cur x x.pc = .ok (readLE s.mem (frameAddr (peIL e) (peFRAME e) (a % 65536)) 16)) ∧
  (∀ (s : State) (i : Instr) (r : List Instr), s.agenda = i :: r → i ≠ .bundleIssue → step s = exec i { s with agenda := r }) ∧
  (∀ (s : State) (n : Nat) (r : List Nat) (i : Instr), s.agenda = [] → s.nbuTurn = n :: r → (s.nbu n).cur.isSome = true → (s.nbu n).suspended = false →
    decodeMicro (Tab.get (s.nbu n).ms (s.nbu n).mpc 0).toNat = .ok i → isRowStep i = false → step s = exec i { s with nbuTurn := r, nbuCur := n })

/-- Words of Tables 06-9 to 06-12, 07-1 to 11-15 and 12-5, field by field, decode to the operations they stand for. -/
def Obligations.EncodedWordsDecode : Prop :=
  let q (n : Fin 32) : SrcS := ⟨n, false⟩
  let v (n : Fin 16) : SrcV := ⟨n, false⟩
  decodeSlot 0 (0x01 * 2 ^ 25 + 3 * 2 ^ 20 + 1 * 2 ^ 15 + 2 * 2 ^ 10 + 1 * 2 ^ 5 + 6) = .ok (.add ⟨3, q 1, q 2⟩ true .s32) ∧
  decodeSlot 1 (2 ^ 31 + 0x01 * 2 ^ 25 + 3 * 2 ^ 20 + 1 * 2 ^ 15 + 2 * 2 ^ 10 + 6) = .ok (.add ⟨3, q 1, q 2⟩ false .s32) ∧
  decodeSlot 0 (0x23 * 2 ^ 25 + 4 * 2 ^ 20 + 5 * 2 ^ 15 + 6 * 2 ^ 10 + 1 * 2 ^ 9 + 1 * 2 ^ 5 + 10) = .ok (.fma ⟨4, ⟨5, true⟩, q 6⟩ .rtz .f32) ∧
  decodeSlot 0 (0x41 * 2 ^ 25 + 1 * 2 ^ 20 + 7 * 2 ^ 15 + 0x3FFF) = .ok (.brc .nz (q 7) 0x3FFF) ∧
  decodeSlot 0 (0x49 * 2 ^ 25 + 9 * 2 ^ 20 + 4) = .ok (.sysrd 9 4) ∧
  decodeSlot 1 (0x04 * 2 ^ 25 + 1 * 2 ^ 24 + 2 * 2 ^ 20 + 3 * 2 ^ 15 + 1 * 2 ^ 14 + 4 * 2 ^ 10 + 7 * 2 ^ 5 + 9) = .ok (.vfma ⟨5, 2, v 3, v 4⟩ .dyn .bf16) ∧
  decodeSlot 2 (0x01 * 2 ^ 25 + 8 * 2 ^ 20 + 1 * 2 ^ 15 + 2 * 2 ^ 12 + 1 * 2 ^ 10 + 6 * 2 ^ 4 + 7) = .ok (.mmaTs 8 (q 1) false 2 true false 6 7) ∧
  decodeSlot 2 (0x0F * 2 ^ 25) = .ok .mbar ∧
  decodeSlot 3 (0x0A * 2 ^ 25 + 31 * 2 ^ 20 + 1 * 2 ^ 15 + 2 * 2 ^ 10 + 7 * 2 ^ 5 + 3) = .ok (.stTs ⟨q 1, q 2⟩ 255 .z64) ∧
  decodeSlot 3 (0x14 * 2 ^ 25 + 1 * 2 ^ 20 + 2 * 2 ^ 15 + 3 * 2 ^ 10 + 2 * 2 ^ 6 + 1 * 2 ^ 4 + 5) = .ok (.atom 1 (q 2) 3 .max .acq 5) ∧
  decodeMicro (0x02 * 2 ^ 59 + 3 * 2 ^ 55 + 1 * 2 ^ 45 + 4 * 2 ^ 42 + 9) = .ok (.sadd 3 .bfLo .rna 9) ∧
  decodeSlot 2 (0x10 * 2 ^ 25) = .error .major ∧ decodeSlot 0 (0x44 * 2 ^ 25 + 1) = .error (.reserved 1) ∧
  decodeSlot 0 (0x01 * 2 ^ 25 + 10) = .error .function

/-- Every well-formed instruction that has words decodes from its own word, in every slot in which its class may stand; and a word that
decodes is the word of the instruction it names, which is well-formed. -/
def Obligations.EncodingRoundTrip : Prop :=
  (∀ (i : Instr) (slot : Nat), i.wellFormed = true → standsIn slot i = true → encodeSlot slot i < 2 ^ 32 ∧ decodeSlot slot (encodeSlot slot i) = .ok i) ∧
  (∀ i : Instr, i.wellFormed = true → (encode i).1 = .micro → (encode i).2 < 2 ^ 64 ∧ decodeMicro (encode i).2 = .ok i) ∧
  (∀ (slot w : Nat) (i : Instr), slot < 4 → w < 2 ^ 32 → decodeSlot slot w = .ok i → i.wellFormed = true ∧ standsIn slot i = true ∧ encodeSlot slot i = w) ∧
  (∀ (w : Nat) (i : Instr), w < 2 ^ 64 → decodeMicro w = .ok i → i.wellFormed = true ∧ (encode i).1 = .micro ∧ (encode i).2 = w) ∧
  ∀ i : Instr, i.wellFormed = true → (encode i).1 ≠ .event → (encode i).1 ≠ .micro → standsIn (encode i).1.slot i = true

/-- DRAM keeps its canonical form: addresses strictly rising, no entry equal to what an unlisted address reads as. -/
def Obligations.MemoryStaysCanonical : Prop :=
  ∀ s t : State, Memory.wf s.mem = true → step s = .next t → Memory.wf t.mem = true

/-- The state after reset: nothing in DRAM, no task in a context, no launch, no flit; the reset values of Tables 01-2, 21-2, 21-3, 14-2, 19-4
and of R356 and R375. -/
def Obligations.StateAfterReset : Prop :=
  let s := State.reset
  Memory.wf s.mem = true ∧ (∀ a, cellGet s.mem a = 0) ∧ (∀ n c, (s.ctx n c).st = .free ∧ (s.ctx n c).sys.rmd = 0 ∧ (s.ctx n c).sys.tsw = 0) ∧
  (∀ t k, s.slot t k = none) ∧ (∀ t, (s.hru t).otlog = 0 ∧ (s.tower t).tq.enabled = false ∧ ((s.tower t).tq.head, (s.tower t).tq.tail) = (0, 0)) ∧
  (∀ n, ((s.lane n).lst, (s.lane n).rte, (s.lane n).ldis, (s.lane n).thr) = (4, true, false, 0x8638) ∧ ((s.lane n).bec, (s.lane n).rtc, (s.lane n).lwin) = (0, 0, 0)) ∧
  (∀ q t, t < 4 → Tab.get (s.peer q).credit t 0 = 256) ∧ s.emits = false ∧ (s.cfg.pkn, s.cfg.tdmode, s.cfg.ldt) = (0, 0, 1000) ∧
  (∀ k, s.sem k = ⟨false, 0, false, 0, 0⟩) ∧ (∀ k, Tab.get s.cfg.meas k 0 = 0) ∧ ∀ b, (s.port b).lnk = false ∧
  (∀ n, ((s.spire n).l1, (s.spire n).icache) = ([], [])) ∧ s.l2Lines = [] ∧ (s.cfg.accessErrors, s.cfg.kcErrors) = (0, [])

/-- R402, R403: a bundle that cannot be fetched, whose header or a slot is ILLEGAL, that exceeds its read ports, or that reads an empty queue
freezes its context with that cause and EFF = 0; no slot takes effect; a read that a deferred result will serve stalls it instead, as does a memory-class
operation behind an acquire (R131). -/
def Obligations.TrapsAtIssueFreezeTheContext : Prop :=
  (∀ (s : State) (c : Nat) (k : Cause), s.mayIssue s.cur = true → (s.spire s.cur).select = some c → c < 8 →
    s.fetch s.cur (s.ctx s.cur c) (s.ctx s.cur c).pc = .trap k → ∃ t, exec .bundleIssue s = .next t ∧ FrozenBefore s t c k) ∧
  (∀ (s : State) (c w : Nat), Selects s c w → let u := started s c
    ((headerOf w).headed = true → 6 ≤ (headerOf w).scope → ∃ t, exec .bundleIssue s = .next t ∧
      FrozenBefore s t c (.mk' 1 2 0 [(0x40, 4, (headerOf w).word)])) ∧
    ((headerOf w).headed = false ∨ (headerOf w).scope < 6 →
      (∀ k : Cause, u.checkSlots (headerOf w) w [0, 1, 2, 3] = .error k → ∃ t, exec .bundleIssue s = .next t ∧ FrozenBefore s t c k) ∧
      (∀ (l : List SlotOp) (k : Cause), u.checkSlots (headerOf w) w [0, 1, 2, 3] = .ok l →
        (portCheck (headerOf w) l = some k → ∃ t, exec .bundleIssue s = .next t ∧ FrozenBefore s t c k) ∧
        (portCheck (headerOf w) l = none → u.cx.queueCheck l = .trap k → ∃ t, exec .bundleIssue s = .next t ∧ FrozenBefore s t c k)) ∧
      (∀ (l : List SlotOp) (d : StallC), u.checkSlots (headerOf w) w [0, 1, 2, 3] = .ok l → portCheck (headerOf w) l = none →
        u.cx.queueCheck l = .stall d → (s.ctx s.cur c).st = .ready → ∃ t, exec .bundleIssue s = .next t ∧ t.mem = s.mem ∧
          t.ctx s.cur c = { u.ctx s.cur c with st := .stall, stall := some d }) ∧
      (∀ l : List SlotOp, u.checkSlots (headerOf w) w [0, 1, 2, 3] = .ok l → portCheck (headerOf w) l = none → u.cx.queueCheck l = .fine →
        u.cx.acqs ≠ [] → (∃ o ∈ l, memClass o.slot o.ins = true) → (s.ctx s.cur c).st = .ready → ∃ t, exec .bundleIssue s = .next t ∧ t.mem = s.mem ∧
          t.ctx s.cur c = { u.ctx s.cur c with st := .stall, stall := some .acquire })))
end

