-- ==== Sys2Proof/Tests/Slice0.lean ====
section
/-! SUPPORT. Tests/Slice0.lean: ill-formed terms that the check refuses, decoding of words written out field by field, witnesses that the
hypotheses of the obligations can be met, and single steps with results taken from the spec's rules. -/

namespace Sys2Proof.Tests
open Sys2Proof Sys2Proof.Machine Sys2Proof.Spec
set_option Elab.async false

-- Well-formedness

/-- A source that pops scalar queue n, and vector queue n. -/
def qs (n : Fin 32) : SrcS := ⟨n, false⟩
def qv (n : Fin 16) : SrcV := ⟨n, false⟩
def rg : Reg3 := ⟨3, qs 1, qs 2⟩
def rg2 : Reg2 := ⟨3, qs 1⟩
def vg : Vec3 := ⟨0, 3, qv 1, qv 2⟩
def vg2 : Vec2 := ⟨0, 3, qv 1⟩
def sg : Src2 := ⟨qs 1, qs 2⟩

/-- One ill-formed term for each check of the C class: types (R205, R212, R217, R219), conditions, queue names, levels. -/
def illC : List Instr := [.add rg false .f32, .sub rg true .q4, .mul rg false .f64, .shl rg false .bf16, .mad rg false .e4m3, .mulh rg .f32,
  .div rg .f32, .rem rg .f64, .and rg .f16, .or rg .q4, .xor rg .f32, .andn rg .f32, .shr rg .e5m2, .rol rg .f32, .min rg .f32, .max rg .f32,
  .clz rg2 .f32, .ctz rg2 .f32, .popc rg2 .f64, .cmpCc rg .eq .f32, .cmpCc rg .un .s32, .sext rg2 .s64, .zext rg2 .z64, .qdrop 16 true 0,
  .qdrop 0 false 0, .qdepth 1 0 false, .qdepth 1 31 true, .qclr 0 false, .qclr 16 true, .fadd rg .rne .f16, .fsub rg .rne .s32,
  .fmul rg .rne .bf16, .fma rg .rne .z32, .fdiv rg .rne .f16, .fsqrt rg2 .rne .f16, .fmin rg .f16, .fmax rg .s32, .fcls rg2 .bf16,
  .fcmp rg .un .f16, .fcvt rg2 .q4 false .rne .f32, .fcvt rg2 .f32 false .rne .q4, .chk sg 0]
theorem test_wf_scalar : illC.all (fun i => !i.wellFormed) = true := by decide +kernel

/-- The same for the V class (Table 08-2, R231, R235, R241 to R245, R253). -/
def illV : List Instr := [.vadd vg (.flt .rne) .s32, .vsub vg (.int false) .f32, .vmul vg (.flt .rne) .f64, .vfma vg .rne .s32,
  .vfms vg .rne .f64, .vnfma vg .rne .e4m3, .vmin vg .f64, .vmax vg .e5m2, .vabs vg2 true .f32, .vneg vg2 true .bf16, .vabs vg2 false .f64,
  .vneg vg2 false .q4, .vcmpCc 0 1 (qv 1) (qv 2) .un .s32, .vcmpCc 0 1 (qv 1) (qv 2) .eq .f64, .vsel vg .f64, .vand vg .f32, .vor vg .f16,
  .vxor vg .q4, .vnot vg2 .f32, .vshl vg false .f32, .vshr vg .f32, .vsra vg .bf16, .vcvt 0 1 (qv 1) .f64 false .rne .f32,
  .vcvt 0 1 (qv 1) .f32 false .rne .q4, .vcvt 0 1 (qv 1) .z64 false .rne .z8, .vcvt 2 1 (qv 1) .f32 false .rne .f16,
  .vpack 0 1 (qv 1) .ui false .rne .s8, .vpack 4 1 (qv 1) .ui false .rne .f16, .vunpack 0 1 (qv 1) (qv 2) .rne .f64,
  .vunpack 4 1 (qv 1) (qv 2) .rne .bf16, .vbcast 1 (qs 1) .f64, .vext 1 (qv 1) (qs 1) .q4, .vins 1 (qv 1) (qs 1) 2 .q4, .vrot 1 (qv 1) 0 .f64,
  .vslide 1 (qv 1) (qv 2) 0 .f64, .vperm vg .s8, .vperm vg .f64, .vred vg2 true .max .s32, .vred vg2 true .add .f32, .vargmax vg2 .e4m3,
  .vscanAdd vg2 .f64, .vexp2 vg2 .s32, .vlog2 vg2 .f64, .vrcp vg2 .q4, .vrsqrt vg2 .z8, .vtanh vg2 .e5m2, .vldx ⟨1, qs 1, qv 1, 0⟩ .f64,
  .vstx ⟨1, qs 1, qv 1, 0⟩ .q4, .mpop 1 1 .f64, .mfirst 1 1 .f64]
theorem test_wf_vector : illV.all (fun i => !i.wellFormed) = true := by decide +kernel

/-- The same for the M and X classes and the microinstructions (R260, R261, R267, R270, R271, R293, Table 04-4, R341). -/
def illMX : List Instr := [.mmaTs 1 (qs 1) false 0 false true 1 0, .mmaTs 1 (qs 1) false 0 false false 0 4, .mmaTs 1 (qs 1) true 0 false false 14 0,
  .mmaV 1 (qv 1) 0 0 false true 2, .mmaV 1 (qv 1) 0 0 false false 14, .latLd 0 (qs 1) false .s32, .latLd 0 (qs 1) true .q4, .aload 1 (qs 1) .s8,
  .adrain 1 (qs 1) false .ui false true .rne .s8, .adrain 1 (qs 1) true .ui false true .rne .z8, .adrain 1 (qs 1) false .p2 false true .rne .z8,
  .adrain 1 (qs 1) false .ui false true .rtz .z8, .adrain 1 (qs 1) false .ui false false .rne .f64, .adrain 1 (qs 1) false .e2m1 false false .rne .f32,
  .fmtLd (qs 1) 10 6, .tscat sg 0 .copy, .ldTs 1 (qs 1) 0 .q4, .stTs sg 0 .q4, .ldo 1 sg .rel, .cntRd 1 (qs 1) .acqrel 0, .futRd 1 (qs 1) .rel 0,
  .cntAdd sg .acq 0, .barArr sg 0, .sadd 0 .f32 .sto 0, .mulr 0 .f32 .dyn 0, .wb 0 .f32 .sto 0, .aadd 0 1 .dyn, .ascl 0 1 .sto, .sclm 0 .dyn]
theorem test_wf_matrix_copy_micro : illMX.all (fun i => !i.wellFormed) = true := by decide +kernel

-- Decoding

/-- A word from its fields, each a value and the number of its lowest bit. -/
def wd (l : List (Nat × Nat)) : Nat := (l.map fun f => f.1 * 2 ^ f.2).foldl (· + ·) 0
def decodesTo (slot w : Nat) (i : Instr) : Bool :=
  match decodeSlot slot w with
  | .ok j => j == i
  | .error _ => false
def refusedWith (slot w : Nat) (r : Reject) : Bool :=
  match decodeSlot slot w with
  | .ok _ => false
  | .error e => e == r

/-- Words of the C class (Tables 07-1 to 07-11), field by field where spec/opcode_table.json places them, and the operations they stand for. -/
def wordsC1 : List (Nat × Instr) := [
  (0, .nop),
  (wd [(0x01, 25), (21, 20), (19, 15), (9, 10), (1, 9), (1, 5), (6, 0)], .add ⟨21, ⟨19, true⟩, ⟨9, false⟩⟩ true .s32),
  (wd [(0x02, 25), (21, 20), (19, 15), (9, 10), (1, 9), (1, 5), (6, 0)], .sub ⟨21, ⟨19, true⟩, ⟨9, false⟩⟩ true .s32),
  (wd [(0x03, 25), (21, 20), (19, 15), (1, 14), (0x1234, 0)], .addi ⟨21, ⟨19, true⟩⟩ 4660),
  (wd [(0x04, 25), (21, 20), (19, 15), (9, 10), (1, 9), (1, 5), (6, 0)], .mul ⟨21, ⟨19, true⟩, ⟨9, false⟩⟩ true .s32),
  (wd [(0x05, 25), (21, 20), (19, 15), (9, 10), (1, 9), (6, 0)], .mulh ⟨21, ⟨19, true⟩, ⟨9, false⟩⟩ .s32),
  (wd [(0x06, 25), (21, 20), (19, 15), (9, 10), (1, 9), (6, 0)], .div ⟨21, ⟨19, true⟩, ⟨9, false⟩⟩ .s32),
  (wd [(0x07, 25), (21, 20), (19, 15), (9, 10), (1, 9), (6, 0)], .rem ⟨21, ⟨19, true⟩, ⟨9, false⟩⟩ .s32),
  (wd [(0x08, 25), (21, 20), (19, 15), (9, 10), (1, 9), (6, 0)], .and ⟨21, ⟨19, true⟩, ⟨9, false⟩⟩ .s32),
  (wd [(0x09, 25), (21, 20), (19, 15), (9, 10), (1, 9), (6, 0)], .or ⟨21, ⟨19, true⟩, ⟨9, false⟩⟩ .s32),
  (wd [(0x0A, 25), (21, 20), (19, 15), (9, 10), (1, 9), (6, 0)], .xor ⟨21, ⟨19, true⟩, ⟨9, false⟩⟩ .s32),
  (wd [(0x0B, 25), (21, 20), (19, 15), (9, 10), (1, 9), (6, 0)], .andn ⟨21, ⟨19, true⟩, ⟨9, false⟩⟩ .s32),
  (wd [(0x0C, 25), (21, 20), (19, 15), (9, 10), (1, 9), (1, 5), (6, 0)], .shl ⟨21, ⟨19, true⟩, ⟨9, false⟩⟩ true .s32),
  (wd [(0x0D, 25), (21, 20), (19, 15), (9, 10), (1, 9), (6, 0)], .shr ⟨21, ⟨19, true⟩, ⟨9, false⟩⟩ .s32)]
theorem test_decode_scalar_1 : wordsC1.all (fun p => decodesTo 0 p.1 p.2) = true := by decide +kernel
/-- Words of the C class (Tables 07-1 to 07-11), field by field where spec/opcode_table.json places them, and the operations they stand for. -/
def wordsC2 : List (Nat × Instr) := [
  (wd [(0x0E, 25), (21, 20), (19, 15), (9, 10), (1, 9), (6, 0)], .rol ⟨21, ⟨19, true⟩, ⟨9, false⟩⟩ .s32),
  (wd [(0x0F, 25), (21, 20), (19, 15), (1, 9), (6, 0)], .clz ⟨21, ⟨19, true⟩⟩ .s32),
  (wd [(0x0F, 25), (21, 20), (19, 15), (1, 9), (1, 5), (6, 0)], .ctz ⟨21, ⟨19, true⟩⟩ .s32),
  (wd [(0x0F, 25), (21, 20), (19, 15), (1, 9), (1, 6), (6, 0)], .popc ⟨21, ⟨19, true⟩⟩ .s32),
  (wd [(0x10, 25), (21, 20), (19, 15), (9, 10), (1, 9), (6, 0)], .min ⟨21, ⟨19, true⟩, ⟨9, false⟩⟩ .s32),
  (wd [(0x11, 25), (21, 20), (19, 15), (9, 10), (1, 9), (6, 0)], .max ⟨21, ⟨19, true⟩, ⟨9, false⟩⟩ .s32),
  (wd [(0x12, 25), (21, 20), (19, 15), (9, 10), (1, 9), (1, 5), (29, 0)], .sel ⟨21, ⟨19, true⟩, ⟨9, false⟩⟩ ⟨29, true⟩),
  (wd [(0x13, 25), (21, 20), (19, 15), (9, 10), (1, 9), (3, 5), (6, 0)], .cmpCc ⟨21, ⟨19, true⟩, ⟨9, false⟩⟩ .le .s32),
  (wd [(0x14, 25), (21, 20), (19, 15), (1, 9), (5, 0)], .sext ⟨21, ⟨19, true⟩⟩ .s16),
  (wd [(0x14, 25), (21, 20), (19, 15), (1, 9), (1, 5), (1, 0)], .zext ⟨21, ⟨19, true⟩⟩ .z16),
  (wd [(0x15, 25), (21, 20), (0xABCDE, 0)], .li 21 0xABCDE),
  (wd [(0x16, 25), (21, 20), (19, 15), (1, 14), (0x1234, 0)], .lih ⟨21, ⟨19, true⟩⟩ 4660),
  (wd [(0x17, 25), (21, 20), (19, 15), (1, 9), (1, 2), (1, 1), (1, 0)], .mov ⟨21, ⟨19, true⟩⟩),
  (wd [(0x18, 25), (21, 20), (19, 15), (9, 10), (1, 9), (1, 5), (6, 0)], .mad ⟨21, ⟨19, true⟩, ⟨9, false⟩⟩ true .s32)]
theorem test_decode_scalar_2 : wordsC2.all (fun p => decodesTo 0 p.1 p.2) = true := by decide +kernel
/-- Words of the C class (Tables 07-1 to 07-11), field by field where spec/opcode_table.json places them, and the operations they stand for. -/
def wordsC3 : List (Nat × Instr) := [
  (wd [(0x19, 25), (21, 20), (19, 15), (9, 10), (1, 9)], .idxPack ⟨21, ⟨19, true⟩, ⟨9, false⟩⟩),
  (wd [(0x1A, 25), (9, 15), (1, 5), (2, 0)], .qdrop 9 true 2),
  (wd [(0x1B, 25), (21, 20), (9, 15), (1, 5)], .qdepth 21 9 true),
  (wd [(0x1C, 25), (9, 15), (1, 5)], .qclr 9 true),
  (wd [(0x20, 25), (21, 20), (19, 15), (9, 10), (1, 9), (3, 5), (11, 0)], .fadd ⟨21, ⟨19, true⟩, ⟨9, false⟩⟩ .rup .f64),
  (wd [(0x21, 25), (21, 20), (19, 15), (9, 10), (1, 9), (3, 5), (11, 0)], .fsub ⟨21, ⟨19, true⟩, ⟨9, false⟩⟩ .rup .f64),
  (wd [(0x22, 25), (21, 20), (19, 15), (9, 10), (1, 9), (3, 5), (11, 0)], .fmul ⟨21, ⟨19, true⟩, ⟨9, false⟩⟩ .rup .f64),
  (wd [(0x23, 25), (21, 20), (19, 15), (9, 10), (1, 9), (3, 5), (11, 0)], .fma ⟨21, ⟨19, true⟩, ⟨9, false⟩⟩ .rup .f64),
  (wd [(0x24, 25), (21, 20), (19, 15), (9, 10), (1, 9), (3, 5), (11, 0)], .fdiv ⟨21, ⟨19, true⟩, ⟨9, false⟩⟩ .rup .f64),
  (wd [(0x25, 25), (21, 20), (19, 15), (1, 9), (3, 5), (11, 0)], .fsqrt ⟨21, ⟨19, true⟩⟩ .rup .f64),
  (wd [(0x26, 25), (21, 20), (19, 15), (9, 10), (1, 9), (11, 0)], .fmin ⟨21, ⟨19, true⟩, ⟨9, false⟩⟩ .f64),
  (wd [(0x27, 25), (21, 20), (19, 15), (9, 10), (1, 9), (11, 0)], .fmax ⟨21, ⟨19, true⟩, ⟨9, false⟩⟩ .f64),
  (wd [(0x28, 25), (21, 20), (19, 15), (9, 10), (1, 9), (6, 5), (11, 0)], .fcmp ⟨21, ⟨19, true⟩, ⟨9, false⟩⟩ .un .f64),
  (wd [(0x29, 25), (21, 20), (19, 15), (11, 10), (1, 9), (1, 8), (3, 5), (6, 0)], .fcvt ⟨21, ⟨19, true⟩⟩ .f64 true .rup .s32)]
theorem test_decode_scalar_3 : wordsC3.all (fun p => decodesTo 0 p.1 p.2) = true := by decide +kernel
/-- Words of the C class (Tables 07-1 to 07-11), field by field where spec/opcode_table.json places them, and the operations they stand for. -/
def wordsC4 : List (Nat × Instr) := [
  (wd [(0x2A, 25), (21, 20), (19, 15), (1, 9), (11, 0)], .fcls ⟨21, ⟨19, true⟩⟩ .f64),
  (wd [(0x40, 25), (0xABCDE, 0)], .br 0xABCDE),
  (wd [(0x41, 25), (4, 20), (19, 15), (1, 14), (0x1234, 0)], .brc .gtz ⟨19, true⟩ 4660),
  (wd [(0x42, 25), (19, 15), (1, 9)], .jmp ⟨19, true⟩),
  (wd [(0x43, 25), (0xABCDE, 0)], .call 0xABCDE),
  (wd [(0x44, 25)], .ret),
  (wd [(0x45, 25), (19, 15), (45, 0)], .loop 19 45),
  (wd [(0x46, 25)], .yield),
  (wd [(0x47, 25)], .tend),
  (wd [(0x48, 25), (0xABCDE, 0)], .trap 0xABCDE),
  (wd [(0x49, 25), (21, 20), (0x2A5, 0)], .sysrd 21 0x2A5),
  (wd [(0x4A, 25), (19, 15), (1, 14), (0x2A5, 0)], .syswr ⟨19, true⟩ 0x2A5),
  (wd [(0x4B, 25), (19, 15), (9, 10), (1, 9), (3, 0)], .chk ⟨⟨19, true⟩, ⟨9, false⟩⟩ 3),
  (wd [(0x4C, 25), (0xABCDE, 0)], .brk 0xABCDE)]
theorem test_decode_scalar_4 : wordsC4.all (fun p => decodesTo 0 p.1 p.2) = true := by decide +kernel
/-- Words of the V class (Tables 08-1 to 08-5) and a scalar form in slot 1, field by field where spec/opcode_table.json places them, and the operations they stand for. -/
def wordsV1 : List (Nat × Instr) := [
  (wd [(0x01, 25), (1, 24), (13, 20), (11, 15), (1, 14), (6, 10), (1, 9), (1, 5), (6, 0)], .vadd ⟨5, 13, ⟨11, true⟩, ⟨6, false⟩⟩ (.int true) .s32),
  (wd [(0x02, 25), (1, 24), (13, 20), (11, 15), (1, 14), (6, 10), (1, 9), (7, 5), (10, 0)], .vsub ⟨5, 13, ⟨11, true⟩, ⟨6, false⟩⟩ (.flt .dyn) .f32),
  (wd [(0x03, 25), (1, 24), (13, 20), (11, 15), (1, 14), (6, 10), (1, 9), (1, 5), (6, 0)], .vmul ⟨5, 13, ⟨11, true⟩, ⟨6, false⟩⟩ (.int true) .s32),
  (wd [(0x04, 25), (1, 24), (13, 20), (11, 15), (1, 14), (6, 10), (1, 9), (3, 5), (9, 0)], .vfma ⟨5, 13, ⟨11, true⟩, ⟨6, false⟩⟩ .rup .bf16),
  (wd [(0x05, 25), (1, 24), (13, 20), (11, 15), (1, 14), (6, 10), (1, 9), (3, 5), (9, 0)], .vfms ⟨5, 13, ⟨11, true⟩, ⟨6, false⟩⟩ .rup .bf16),
  (wd [(0x06, 25), (1, 24), (13, 20), (11, 15), (1, 14), (6, 10), (1, 9), (3, 5), (9, 0)], .vnfma ⟨5, 13, ⟨11, true⟩, ⟨6, false⟩⟩ .rup .bf16),
  (wd [(0x07, 25), (1, 24), (13, 20), (11, 15), (1, 14), (6, 10), (1, 9), (6, 0)], .vmin ⟨5, 13, ⟨11, true⟩, ⟨6, false⟩⟩ .s32),
  (wd [(0x08, 25), (1, 24), (13, 20), (11, 15), (1, 14), (6, 10), (1, 9), (6, 0)], .vmax ⟨5, 13, ⟨11, true⟩, ⟨6, false⟩⟩ .s32),
  (wd [(0x09, 25), (1, 24), (13, 20), (11, 15), (1, 14), (1, 9), (1, 5), (6, 0)], .vabs ⟨5, 13, ⟨11, true⟩⟩ true .s32),
  (wd [(0x0A, 25), (1, 24), (13, 20), (11, 15), (1, 14), (1, 9), (1, 5), (6, 0)], .vneg ⟨5, 13, ⟨11, true⟩⟩ true .s32),
  (wd [(0x0B, 25), (1, 24), (3, 20), (11, 15), (1, 14), (6, 10), (1, 9), (4, 5), (6, 0)], .vcmpCc 5 3 ⟨11, true⟩ ⟨6, false⟩ .gt .s32),
  (wd [(0x0C, 25), (1, 24), (13, 20), (11, 15), (1, 14), (6, 10), (1, 9), (6, 0)], .vsel ⟨5, 13, ⟨11, true⟩, ⟨6, false⟩⟩ .s32),
  (wd [(0x0D, 25), (1, 24), (13, 20), (11, 15), (1, 14), (6, 10), (1, 9), (6, 0)], .vand ⟨5, 13, ⟨11, true⟩, ⟨6, false⟩⟩ .s32),
  (wd [(0x0E, 25), (1, 24), (13, 20), (11, 15), (1, 14), (6, 10), (1, 9), (6, 0)], .vor ⟨5, 13, ⟨11, true⟩, ⟨6, false⟩⟩ .s32)]
theorem test_decode_vector_1 : wordsV1.all (fun p => decodesTo 1 p.1 p.2) = true := by decide +kernel
/-- Words of the V class (Tables 08-1 to 08-5) and a scalar form in slot 1, field by field where spec/opcode_table.json places them, and the operations they stand for. -/
def wordsV2 : List (Nat × Instr) := [
  (wd [(0x0F, 25), (1, 24), (13, 20), (11, 15), (1, 14), (6, 10), (1, 9), (6, 0)], .vxor ⟨5, 13, ⟨11, true⟩, ⟨6, false⟩⟩ .s32),
  (wd [(0x10, 25), (1, 24), (13, 20), (11, 15), (1, 14), (1, 9), (6, 0)], .vnot ⟨5, 13, ⟨11, true⟩⟩ .s32),
  (wd [(0x11, 25), (1, 24), (13, 20), (11, 15), (1, 14), (6, 10), (1, 9), (1, 5), (6, 0)], .vshl ⟨5, 13, ⟨11, true⟩, ⟨6, false⟩⟩ true .s32),
  (wd [(0x12, 25), (1, 24), (13, 20), (11, 15), (1, 14), (6, 10), (1, 9), (6, 0)], .vshr ⟨5, 13, ⟨11, true⟩, ⟨6, false⟩⟩ .s32),
  (wd [(0x13, 25), (1, 24), (13, 20), (11, 15), (1, 14), (6, 10), (1, 9), (6, 0)], .vsra ⟨5, 13, ⟨11, true⟩, ⟨6, false⟩⟩ .s32),
  (wd [(0x14, 25), (1, 24), (13, 20), (11, 15), (10, 10), (1, 9), (1, 8), (5, 5), (12, 0)], .vcvt 2 13 ⟨11, true⟩ .f32 true .sto .e4m3),
  (wd [(0x15, 25), (13, 20), (1, 19), (11, 15), (1, 14), (2, 10), (1, 9), (1, 8), (3, 5), (9, 0)], .vpack 3 13 ⟨11, true⟩ .p2 true .rup .bf16),
  (wd [(0x16, 25), (13, 20), (1, 19), (11, 15), (1, 14), (6, 10), (1, 9), (3, 5), (9, 0)], .vunpack 3 13 ⟨11, true⟩ ⟨6, false⟩ .rup .bf16),
  (wd [(0x17, 25), (13, 20), (17, 15), (1, 9), (6, 0)], .vbcast 13 ⟨17, true⟩ .s32),
  (wd [(0x18, 25), (22, 20), (11, 15), (17, 10), (1, 9), (1, 8), (10, 0)], .vext 22 ⟨11, true⟩ ⟨17, true⟩ .f32),
  (wd [(0x19, 25), (13, 20), (11, 15), (17, 10), (1, 9), (6, 5), (10, 0)], .vins 13 ⟨11, true⟩ ⟨17, false⟩ 6 .f32),
  (wd [(0x1A, 25), (1, 24), (13, 20), (11, 15), (1, 14), (6, 10), (1, 9), (6, 0)], .vperm ⟨5, 13, ⟨11, true⟩, ⟨6, false⟩⟩ .s32),
  (wd [(0x1B, 25), (1, 24), (13, 20), (11, 15), (1, 14), (1, 9), (3, 5), (8, 0)], .vrot 13 ⟨11, true⟩ 43 .f16),
  (wd [(0x1C, 25), (1, 24), (13, 20), (11, 15), (1, 14), (6, 10), (1, 9), (3, 5), (8, 0)], .vslide 13 ⟨11, true⟩ ⟨6, false⟩ 43 .f16)]
theorem test_decode_vector_2 : wordsV2.all (fun p => decodesTo 1 p.1 p.2) = true := by decide +kernel
/-- Words of the V class (Tables 08-1 to 08-5) and a scalar form in slot 1, field by field where spec/opcode_table.json places them, and the operations they stand for. -/
def wordsV3 : List (Nat × Instr) := [
  (wd [(0x1D, 25), (1, 24), (13, 20), (11, 15), (1, 14), (1, 9), (1, 5), (6, 0)], .vred ⟨5, 13, ⟨11, true⟩⟩ false .max .s32),
  (wd [(0x1E, 25), (1, 24), (13, 20), (11, 15), (1, 14), (1, 9), (6, 0)], .vargmax ⟨5, 13, ⟨11, true⟩⟩ .s32),
  (wd [(0x1F, 25), (1, 24), (13, 20), (11, 15), (1, 14), (1, 9), (6, 0)], .vscanAdd ⟨5, 13, ⟨11, true⟩⟩ .s32),
  (wd [(0x20, 25), (1, 24), (13, 20), (11, 15), (1, 14), (1, 9), (8, 0)], .vexp2 ⟨5, 13, ⟨11, true⟩⟩ .f16),
  (wd [(0x21, 25), (1, 24), (13, 20), (11, 15), (1, 14), (1, 9), (8, 0)], .vlog2 ⟨5, 13, ⟨11, true⟩⟩ .f16),
  (wd [(0x22, 25), (1, 24), (13, 20), (11, 15), (1, 14), (1, 9), (8, 0)], .vrcp ⟨5, 13, ⟨11, true⟩⟩ .f16),
  (wd [(0x23, 25), (1, 24), (13, 20), (11, 15), (1, 14), (1, 9), (8, 0)], .vrsqrt ⟨5, 13, ⟨11, true⟩⟩ .f16),
  (wd [(0x24, 25), (1, 24), (13, 20), (11, 15), (1, 14), (1, 9), (8, 0)], .vtanh ⟨5, 13, ⟨11, true⟩⟩ .f16),
  (wd [(0x25, 25), (13, 20), (17, 15), (1, 14), (6, 11), (5, 8), (2, 6), (43, 0)], .vld ⟨13, ⟨17, true⟩, 6, 5, 2, 43⟩),
  (wd [(0x26, 25), (13, 20), (17, 15), (1, 14), (6, 11), (5, 8), (2, 6), (43, 0)], .vst ⟨13, ⟨17, true⟩, 6, 5, 2, 43⟩),
  (wd [(0x27, 25), (13, 20), (17, 15), (6, 10), (1, 9), (3, 5), (10, 0)], .vldx ⟨13, ⟨17, true⟩, ⟨6, false⟩, 3⟩ .f32),
  (wd [(0x28, 25), (13, 20), (17, 15), (6, 10), (1, 9), (3, 5), (10, 0)], .vstx ⟨13, ⟨17, true⟩, ⟨6, false⟩, 3⟩ .f32),
  (wd [(0x29, 25), (6, 20), (5, 15), (3, 10)], .mand 6 5 3),
  (wd [(0x2A, 25), (6, 20), (5, 15), (3, 10)], .mor 6 5 3)]
theorem test_decode_vector_3 : wordsV3.all (fun p => decodesTo 1 p.1 p.2) = true := by decide +kernel
/-- Words of the V class (Tables 08-1 to 08-5) and a scalar form in slot 1, field by field where spec/opcode_table.json places them, and the operations they stand for. -/
def wordsV4 : List (Nat × Instr) := [
  (wd [(0x2B, 25), (6, 20), (5, 15), (3, 10)], .mxor 6 5 3),
  (wd [(0x2C, 25), (6, 20), (5, 15)], .mnot 6 5),
  (wd [(0x2D, 25), (21, 20), (5, 15), (14, 0)], .mpop 21 5 .q4),
  (wd [(0x2E, 25), (21, 20), (5, 15), (14, 0)], .mfirst 21 5 .q4),
  (wd [(1, 31), (0x12, 25), (21, 20), (19, 15), (9, 10), (1, 8), (29, 0)], .sel ⟨21, ⟨19, false⟩, ⟨9, true⟩⟩ ⟨29, false⟩)]
theorem test_decode_vector_4 : wordsV4.all (fun p => decodesTo 1 p.1 p.2) = true := by decide +kernel
/-- Words of the M class (spec/09), field by field where spec/opcode_table.json places them, and the operations they stand for. -/
def wordsM1 : List (Nat × Instr) := [
  (wd [(0x01, 25), (21, 20), (19, 15), (1, 14), (2, 12), (1, 10), (1, 9), (6, 4), (7, 0)], .mmaTs 21 ⟨19, true⟩ true 2 true false 6 7),
  (wd [(0x01, 25), (21, 20), (1, 19), (11, 15), (2, 12), (1, 11), (1, 10), (1, 9), (6, 4), (14, 0)], .mmaV 21 ⟨11, true⟩ 46 2 true false 6),
  (wd [(0x02, 25), (21, 20), (19, 15), (9, 10), (1, 9), (2, 6), (1, 5), (9, 0)], .mmaH 21 ⟨⟨19, true⟩, ⟨9, false⟩⟩ 2 true 9),
  (wd [(0x03, 25), (2, 20), (19, 15), (1, 9), (1, 5), (9, 0)], .latLd 2 ⟨19, true⟩ true .bf16),
  (wd [(0x04, 25), (2, 20), (19, 15), (9, 10), (1, 9)], .latLdh 2 ⟨⟨19, true⟩, ⟨9, false⟩⟩),
  (wd [(0x06, 25), (21, 20)], .aclr 21),
  (wd [(0x07, 25), (21, 20), (19, 15), (1, 9), (10, 0)], .aload 21 ⟨19, true⟩ .f32),
  (wd [(0x08, 25), (11, 20), (19, 15), (0x64, 0)], .amovV 11 19 100),
  (wd [(0x09, 25), (21, 20), (19, 15), (1, 14), (2, 12), (1, 11), (1, 9), (4, 5), (14, 0)], .adrain 21 ⟨19, true⟩ true .p2 true false .rna .q4),
  (wd [(0x0A, 25), (21, 20), (19, 15), (9, 10), (1, 9), (1, 7), (1, 6), (22, 0)], .adrainh 21 ⟨⟨19, true⟩, ⟨9, false⟩⟩ true ⟨22, true⟩),
  (wd [(0x0B, 25), (21, 20), (19, 15)], .astat 21 19),
  (wd [(0x0C, 25), (21, 20), (17, 0)], .astatClr 21 17),
  (wd [(0x0D, 25), (19, 15), (9, 11), (1, 9), (6, 0)], .fmtLd ⟨19, true⟩ 9 6),
  (wd [(0x0E, 25), (21, 20), (9, 11)], .fmtRd 21 9)]
theorem test_decode_matrix_1 : wordsM1.all (fun p => decodesTo 2 p.1 p.2) = true := by decide +kernel
/-- Words of the M class (spec/09), field by field where spec/opcode_table.json places them, and the operations they stand for. -/
def wordsM2 : List (Nat × Instr) := [
  (wd [(0x0F, 25)], .mbar),
  (wd [(0x05, 25), (2, 20)], .latClr 2)]
theorem test_decode_matrix_2 : wordsM2.all (fun p => decodesTo 2 p.1 p.2) = true := by decide +kernel
/-- Words of the X class (spec/10, spec/11), field by field where spec/opcode_table.json places them, and the operations they stand for. -/
def wordsX1 : List (Nat × Instr) := [
  (wd [(0x01, 25), (19, 15), (9, 10), (1, 9), (6, 4)], .tld ⟨⟨19, true⟩, ⟨9, false⟩⟩ 6),
  (wd [(0x02, 25), (19, 15), (9, 10), (1, 9), (6, 4)], .tst ⟨⟨19, true⟩, ⟨9, false⟩⟩ 6),
  (wd [(0x03, 25), (19, 15), (9, 10), (1, 9), (6, 4)], .tstW ⟨⟨19, true⟩, ⟨9, false⟩⟩ 6),
  (wd [(0x04, 25), (19, 15), (9, 10), (1, 9), (6, 4), (1, 0)], .tmc ⟨⟨19, true⟩, ⟨9, false⟩⟩ 6 true),
  (wd [(0x05, 25), (19, 15), (9, 10), (1, 9), (6, 4), (2, 0)], .tcopy ⟨⟨19, true⟩, ⟨9, false⟩⟩ 6 .max),
  (wd [(0x06, 25), (19, 15), (9, 10), (1, 9), (6, 4)], .tgath ⟨⟨19, true⟩, ⟨9, false⟩⟩ 6),
  (wd [(0x07, 25), (19, 15), (9, 10), (1, 9), (6, 4), (3, 0)], .tscat ⟨⟨19, true⟩, ⟨9, false⟩⟩ 6 .min),
  (wd [(0x08, 25), (19, 15), (9, 10), (1, 9), (6, 4), (1, 0)], .tfill ⟨⟨19, true⟩, ⟨9, false⟩⟩ 6 true),
  (wd [(0x09, 25), (21, 20), (19, 15), (22, 10), (1, 9), (3, 5), (3, 0)], .ldTs 21 ⟨19, true⟩ 179 .z64),
  (wd [(0x0A, 25), (22, 20), (19, 15), (9, 10), (1, 9), (3, 5), (3, 0)], .stTs ⟨⟨19, true⟩, ⟨9, false⟩⟩ 179 .z64),
  (wd [(0x0B, 25), (21, 20), (19, 15), (9, 10), (1, 9), (1, 6)], .ldo 21 ⟨⟨19, true⟩, ⟨9, false⟩⟩ .acq),
  (wd [(0x0C, 25), (19, 15), (1, 9), (11, 0)], .barInit ⟨19, true⟩ 11),
  (wd [(0x0D, 25), (19, 15), (9, 10), (1, 9), (0xA5, 0)], .barExp ⟨⟨19, true⟩, ⟨9, false⟩⟩ 0xA5),
  (wd [(0x0E, 25), (19, 15), (9, 10), (1, 9), (0x81, 0)], .barArr ⟨⟨19, true⟩, ⟨9, false⟩⟩ 0x81)]
theorem test_decode_copy_and_object_1 : wordsX1.all (fun p => decodesTo 3 p.1 p.2) = true := by decide +kernel
/-- Words of the X class (spec/10, spec/11), field by field where spec/opcode_table.json places them, and the operations they stand for. -/
def wordsX2 : List (Nat × Instr) := [
  (wd [(0x0F, 25), (19, 15), (1, 9), (1, 0)], .waitb ⟨19, true⟩ true),
  (wd [(0x10, 25), (19, 15), (9, 10), (1, 9)], .ringWait ⟨⟨19, true⟩, ⟨9, false⟩⟩),
  (wd [(0x11, 25), (19, 15), (9, 10), (1, 9), (2, 6), (7, 0)], .cntAdd ⟨⟨19, true⟩, ⟨9, false⟩⟩ .rel 7),
  (wd [(0x12, 25), (21, 20), (19, 15), (1, 9), (1, 6), (7, 0)], .cntRd 21 ⟨19, true⟩ .acq 7),
  (wd [(0x13, 25), (19, 15), (9, 10), (1, 9), (7, 0)], .waitc ⟨⟨19, true⟩, ⟨9, false⟩⟩ 7),
  (wd [(0x14, 25), (21, 20), (19, 15), (9, 10), (1, 9), (5, 6), (2, 4), (7, 0)], .atom 21 ⟨19, true⟩ 9 .xor .rel 7),
  (wd [(0x15, 25), (21, 20), (19, 15), (9, 10), (1, 9), (2, 6), (7, 0)], .atomCas 21 ⟨⟨19, true⟩, ⟨9, false⟩⟩ .rel 7),
  (wd [(0x20, 25), (19, 15), (9, 10), (1, 9), (2, 6)], .fork ⟨⟨19, true⟩, ⟨9, false⟩⟩ .dome),
  (wd [(0x21, 25), (19, 15), (9, 10), (1, 9)], .launch ⟨⟨19, true⟩, ⟨9, false⟩⟩),
  (wd [(0x22, 25), (19, 15), (1, 9), (7, 0)], .futNew ⟨19, true⟩ 7),
  (wd [(0x23, 25), (19, 15), (9, 10), (1, 9), (1, 4), (7, 0)], .futRes ⟨⟨19, true⟩, ⟨9, false⟩⟩ true 7),
  (wd [(0x24, 25), (19, 15), (9, 10), (1, 9)], .futWait ⟨⟨19, true⟩, ⟨9, false⟩⟩),
  (wd [(0x25, 25), (21, 20), (19, 15), (1, 9), (1, 6), (7, 0)], .futRd 21 ⟨19, true⟩ .acq 7),
  (wd [(0x26, 25), (19, 15), (9, 10), (1, 9)], .qOpen ⟨⟨19, true⟩, ⟨9, false⟩⟩)]
theorem test_decode_copy_and_object_2 : wordsX2.all (fun p => decodesTo 3 p.1 p.2) = true := by decide +kernel
/-- Words of the X class (spec/10, spec/11), field by field where spec/opcode_table.json places them, and the operations they stand for. -/
def wordsX3 : List (Nat × Instr) := [
  (wd [(0x27, 25)], .qRet),
  (wd [(0x28, 25), (19, 15), (1, 9)], .waitq ⟨19, true⟩),
  (wd [(0x30, 25), (21, 20), (19, 15), (1, 9)], .objOpenw 21 ⟨19, true⟩),
  (wd [(0x31, 25), (21, 20), (19, 15), (1, 9)], .objPub 21 ⟨19, true⟩),
  (wd [(0x32, 25), (19, 15), (1, 9)], .objAbandon ⟨19, true⟩),
  (wd [(0x33, 25), (21, 20), (19, 15), (9, 10), (1, 9)], .objPin 21 ⟨⟨19, true⟩, ⟨9, false⟩⟩),
  (wd [(0x34, 25), (19, 15), (1, 9)], .objUnpin ⟨19, true⟩),
  (wd [(0x35, 25), (19, 15), (9, 10), (1, 9), (1, 0)], .objSub ⟨⟨19, true⟩, ⟨9, false⟩⟩ true),
  (wd [(0x36, 25), (21, 20), (19, 15), (1, 9), (2, 0)], .objVer 21 ⟨19, true⟩ .pinned),
  (wd [(0x37, 25), (21, 20), (19, 15), (1, 9), (14, 0)], .objDesc 21 ⟨19, true⟩ 14),
  (wd [(0x38, 25), (19, 15), (9, 10), (1, 9), (1, 7), (45, 0)], .objPref ⟨⟨19, true⟩, ⟨9, false⟩⟩ true 45),
  (wd [(0x39, 25), (19, 15), (9, 10), (1, 9)], .waitv ⟨⟨19, true⟩, ⟨9, false⟩⟩),
  (wd [(0x40, 25), (19, 15), (9, 10), (1, 9)], .coll ⟨⟨19, true⟩, ⟨9, false⟩⟩),
  (wd [(0x41, 25), (21, 20), (19, 15), (9, 10), (1, 9)], .relLd 21 ⟨⟨19, true⟩, ⟨9, false⟩⟩)]
theorem test_decode_copy_and_object_3 : wordsX3.all (fun p => decodesTo 3 p.1 p.2) = true := by decide +kernel
/-- Words of the X class (spec/10, spec/11), field by field where spec/opcode_table.json places them, and the operations they stand for. -/
def wordsX4 : List (Nat × Instr) := [
  (wd [(0x42, 25), (21, 20)], .slotRd 21),
  (wd [(0x48, 25), (19, 15), (9, 10), (1, 9), (1, 7), (4, 0)], .drOp ⟨⟨19, true⟩, ⟨9, false⟩⟩ true .xor),
  (wd [(0x50, 25), (19, 15), (1, 9)], .nbLoad ⟨19, true⟩),
  (wd [(0x51, 25), (19, 15), (1, 9)], .nbRun ⟨19, true⟩),
  (wd [(0x52, 25), (19, 15), (1, 9)], .nbAcc ⟨19, true⟩)]
theorem test_decode_copy_and_object_4 : wordsX4.all (fun p => decodesTo 3 p.1 p.2) = true := by decide +kernel

/-- Microinstructions (Tables 12-4 and 12-5): op [63:59], bd [58:55], bs [54:51], px [50:48], fmt [47:45], rm [44:42], imm [31:0]. -/
def wordsMicro : List (Nat × Instr) := [
  (0, .endRun), (wd [(0x01, 59), (11, 55), (2, 45), (0x12345678, 0)], .ldr 11 .bfHi 0x12345678),
  (wd [(0x02, 59), (11, 55), (3, 45), (1, 42), (5, 0)], .sadd 11 .hfLo .rtz 5),
  (wd [(0x03, 59), (11, 55), (4, 45), (3, 42), (6, 0)], .mulr 11 .hfHi .rup 6), (wd [(0x04, 59), (11, 55), (7, 0)], .minr 11 .f32 7),
  (wd [(0x05, 59), (11, 55), (1, 45), (8, 0)], .maxr 11 .bfLo 8), (wd [(0x06, 59), (11, 55), (6, 51), (4, 42)], .aadd 11 6 .rna),
  (wd [(0x07, 59), (11, 55), (6, 51), (2, 42)], .ascl 11 6 .rdn), (wd [(0x08, 59), (13, 55)], .clr 13),
  (wd [(0x09, 59), (6, 51), (1, 45), (1, 42), (9, 0)], .wb 6 .bfLo .rtz 9), (wd [(0x0A, 59), (5, 48)], .sclp 5),
  (wd [(0x0B, 59), (5, 48), (3, 42)], .sclm 5 .rup), (wd [(0x0C, 59), (0xFFFFFFFF, 0)], .radv 0xFFFFFFFF),
  (wd [(0x0D, 59), (5, 48), (45, 0)], .nbuLoop 5 45)]
theorem test_decode_micro : wordsMicro.all (fun p => (decodeMicro p.1).toOption == some p.2) = true := by decide +kernel

/-- Refusals of R171 and R205: a major or code that names nothing, reserved bits with their mask, a type that is not accepted. -/
theorem test_decode_refused :
    refusedWith 0 (0x1D * 2 ^ 25) .major ∧ refusedWith 1 (0x2F * 2 ^ 25) .major ∧ refusedWith 2 (0x10 * 2 ^ 25) .major ∧
    refusedWith 3 (0x16 * 2 ^ 25) .major ∧ refusedWith 0 (0x0F * 2 ^ 25 + 3 * 2 ^ 5) .function ∧ refusedWith 0 (0x01 * 2 ^ 25 + 15) .function ∧
    refusedWith 0 (0x20 * 2 ^ 25 + 6 * 2 ^ 5 + 10) .function ∧ refusedWith 0 (0x46 * 2 ^ 25 + 9) (.reserved 9) ∧
    refusedWith 2 (0x0C * 2 ^ 25 + 2 ^ 19) (.reserved (2 ^ 19)) ∧ refusedWith 1 (0x1A * 2 ^ 25) .function ∧ refusedWith 0 5 (.reserved 5) := by
  decide +kernel

theorem test_encoded_words_decode : Obligations.EncodedWordsDecode := by
  unfold Obligations.EncodedWordsDecode; intro q v; and_intros <;> rfl

-- Witnesses: a concrete state and operands for the hypotheses of each obligation

/-- A READY context with scalars in s1 to s4, vectors in v1 to v3, 64 KiB of tile store, four tiles, two latches, 4 KiB of code. -/
def c0 : Ctx := { Ctx.reset with
  st := .ready
  sq := [(1, [0x40]), (2, [0x80]), (3, [3]), (4, [4])]
  vq := [(1, [5]), (2, [6]), (3, [7])]
  res := { TaskRes.reset with tsp := 4, accN := 4, latN := 2, nlen := 0x1000, cov := 1, tid := 7 } }
def sp0 (x : Ctx) : Spire := { Spire.reset with ctxs := [(0, x)] }
/-- That context in spire 0, the bundle at 0x40 under issue. -/
def at_ (x : Ctx) : State := { State.reset with
  spires := [(0, sp0 x)]
  iss := { Issue.reset with active := true, off := 0x40, next := 0x50, pre := some (sp0 x) } }
/-- The same with other stores, or other parts of the spire. -/
def atSp (y : Spire) : State := { at_ c0 with spires := [(0, y)] }

theorem clean_c0 : (at_ c0).Clean := ⟨rfl, rfl⟩

theorem witness_divideAndRemainder : (at_ c0).Clean ∧ ∃ l y, takeAll [.s (qs 1), .s (qs 2)] (at_ c0).cx = some (l, y) :=
  ⟨clean_c0, _, _, rfl⟩

theorem witness_integerResultsAndQueues :
    (∃ F l y, intTwo (.add rg true .s32) = some F ∧ (at_ c0).Clean ∧ takeAll F.srcs (at_ c0).cx = some (l, y)) ∧
    (∃ F l y, intOther (at_ c0) (.mad rg false .z64) = some F ∧ (at_ c0).Clean ∧ takeAll F.srcs (at_ c0).cx = some (l, y)) ∧
    (0 : Fin 4).val + 1 ≤ ((at_ c0).cx.sOf 1).length ∧ (0 : Fin 4).val + 1 ≤ ((at_ c0).cx.vOf 1).length :=
  ⟨⟨_, _, _, rfl, clean_c0, rfl⟩, ⟨_, _, _, rfl, clean_c0, rfl⟩, by decide, by decide⟩

theorem witness_scalarFloatResults :
    (∃ F m l y, floatRounded (at_ c0) (.fma rg .sto .f64) = some (F, m) ∧ (at_ c0).Clean ∧ takeAll F.srcs (at_ c0).cx = some (l, y)) ∧
    (∃ F l y, floatExact (.fcmp rg .un .f32) = some F ∧ (at_ c0).Clean ∧ takeAll F.srcs (at_ c0).cx = some (l, y)) :=
  ⟨⟨_, _, _, _, rfl, clean_c0, rfl⟩, ⟨_, _, _, rfl, clean_c0, rfl⟩⟩

/-- With NXE and XLH zero no conversion event traps or is listed. -/
theorem quiet_c0 (l : List Nat) : Quiet (at_ c0) l := by
  refine ⟨fun k _ => ?_, .inl rfl⟩
  have h : (at_ c0).cx.sys.nxe = 0 := rfl
  simp [nxeHas, bit, h]

theorem witness_conversionResults :
    ((at_ c0).Clean ∧ (∃ l y, takeAll [.s (qs 1)] (at_ c0).cx = some (l, y)) ∧ ∀ l, Quiet (at_ c0) l) ∧
    ((∃ l y, takeAll [.v (qv 1)] (at_ c0).cx = some (l, y)) ∧
      ((3 : Fin 4).val + 1) * (4096 / max Fmt.f32.width Fmt.e4m3.width) ≤ 4096 / min Fmt.f32.width Fmt.e4m3.width) ∧
    (Fmt.f16 = .f16 ∧ ((3 : Fin 8).val + 1) * lanes .f16 ≤ 1024) :=
  ⟨⟨clean_c0, ⟨_, _, rfl⟩, quiet_c0⟩, ⟨⟨_, _, rfl⟩, by decide⟩, by decide⟩

theorem witness_laneWiseResults : ∃ F, laneWise (at_ c0) (.vfma vg .rne .f32) = some F ∧ (at_ c0).Clean ∧
    ∃ l y, takeAll F.srcs (at_ c0).cx = some (l, y) := ⟨_, rfl, clean_c0, _, _, rfl⟩

theorem witness_vectorMoveResults : ∃ F, laneMoves (at_ c0) (.vins 1 (qv 1) (qs 1) 2 .s64) = some F ∧ (at_ c0).Clean ∧
    ∃ l y, takeAll F.srcs (at_ c0).cx = some (l, y) := ⟨_, rfl, clean_c0, _, _, rfl⟩

theorem witness_reductionAndMaskResults : (at_ c0).Clean ∧ (at_ c0).iss.bad = false ∧
    (∃ l y, takeAll [.v (qv 1), .s (qs 1)] (at_ c0).cx = some (l, y)) ∧ (∃ l y, takeAll [.v (qv 1)] (at_ c0).cx = some (l, y)) ∧
    (∃ l y, takeAll [.v (qv 1), .v (qv 2)] (at_ c0).cx = some (l, y)) ∧ RedOp.add = .add ∧ Fmt.s8.isInt = true :=
  ⟨clean_c0, rfl, ⟨_, _, rfl⟩, ⟨_, _, rfl⟩, ⟨_, _, rfl⟩, rfl, rfl⟩

/-- The bounds of the reserved bits of R253, one word for each. -/
theorem witness_maskCounts : (at_ c0).iss.bad = false ∧ Fmt.q4 ≠ .f64 ∧
    [0x2D * 2 ^ 25 + 2 ^ 18, 0x2E * 2 ^ 25 + 2 ^ 19, 0x2D * 2 ^ 25 + 2 ^ 5, 0x2E * 2 ^ 25 + 2 ^ 14, 0x2D * 2 ^ 25 + 11, 0x2E * 2 ^ 25 + 15,
      0x2E * 2 ^ 25 + 31].all (fun w => decide ((w / 2 ^ 25 = 0x2D ∨ w / 2 ^ 25 = 0x2E) ∧
        (bits w 18 2 ≠ 0 ∨ bits w 5 10 ≠ 0 ∨ bits w 0 5 = Fmt.f64.code ∨ 14 < bits w 0 5))) = true := by decide +kernel

/-- A context with a call frame on its return stack, and one in an inline task. -/
def called : Ctx := { c0 with rstk := List.replicate 15 (.call 0x80) }
def inl : Ctx := { c0 with rstk := [.call 0x90, .fork [1] 5 9 1 0x60] }

theorem witness_controlTransfersAndLoops :
    ((at_ called).Clean ∧ (at_ called).cx.inBody (at_ called).iss.off = false) ∧
    -- the least and the greatest target
    (InCode (at_ called) ((at_ called).iss.off + 16 * Int.bmod (0xFFFFC : Fin 1048576) (2 ^ 20)) ∧
      InCode (at_ called) ((at_ called).iss.off + 16 * Int.bmod (0xFB : Fin 1048576) (2 ^ 20))) ∧
    (∃ e y, take (.s (qs 1)) (at_ called).cx = some (.s e, y) ∧ branches .z e = false ∧ branches .gtz e = true ∧
      InCode (at_ called) ((at_ called).iss.off + 16 * Int.bmod (0x3FFC : Fin 16384) (2 ^ 14)) ∧ InCode (at_ called) (e.toNat % 2 ^ 32 : Nat)) ∧
    (at_ called).cx.rstk.length < 16 ∧ (∃ r, (at_ called).cx.rstk = .call 0x80 :: r) ∧
    -- a loop whose body is the largest that fits, with a trip count and without
    (at_ c0).cx.loop = none ∧ (∃ e y, take (popSrc 1) (at_ c0).cx = some (.s e, y) ∧ e.toNat % 2 ^ 32 ≠ 0) ∧
    (∃ e y, take (popSrc 0) (at_ c0).cx = some (.s e, y) ∧ e.toNat % 2 ^ 32 = 0) ∧
    (at_ c0).iss.off + 16 * ((63 : Fin 64).val + 2) < (at_ c0).cx.res.nlen :=
  ⟨⟨⟨rfl, rfl⟩, by decide +kernel⟩, by unfold InCode; decide +kernel, ⟨_, _, rfl, by unfold InCode; decide +kernel⟩, by decide +kernel,
    ⟨_, rfl⟩, rfl, ⟨_, _, rfl, by decide +kernel⟩, ⟨_, _, rfl, by decide +kernel⟩, by decide +kernel⟩

/-- A launch slot of tower 0 whose launch a debugger watches. -/
def l0 : Launch := ⟨1, 0, List.replicate 32 0, 1, 0, 0, 0, 0, 0, 0x1000, 0, 0, false, false, false, false, 0, false, false, [], none, none⟩
def slot0 : Slot := ⟨l0, 0, 0, 1, false, true, [], [], 0⟩
def withSlot (x : Ctx) (y : Slot) : State := { at_ x with
  towers := [(0, { Tower.reset with arb := { Arbiter.reset with slots := [(0, some y)] } })] }

theorem witness_yieldTrapAndBrk : (at_ c0).cx.loop = none ∧ (at_ c0).debugged (at_ c0).cx = false ∧
    (let s := withSlot c0 { slot0 with l := { l0 with dbg := true } }; s.cx.loop = none ∧ s.debugged s.cx = true) := by decide +kernel;

theorem witness_tendRetiresTheTask :
    ((at_ c0).cx.sys.opv = false ∧ (at_ c0).cx.loop = none ∧ (at_ c0).cx.depth = 0) ∧
    (let s := at_ { c0 with sys := { SysRegs.reset with cls := 9, wgt := 5 } }; s.cx.sys.cls ≠ 0 ∧ s.cx.sys.wgt ≠ 0 ∧ s.cx.depth = 0) ∧
    ((at_ inl).cx.sys.opv = false ∧ (at_ inl).cx.loop = none ∧ (at_ inl).cx.depth ≠ 0 ∧
      splitFork (at_ inl).cx.rstk = some (.fork [1] 5 9 1 0x60, [])) := by decide +kernel

theorem witness_systemRegisterAccess :
    ((at_ c0).iss.bad = false ∧ (0x027, 0) ∈ sysRegs (at_ c0)) ∧
    ((at_ c0).Clean ∧ ∃ y, take (.s (qs 4)) (at_ c0).cx = some (.s 4, y) ∧ mayWrite (at_ c0).cx (0x00C : Fin 1024) (4 : Entry).toNat = true) :=
  ⟨⟨rfl, by decide +kernel⟩, clean_c0, _, rfl, by decide +kernel⟩

theorem witness_spireNumberIsReadOnly : (at_ c0).iss.bad = false ∧
    decodeSlot 0 (0x4A * 2 ^ 25 + 1 * 2 ^ 15 + 0x011) = .ok (.syswr (qs 1) 0x011) ∧
    ((at_ c0).Clean ∧ ∃ e y q, take (.s (qs 1)) (at_ c0).cx = some (.s e, y) ∧ (at_ c0).iss.pre = some q) :=
  ⟨rfl, rfl, clean_c0, _, _, _, rfl, rfl⟩

/-- The three cases of `chk`: above the coverage level, equal, and unequal at the level itself. -/
theorem witness_chkComparesItsSources :
    (at_ c0).Clean ∧ (∃ v w y, takeAll [.s (qs 1), .s (qs 2)] (at_ c0).cx = some ([.s v, .s w], y) ∧
      (at_ c0).cx.res.cov < (2 : Fin 4) ∧ ¬((at_ c0).cx.res.cov < (1 : Fin 4) ∨ v = w)) ∧
    (∃ v y, takeAll [.s ⟨1, true⟩, .s (qs 1)] (at_ c0).cx = some ([.s v, .s v], y)) ∧ ∃ q, (at_ c0).iss.pre = some q :=
  ⟨clean_c0, ⟨_, _, _, rfl, by decide +kernel⟩, ⟨_, _, rfl⟩, _, rfl⟩

/-- A task with one page whose last bytes are read and written. -/
def edge (base : Entry) : Ctx := { c0 with
  sq := [(1, [base]), (2, [9])], vq := [(1, [0]), (3, [7])], masks := [(1, 3)], res := { c0.res with tsp := 1, tsb := 0x4000, lck := true } }

theorem witness_tileStoreReads :
    ((at_ (edge 0x3C00)).Clean ∧ (∃ y, take (.s (qs 1)) (at_ (edge 0x3C00)).cx = some (.s 0x3C00, y)) ∧
      ((0x3C00 : Entry).toNat + 512 * (1 : Fin 64)) % 64 = 0 ∧
      Inside (at_ (edge 0x3C00)) (activeOffs (at_ (edge 0x3C00)) ⟨1, qs 1, 5, 0, 0, 1⟩ (0x3C00 + 512 * 1)) ∧
      Readable (at_ (edge 0x3C00)) 5 (activeOffs (at_ (edge 0x3C00)) ⟨1, qs 1, 5, 0, 0, 1⟩ (0x3C00 + 512 * 1))) ∧
    (let s := at_ (edge 0x3FF8); let l := activeElems s ⟨1, qs 1, qv 1, 1⟩ .s32 0x3FF8 0;
      (∃ y, takeAll [.s (qs 1), .v (qv 1)] s.cx = some ([.s 0x3FF8, .v 0], y)) ∧ (∀ p ∈ l, p.2 % (Fmt.s32.width / 8) = 0) ∧
      Inside s (elemOffs .s32 l) ∧ 8 ≤ Fmt.s32.width ∧ Readable s s.cx.sys.tsw (elemOffs .s32 l)) ∧
    (let s := at_ (edge 0x3800); let e := (0x3800 : Entry).toNat + (255 : Fin 256).val * (Fmt.z64.width / 8)
      let offs := (List.range (Fmt.z64.width / 8)).map (e + ·)
      (∃ y, take (.s (qs 1)) s.cx = some (.s 0x3800, y)) ∧ 8 ≤ Fmt.z64.width ∧ e % (Fmt.z64.width / 8) = 0 ∧ Inside s offs ∧
      Readable s s.cx.sys.tsw offs) :=
  ⟨⟨⟨rfl, rfl⟩, ⟨_, rfl⟩, by decide +kernel, by unfold Inside; decide +kernel, by unfold Readable; decide +kernel⟩,
    ⟨⟨_, rfl⟩, by decide +kernel, by unfold Inside; decide +kernel, by decide +kernel, by unfold Readable; decide +kernel⟩,
    ⟨_, rfl⟩, by decide +kernel, by decide +kernel, by unfold Inside; decide +kernel, by unfold Readable; decide +kernel⟩

theorem witness_tileStoreWrites :
    ((at_ (edge 0x3C00)).Clean ∧ ((at_ (edge 0x3C00)).spire 0).waking = [] ∧
      (∃ y, takeAll [.s (qs 1), popSrcV 3] (at_ (edge 0x3C00)).cx = some ([.s 0x3C00, .v 7], y)) ∧
      ((0x3C00 : Entry).toNat + 512 * (1 : Fin 64)) % 64 = 0 ∧
      Inside (at_ (edge 0x3C00)) (activeOffs (at_ (edge 0x3C00)) ⟨3, qs 1, 5, 0, 0, 1⟩ (0x3C00 + 512 * 1))) ∧
    (let s := at_ (edge 0x3FF8); let l := activeElems s ⟨3, qs 1, qv 1, 1⟩ .s32 0x3FF8 0;
      (∃ y, takeAll [.s (qs 1), .v (qv 1), popSrcV 3] s.cx = some ([.s 0x3FF8, .v 0, .v 7], y)) ∧ 8 ≤ Fmt.s32.width ∧
      (∀ p ∈ l, p.2 % (Fmt.s32.width / 8) = 0) ∧ Inside s (elemOffs .s32 l)) ∧
    (let s := at_ (edge 0x3F01); let e := (0x3F01 : Entry).toNat + (254 : Fin 256).val * (Fmt.s8.width / 8)
      (∃ y, takeAll [.s (qs 1), .s (qs 2)] s.cx = some ([.s 0x3F01, .s 9], y)) ∧ 8 ≤ Fmt.s8.width ∧ e % (Fmt.s8.width / 8) = 0 ∧
      Inside s ((List.range (Fmt.s8.width / 8)).map (e + ·))) :=
  ⟨⟨⟨rfl, rfl⟩, rfl, ⟨_, rfl⟩, by decide +kernel, by unfold Inside; decide +kernel⟩,
    ⟨⟨_, rfl⟩, by decide +kernel, by decide +kernel, by unfold Inside; decide +kernel⟩,
    ⟨_, rfl⟩, by decide +kernel, by decide +kernel, by unfold Inside; decide +kernel⟩

/-- The context with offset `base` in s1; the operation under issue is the engine's. -/
def eng (base : Entry) : State := at_ { c0 with sq := [(1, [base]), (2, [0x80]), (3, [0x10])] }

theorem witness_engineOperationsEnterTheQueue :
    ((eng 0x8000).Clean ∧ (∃ y, take (.s (qs 1)) (eng 0x8000).cx = some (.s 0x8000, y)) ∧ inAcc (eng 0x8000) ((eng 0x8000).accD 3) ∧
      inLat (eng 0x8000) 1 ∧ Region (eng 0x8000) 0x8000 ((eng 0x8000).mop (.mmaTs 3 (qs 1) false 1 true false 0 3)).mma.aBytes ∧
      Free (eng 0x8000) [(false, tile (eng 0x8000) ((eng 0x8000).accD 3)), (true, lat (eng 0x8000) 1)]) ∧
    ((∃ v y, take (.v (qv 1)) (eng 0).cx = some (.v v, y)) ∧ inAcc (eng 0) ((eng 0).accD 0) ∧ inLat (eng 0) 0 ∧
      Free (eng 0) [(false, tile (eng 0) ((eng 0).accD 0)), (true, lat (eng 0) 0)]) ∧
    (Region (eng 0x8000) 0x8000 (if Fmt.bf16 = .q4 then 0x8800 else 0x8000) ∧ Region (eng 0x7800) 0x7800 (if Fmt.q4 = .q4 then 0x8800 else 0x8000) ∧
      Free (eng 0x8000) [(true, lat (eng 0x8000) 1)]) ∧
    ((∃ y, take (.s (qs 1)) (eng 0).cx = some (.s 0, y)) ∧ Region (eng 0) 0 (16384 * Fmt.f32.width / 8) ∧
      Free (eng 0) [(false, tile (eng 0) ((eng 0).accD 3))]) :=
  ⟨⟨⟨rfl, rfl⟩, ⟨_, rfl⟩, by unfold inAcc; decide +kernel, by unfold inLat; decide +kernel, by unfold Region; decide +kernel, by unfold Free; decide +kernel⟩,
    ⟨⟨_, _, rfl⟩, by unfold inAcc; decide +kernel, by unfold inLat; decide +kernel, by unfold Free; decide +kernel⟩,
    ⟨by unfold Region; decide +kernel, by unfold Region; decide +kernel, by unfold Free; decide +kernel⟩,
    ⟨_, rfl⟩, by unfold Region; decide +kernel, by unfold Free; decide +kernel⟩

/-- An `aclr` of tile 1 of the task 7 waiting at the engine's head. -/
def op0 : MOp := { (eng 0).mop (.aclr 1) with d := 1 }
def withEngine (l : List MOp) : State := atSp { sp0 c0 with engine := l }

theorem witness_engineReadsAndDrains :
    (inAcc (eng 0) ((eng 0).accA 3) ∧ Free (eng 0) [(false, tile (eng 0) ((eng 0).accA 3))] ∧ Free (eng 0) []) ∧
    (let s := eng 0x8000; let m := s.mop (.adrain 3 (qs 1) false .ui true false .rne .bf16)
      (∃ y, take (.s (qs 1)) s.cx = some (.s 0x8000, y)) ∧ inAcc s (s.accD 3) ∧
      Region s 0x8000 (16384 * m.drainTo.fmt.width / 8 + if m.drainTo.fmt = .q4 then 0x200 else 0) ∧ Free s [(false, tile s (s.accD 3))]) ∧
    ((eng 0).spire 0).ownEngine 0 = false ∧ ((withEngine [op0]).spire 0).ownEngine 0 = true :=
  ⟨⟨by unfold inAcc; decide +kernel, by unfold Free; decide +kernel, by unfold Free; decide +kernel⟩,
    ⟨⟨_, rfl⟩, by unfold inAcc; decide +kernel, by unfold Region; decide +kernel, by unfold Free; decide +kernel⟩, by decide +kernel, by decide +kernel⟩

/-- A pin and a draft of the handle in s1. -/
def owned : State := at_ { c0 with sq := [(1, [5]), (2, [0x80]), (3, [0xFFF0])], pins := [⟨5, 1, 0⟩], drafts := [(5, 2)] }

theorem witness_engineObjectOperations :
    (owned.Clean ∧ (∃ h ix y, takeAll [.s (qs 1), .s (qs 2)] owned.cx = some ([.s h, .s ix], y) ∧ ∃ q ∈ owned.cx.pins, q.h = h) ∧
      inAcc owned (owned.accD 3) ∧ inLat owned 1 ∧ Free owned [(false, tile owned (owned.accD 3)), (true, lat owned 1)] ∧ Free owned [(true, lat owned 1)]) ∧
    (∃ h ix b y, takeAll [.s (qs 1), .s (qs 2), .s (qs 3)] owned.cx = some ([.s h, .s ix, .s b], y) ∧ (∃ q ∈ owned.cx.drafts, q.1 = h) ∧
      b.toNat % 16 = 0 ∧ b.toNat + 16 ≤ owned.cx.res.tsp * 0x4000) ∧
    ((∃ h ix y, takeAll [.s (qs 1), .s (qs 2), .s (qs 0)] owned.cx = some ([.s h, .s ix, .s 0], y)) ∧ Free owned [(false, tile owned (owned.accD 3))]) ∧
    (let s := eng 0xFF80; let offs := (List.range (8 * ((15 : Fin 16).val + 1))).map ((0xFF80 : Entry).toNat + ·)
      (∃ y, take (.s (qs 1)) s.cx = some (.s 0xFF80, y)) ∧ (0xFF80 : Entry).toNat % 8 = 0 ∧ Inside s offs ∧ Readable s s.cx.sys.tsw offs ∧
      (s.spire 0).mem.poison = [] ∧ Free s []) :=
  ⟨⟨⟨rfl, rfl⟩, ⟨_, _, _, rfl, by decide +kernel⟩, by unfold inAcc; decide +kernel, by unfold inLat; decide +kernel, by unfold Free; decide +kernel,
      by unfold Free; decide +kernel⟩,
    ⟨_, _, _, _, rfl, by decide +kernel, by decide +kernel, by decide +kernel⟩, ⟨⟨_, _, _, rfl⟩, by unfold Free; decide +kernel⟩,
    ⟨_, rfl⟩, by decide +kernel, by unfold Inside; decide +kernel, by unfold Readable; decide +kernel, rfl, by unfold Free; decide +kernel⟩

theorem nxe_none (k : Nat) : nxeHas 0 k = false := by simp [nxeHas, bit]
/-- The operations of the engine, each at its head with its data here. -/
def engineOps : List Instr := [.mmaTs 3 (qs 1) false 1 true false 0 3, .mmaV 3 (qv 1) 63 1 false false 0, .mmaH 1 sg 0 false 0, .latLd 0 (qs 1) true .q4,
  .latLdh 0 sg, .latClr 3, .aclr 1, .aload 3 (qs 1) .bf16, .amovV 3 0 127, .astat 3 0, .fmtRd 3 15, .astatClr 0 31, .adrain 3 (qs 1) false .ui true false .rne .bf16,
  .adrainh 3 sg true (qs 0)]
def opOf (i : Instr) : MOp := { op0 with ins := i, data := some [(0, false)] }
theorem may_start (i : Instr) : MayStart (withEngine [opOf i]) 0 (opOf i) [] := ⟨rfl, ⟨rfl, rfl⟩, rfl, fun _ h => (List.not_mem_nil h).elim⟩
/-- An engine whose accumulator 1 holds a poisoned word, which `amov.v` meets. -/
def badEngine : State := atSp { sp0 c0 with engine := [opOf (.amovV 0 0 0)], mem := { SpireMem.reset with poison := [(2, 16384)] } }
/-- The head of the engine: not begun, in its last sc, and with one more sc to go; a failing one; one that may not start; an `adrainh` that ends. -/
theorem witness_engineEventsRunTheHead :
    (∀ i ∈ engineOps, MayStart (withEngine [opOf i]) 0 (opOf i) [] ∧ ((withEngine [opOf i]).spire 0).mem.poison = [] ∧ (∀ c ∈ (opOf i).data.getD [], c.2 = false) ∧
      (∀ e n, ReadsFine (withEngine [opOf i]) 0 (opOf i) e n) ∧ ∀ e ∈ ((opOf i).drainTile (((withEngine [opOf i]).spire 0).mem.tile 1)).events, nxeHas (opOf i).nxe e.2 = false) ∧
    (MayStart badEngine 0 (opOf (.amovV 0 0 0)) [] ∧ ∃ k, badEngine.runOp 0 (opOf (.amovV 0 0 0)) = .error k) ∧
    (let m := { op0 with left := some 2 }; ((withEngine [m]).spire 0).engine = m :: [] ∧ m.arrived = true ∧ m.left ≠ none) ∧
    (∀ n ∈ [1, 2], let m := { op0 with left := some n }; let s := withEngine [m]
      (s.spire 0).engine = m :: [] ∧ m.left = some n ∧ isDrainh m.ins = false ∧ (s.spire 0).stands m.c m.tid = false) ∧
    (∀ n ∈ [1, 2], let m := { opOf (.adrainh 3 sg true (qs 0)) with left := some n }; let s := withEngine [m]
      (s.spire 0).engine = m :: [] ∧ isDrainh m.ins = true ∧ (s.spire 0).stands m.c m.tid = false ∧ ∀ a ∈ s.aops, a.id ≠ m.num) := by
  refine ⟨fun i _ => ⟨may_start i, rfl, fun c h => by cases List.mem_singleton.mp h; rfl, fun e n => ⟨rfl, nofun⟩, fun e _ => nxe_none _⟩,
    ⟨⟨rfl, ⟨rfl, rfl⟩, rfl, fun _ h => (List.not_mem_nil h).elim⟩, _, rfl⟩, ?_⟩
  decide +kernel

/-- Words of a record as bytes of the tile store from offset `off`, the task's base being 0. -/
def recMem (off : Nat) (ws : List Nat) : SpireMem := { SpireMem.reset with
  ts := cellsPut [] ((List.range (8 * ws.length)).map fun j => (off + j, BitVec.ofNat 8 (ws.getD (j / 8) 0 / 2 ^ (8 * (j % 8))))) }
def withRecord (x : Ctx) (off : Nat) (ws : List Nat) : State :=
  let y := { sp0 x with mem := recMem off ws }
  { at_ x with spires := [(0, y)], iss := { (at_ x).iss with pre := some y } }
theorem recordAt_of (s : State) (off : Entry) (n : Nat)
    (h : off.toNat % (8 * n) = 0 ∧ off.toNat + 8 * n ≤ s.cx.res.tsp * 0x4000 ∧ (s.spire s.iss.sp).waking = [] ∧ s.cx.res.lck = false ∧
      (s.spire s.iss.sp).mem.poison = []) : RecordAt s off n :=
  ⟨h.1, h.2.1, ⟨h.2.2.1, fun e => by simp [h.2.2.2.1] at e⟩, h.2.2.2.2⟩
theorem decRecord (s : State) (off : Entry) (n : Nat)
    (h : decide (off.toNat % (8 * n) = 0 ∧ off.toNat + 8 * n ≤ s.cx.res.tsp * 0x4000 ∧ (s.spire s.iss.sp).waking = [] ∧ s.cx.res.lck = false ∧
      (s.spire s.iss.sp).mem.poison = []) = true) : RecordAt s off n := recordAt_of s off n (of_decide_eq_true h)

/-- The last record of 16 words: one row of four f32 elements at the last 16 bytes of the tile store; a `tcopy`; a `tgath`. -/
def copyState (ws : List Nat) : State := withRecord { c0 with sq := [(1, [0xFF80]), (2, [7])] } 0xFF80 ws
def copyRec : List Nat := [2 ^ 24 + 5, 0, 0, 0, 2 ^ 32 + 10 * 2 ^ 16 + 4, 0xFFF0, 0, 0, 0, 0, 0, 0, 0, 0, 0, 0]
def tcopyRec : List Nat := [2 ^ 24 + 5, 0, 0, 0, 2 ^ 32 + 10 * 2 ^ 16 + 4, 0, 0, 0, 2 ^ 25 + 5, 0, 0, 0, 0, 0, 0, 0]
def copyOk (i : Instr) (p : Src2) (st : Fin 16) (eng : Bool) (s : State) : Bool :=
  let w := recordWords s 0xFF80 16;
  let d : TDesc := ⟨w, st, if p.b.q = 0 then w.getD 1 0 else 7⟩
  (d.bad (copyUse i)).all (fun q => !q.2) && (d.regions (copyUse i)).all (fun r => decide (r.1 + r.2 ≤ s.cx.res.tsp * 0x4000)) &&
    decide (s.copies s.iss.sp eng < (if eng then 256 else 64))
theorem witness_tileCopiesBecomeRequests :
    (copyForm (.tld sg 0) = some (sg, 0, false) ∧ (copyState copyRec).Clean ∧ RecordAt (copyState copyRec) 0xFF80 16 ∧
      (∃ y, takeAll [.s (qs 1), .s (qs 2)] (copyState copyRec).cx = some ([.s 0xFF80, .s 7], y)) ∧ copyOk (.tld sg 0) sg 0 false (copyState copyRec) = true) ∧
    (copyForm (.tcopy sg 15 .max) = some (sg, 15, true) ∧ RecordAt (copyState tcopyRec) 0xFF80 16 ∧
      (∃ y, takeAll [.s (qs 1), .s (qs 2)] (copyState tcopyRec).cx = some ([.s 0xFF80, .s 7], y)) ∧
      copyOk (.tcopy sg 15 .max) sg 15 true (copyState tcopyRec) = true) :=
  ⟨⟨rfl, ⟨rfl, rfl⟩, decRecord _ _ _ (by decide +kernel), ⟨_, rfl⟩, by decide +kernel⟩,
    rfl, decRecord _ _ _ (by decide +kernel), ⟨_, rfl⟩, by decide +kernel⟩

theorem witness_liveAccessesBecomeRequests :
    (∃ srcs f l y, askForm (at_ c0) (.cntAdd sg .rel 15) = some (srcs, none, f) ∧ (at_ c0).Clean ∧ takeAll srcs (at_ c0).cx = some (l, y)) ∧
    (∃ srcs f l y, askForm (at_ c0) (.atom 3 (qs 1) 2 .max .acq 0) = some (srcs, some 3, f) ∧ takeAll srcs (at_ c0).cx = some (l, y) ∧
      ((at_ c0).hru (towerOf (at_ c0).iss.sp)).accepts = true) :=
  ⟨⟨_, _, _, _, rfl, clean_c0, rfl⟩, _, _, _, _, rfl, rfl, by decide +kernel⟩

/-- Barriers at the end of the allocation, and a ring of sixteen there. -/
def barState (off : Entry) : State := at_ { c0 with sq := [(1, [off]), (2, [1])] }
def ringState : State := withRecord { c0 with sq := [(1, [0xFF00]), (2, [1])] } 0xFF08 [15 * 2 ^ 40]
theorem witness_barrierInstructions :
    ((barState 0xFF00).Clean ∧ ((barState 0xFF00).spire 0).waking = [] ∧ (∃ y, take (.s (qs 1)) (barState 0xFF00).cx = some (.s 0xFF00, y)) ∧
      (0xFF00 : Entry).toNat % 16 = 0 ∧ (0xFF00 : Entry).toNat + 16 * ((15 : Fin 16).val + 1) ≤ (barState 0xFF00).cx.res.tsp * 0x4000) ∧
    ((∃ y, takeAll [.s (qs 1), .s (qs 2)] (barState 0xFFF0).cx = some ([.s 0xFFF0, .s 1], y)) ∧ (0xFFF0 : Entry).toNat % 16 = 0 ∧
      (0xFFF0 : Entry).toNat + 16 ≤ (barState 0xFFF0).cx.res.tsp * 0x4000 ∧ (1 : Fin 256).val = 2 ^ ((barState 0xFFF0).iss.sp % 8) ∧
      ((128 : Fin 256).val.testBit ((barState 0xFFF0).iss.sp % 8) = false ∧ (128 : Fin 256).val ≠ 0)) ∧
    ((∃ y, takeAll [.s (qs 1), .s (qs 2)] ringState.cx = some ([.s 0xFF00, .s 1], y)) ∧
      ((ringState.spire 0).mem.bar (ringState.cx.res.tsb + 0xFF00)).ridx = 0 ∧
      0xFF00 + 16 * (((ringState.spire 0).mem.bar (ringState.cx.res.tsb + 0xFF00)).depth + 1) = ringState.cx.res.tsp * 0x4000) :=
  ⟨⟨⟨rfl, rfl⟩, rfl, ⟨_, rfl⟩, by decide +kernel⟩, ⟨⟨_, rfl⟩, by decide +kernel⟩, ⟨_, rfl⟩, by decide +kernel⟩

theorem witness_waitsAndTableReads : (barState 0).Clean ∧
    (∃ h n y, takeAll [.s (qs 1), .s (qs 2)] (barState 0).cx = some ([.s h, .s n], y) ∧ n.toNat < 64) ∧
    (∃ h y, take (.s (qs 1)) (barState 0).cx = some (.s h, y)) ∧ ((barState 0).hru (towerOf (barState 0).iss.sp)).accepts = true ∧ (31 : Fin 32) ≠ 0 :=
  ⟨⟨rfl, rfl⟩, ⟨_, _, _, rfl, by decide +kernel⟩, ⟨_, _, rfl⟩, by decide +kernel⟩

/-- The greatest weight that fits, and an open pair. -/
theorem witness_closureOpenAndReturn :
    (let s := at_ { c0 with sq := [(1, [9]), (2, [0xFFFFFFFF])] };
      s.Clean ∧ (∃ y, takeAll [.s (qs 1), .s (qs 2)] s.cx = some ([.s 9, .s 0xFFFFFFFF], y)) ∧ s.cx.sys.opv = false ∧
        (0xFFFFFFFF : Entry) ≠ 0 ∧ (0xFFFFFFFF : Entry).toNat < 2 ^ 32) ∧
    (let s := at_ { c0 with sys := { SysRegs.reset with opv := true, cls := 9, wgt := 3 } }; s.cx.sys.opv = true ∧ s.cx.sys.cls ≠ 0 ∧ s.cx.sys.wgt ≠ 0) :=
  ⟨⟨⟨rfl, rfl⟩, ⟨_, rfl⟩, by decide +kernel⟩, by decide +kernel⟩

/-- Three drafts and fifteen pins: each set has room for one more. -/
def sets (h : Entry) : State := withRecord { c0 with
  sq := [(1, [h]), (2, [0xFFF0])], drafts := [(5, 1), (6, 2), (7, 3)], pins := (List.range 15).map fun k => ⟨BitVec.ofNat 64 (20 + k), 1, 0⟩ } 0xFFF0
  [0, 2 ^ 62 + 0xFFF0]
theorem witness_draftAndPinInstructions :
    ((sets 9).Clean ∧ ((sets 9).hru (towerOf (sets 9).iss.sp)).accepts = true ∧ (∃ y, take (.s (qs 1)) (sets 9).cx = some (.s 9, y)) ∧
      (sets 9).cx.hasDraft 9 = false ∧ (sets 9).cx.drafts.length = 3) ∧
    ((∃ y, take (.s (qs 1)) (sets 5).cx = some (.s 5, y)) ∧ (sets 5).cx.hasDraft 5 = true) ∧
    ((∃ y, take (.s (qs 1)) (sets 20).cx = some (.s 20, y)) ∧ ∃ q, (sets 20).cx.pins.find? (fun p => p.h == 20) = some q) ∧
    ((∃ y, takeAll [.s (qs 1), .s (qs 2)] (sets 9).cx = some ([.s 9, .s 0xFFF0], y)) ∧ (sets 9).cx.hasPin 9 = false ∧
      (sets 9).cx.pins.length = 15) ∧
    (RecordAt (sets 9) 0xFFF0 2 ∧ (let w := recordWords (sets 9) 0xFFF0 2
      bits (wordAt w 1) 54 8 = 0 ∧ bits (wordAt w 1) 62 2 = 1 ∧ wordAt w 0 = 0 ∧ bits (wordAt w 1) 0 32 % 16 = 0)) :=
  ⟨⟨⟨rfl, rfl⟩, by decide +kernel, ⟨_, rfl⟩, by decide +kernel⟩, ⟨⟨_, rfl⟩, by decide +kernel⟩, ⟨⟨_, rfl⟩, _, rfl⟩,
    ⟨⟨_, rfl⟩, by decide +kernel⟩, decRecord _ _ _ (by decide +kernel), by decide +kernel⟩

def allGood (l : List (Nat × Bool)) : Bool := l.all fun p => !p.2
/-- Records of `dr.op`, `nb.load`, `nb.run`, `nb.acc` and `coll` without a target; an image of 64 entries at the start of the store. -/
def drRec : List Nat := [2 ^ 24 + 5, 3, 2 ^ 24 + 5, 2 ^ 32 + 7, 0, 0, 0, 0, 65536, 0, 0, 0, 0, 0, 0, 0]
def loadRec : List Nat := [2 ^ 24 + 5, 3, 0, 0, 0, 0, 0, 0, 0, 0, 0, 0, 63 * 2 ^ 8, 0xFE00, 0, 0]
def runRec : List Nat := [2 ^ 24 + 5, 3, 0, 0, 1, 2, 3, 4, 5, 6, 7, 8, 63, 0, 0, 0]
def accRec : List Nat := [2 ^ 24 + 5, 3, 0, 0, 0, 0, 0, 0, 0, 0, 0, 0, 15 * 2 ^ 16, 0xFC00, 0, 0]
def collRec : List Nat := [10 * 2 ^ 32, 2 ^ 24 + 5, 2 ^ 24 + 6, 64, 0, 0, 0, 0, 3, 0, 0, 0, 0, 0, 0, 0]
theorem witness_rowBankAndCollectiveRequests :
    (let s := copyState drRec; let w := recordWords s 0xFF80 16;
      s.Clean ∧ (∃ y, takeAll [.s (qs 1), .s (qs 2)] s.cx = some ([.s 0xFF80, .s 7], y)) ∧ RecordAt s 0xFF80 16 ∧
        allGood (rowBad .copy w) = true ∧ bits (wordAt w 9) 62 2 ≠ 1) ∧
    (let s := copyState loadRec; let w := recordWords s 0xFF80 16;
      (∃ y, take (.s (qs 1)) s.cx = some (.s 0xFF80, y)) ∧ RecordAt s 0xFF80 16 ∧ bits (wordAt w 2) 62 2 ≠ 1 ∧ allGood (nbBad 0 w) = true ∧
        bits (wordAt w 13) 0 22 + 8 * (bits (wordAt w 12) 8 6 + 1) ≤ s.cx.res.tsp * 0x4000 ∧
        Readable s 0 ((List.range (8 * (bits (wordAt w 12) 8 6 + 1))).map (bits (wordAt w 13) 0 22 + ·))) ∧
    (RecordAt (copyState runRec) 0xFF80 16 ∧ allGood (nbBad 1 (recordWords (copyState runRec) 0xFF80 16)) = true) ∧
    (let s := copyState accRec; let w := recordWords s 0xFF80 16;
      RecordAt s 0xFF80 16 ∧ allGood (nbBad 2 w) = true ∧ bits (wordAt w 13) 0 22 + 1024 ≤ s.cx.res.tsp * 0x4000) ∧
    (let s := copyState collRec; let w := recordWords s 0xFF80 16;
      RecordAt s 0xFF80 16 ∧ allGood (collBad s.cfg.pkn w) = true ∧ bits (wordAt w 6) 62 2 ≠ 1 ∧ bit (wordAt w 12) 16 = false ∧ (7 : Entry).toNat < 2 ^ 32) :=
  ⟨⟨⟨rfl, rfl⟩, ⟨_, rfl⟩, decRecord _ _ _ (by decide +kernel), by decide +kernel⟩,
    ⟨⟨_, rfl⟩, decRecord _ _ _ (by decide +kernel), by decide +kernel, by decide +kernel, by decide +kernel, by unfold Readable; decide +kernel⟩,
    ⟨decRecord _ _ _ (by decide +kernel), by decide +kernel⟩, ⟨decRecord _ _ _ (by decide +kernel), by decide +kernel⟩,
    decRecord _ _ _ (by decide +kernel), by decide +kernel⟩

/-- An object table entry: class, kind, format, extent of dimension 0, rights of its own space 1, and frames of the pages of version `v`. -/
def obj0 (cls lkind fmt ext cver dver v : Nat) (frames : List Nat) : Obj where
  w := [5 * 2 ^ 40 + cls * 2 ^ 35 + lkind * 2 ^ 32 + 2 ^ 29 + fmt * 2 ^ 24 + 7 * 2 ^ 6, 2 ^ 32 + ext, 2 ^ 32 + 1, 2 ^ 32 + 1, cver * 2 ^ 32 + dver, 0, 0,
    0, 0, 2 ^ 48 + 127 * 2 ^ 41, 0, 0, frames.length, 0, 0, 0].map fun n => BitVec.ofNat 64 n
  maps := [(v, ((List.range frames.length).zip frames).map fun p => (p.1, BitVec.ofNat 64 (2 ^ 61 + p.2)))]
  retained := []
  rights := []
  subs := []
  closing := none
  publisher := none
  joined := []
  await := []
  prims := []
  taken := []
/-- The handle of object n of this package, generation 5. -/
def hd (n : Nat) : Entry := BitVec.ofNat 64 (n * 2 ^ 24 + 5)
/-- A state with these objects in a table slice of 2^16 entries. -/
def withObjs (s : State) (l : List (Nat × Obj)) (m : List Host.Cell) : State := { s with
  objs := l, mem := m, towers := (List.range 4).map fun t => (t, { Tower.reset with hru := { Hru.reset with otlog := 16 } }) }

def forkRec : List Nat := [0xFF0, 0, 0, 0, 2 * 2 ^ 32 + 1, 0, 0, 0, 11, 12, 13, 14, 0, 0, 0, 0]
def waitRec : List Nat := [0xFF0, 0, 0, 0, 0, 0, 0, 0, 11, 12, 13, 14, 2 ^ 24 + 5, 2 ^ 25 + 5, 1023 * 2 ^ 16 + 1023, 0]
/-- A task with weight 8 that asks for all but one of it. -/
def forker (off : Nat) (ws : List Nat) : State :=
  withRecord { c0 with sq := [(1, [BitVec.ofNat 64 off]), (2, [7])], sys := { SysRegs.reset with cls := 9, wgt := 8 } } off ws
/-- A launch record of closure c: an array object of 256 bytes; package 1 is present. -/
def launchState (c : Nat) (ws : List Nat) : State :=
  withObjs (forker 0xFFE0 ws) [(1, obj0 2 5 3 32 0 0 0 [3])] (if c = 0 then [] else [(3 * 65536 + 24, BitVec.ofNat 8 c)])
def launchPeer (ws : List Nat) : State :=
  { forker 0xFFE0 ws with cfg := { Machine.Config.reset with pres := [true, true] } }
theorem witness_forkFutureWaitAndLaunch :
    (let s := forker 0xFF80 forkRec; let w := recordWords s 0xFF80 16;
      (∃ y, takeAll [.s (qs 1), .s (qs 2)] s.cx = some ([.s 0xFF80, .s 7], y)) ∧ RecordAt s 0xFF80 16 ∧ allGood (forkBad w true) = true ∧
        (∀ k, 12 ≤ k → k < 16 → wordAt w k = 0) ∧ bits (wordAt w 0) 0 32 % 16 = 0 ∧ bits (wordAt w 0) 0 32 < s.cx.res.nlen ∧
        s.fewest (targetSpires .own s.iss.sp (bits (wordAt w 2) 0 7)) = some 0 ∧ s.fewest (targetSpires .tower s.iss.sp (bits (wordAt w 2) 0 7)) = some 0 ∧
        s.releasable s.iss.sp s.cx s.iss.num = true ∧ share s.cx (7 : Entry).toNat = some (7, 1) ∧ s.hasRoom 0 = true) ∧
    (let s := forker 0xFF80 waitRec; let w := recordWords s 0xFF80 16;
      RecordAt s 0xFF80 16 ∧ allGood (forkBad w true ++ [(14, outside (wordAt w 14) (maskAt 16 10 + maskAt 0 10) || (w.getD 13 0 == 0 && bits (wordAt w 14) 16 10 != 0)), (15, wordAt w 15 != 0)]) = true ∧
        bits (wordAt w 0) 0 32 % 16 = 0 ∧ bits (wordAt w 0) 0 32 < s.cx.res.nlen ∧ share s.cx (7 : Entry).toNat = some (7, 1)) ∧
    (∀ s ∈ [forker 0xFFE0 [2 ^ 24 + 5, 0, 0, 0], launchPeer [2 ^ 56 + 2 ^ 24 + 5, 0, 0, 0]], let w := recordWords s 0xFFE0 4
      RecordAt s 0xFFE0 4 ∧ allGood (launchBad w) = true ∧ s.peekRecord (w.getD 0 0) (bits (wordAt w 1) 0 10) = none ∧ share s.cx (7 : Entry).toNat = some (7, 1)) ∧
    -- a record without a closure, one of the issuer's closure, one of another
    (∀ c ∈ [(0 : Nat), 9, 8], ∀ ws ∈ [[2 ^ 24 + 5, 0, 0, 0], [2 ^ 24 + 5, 0, 2 ^ 25 + 5, 1]], let s := launchState c ws
      let w := recordWords s 0xFFE0 4
      let r := (List.replicate 32 (0 : Entry)).set 3 (BitVec.ofNat 64 c)
      RecordAt s 0xFFE0 4 ∧ allGood (launchBad w) = true ∧ s.peekRecord (w.getD 0 0) (bits (wordAt w 1) 0 10) = some r ∧
        s.launchFull 0 (asker s w) r (if r.getD 3 0 = 0 then 0 else if (7 : Entry) = 0 then s.cx.sys.wgt / 2 else (7 : Entry).toNat) = false ∧
        s.cx.sys.cls = 9 ∧ share s.cx (7 : Entry).toNat = some (7, 1)) :=
  ⟨⟨⟨_, rfl⟩, decRecord _ _ _ (by decide +kernel), by decide +kernel, fun k h1 h2 => by
        rcases (by omega : k = 12 ∨ k = 13 ∨ k = 14 ∨ k = 15) with rfl | rfl | rfl | rfl <;> decide +kernel, by decide +kernel⟩,
    ⟨decRecord _ _ _ (by decide +kernel), by decide +kernel⟩,
    fun s h => ⟨decRecord _ _ _ (by revert s; decide +kernel), by revert s; decide +kernel⟩,
    fun c hc ws h => ⟨decRecord _ _ _ (by revert c ws; decide +kernel), by revert c ws; decide +kernel⟩⟩


theorem get_len {α : Type} (t : Tab (List α)) (k n : Nat) (h : ∀ p ∈ t, p.2.length ≤ n) : (Tab.get t k []).length ≤ n := by
  induction t with
  | nil => exact Nat.zero_le _
  | cons p r ih =>
    unfold Tab.get
    split
    · exact h p (List.mem_cons_self ..)
    · exact ih fun q hq => h q (List.mem_cons_of_mem _ hq)
/-- Contexts other than 0 of spire 0, and other spires, are as after reset. -/
theorem ctx_ne (x : Ctx) {k : Nat} (h : k ≠ 0) : (at_ x).ctx 0 k = Ctx.reset := if_neg (Ne.symm h)
theorem spire_ne (x : Ctx) {n : Nat} (h : n ≠ 0) : (at_ x).spire n = Spire.reset := if_neg (Ne.symm h)

/-- One result due, one that stays; and a due result whose queue is full. -/
def landing : Ctx := { c0 with inflight := [⟨.s 1, .s 9, 1, 0, 0, 0x30, 0⟩, ⟨.v 2, .v 8, 3, 0, 1, 0x30, 0⟩] }
def crowded : Ctx := { c0 with sq := [(1, [1, 2, 3, 4])], inflight := [⟨.s 1, .s 9, 1, 0, 0, 0x30, 0⟩] }
theorem witness_resultsLandInOrder :
    (let x := (at_ landing).ctx 0 0; x.st = .ready ∧ x.syswr = [] ∧ (∀ f ∈ x.inflight, sampled f.val = true) ∧ NoneDeferred x ∧ Room x (due x)) ∧
    (let x := (at_ crowded).ctx 0 0; let f : Flight := ⟨.s 1, .s 9, 1, 0, 0, 0x30, 0⟩
      x.st = .ready ∧ x.syswr = [] ∧ (∀ g ∈ x.inflight, sampled g.val = true) ∧ NoneDeferred x ∧ (∀ k, k ≠ 0 → ((at_ crowded).ctx 0 k).inflight = []) ∧
        x.inflight = f :: [] ∧ f.delay ≤ 1 ∧ f.dest = .s 1 ∧ f.val = .s 9 ∧ 1 ≠ 0 ∧ 4 ≤ (x.sOf 1).length) := by
  refine ⟨⟨rfl, rfl, by decide, fun _ h => (List.not_mem_nil h).elim, fun q _ => ?_, fun q => ?_⟩, rfl, rfl, by decide, fun _ h => (List.not_mem_nil h).elim, fun k h => by rw [ctx_ne _ h]; rfl, rfl, by decide, rfl, rfl, by decide, by decide⟩
  · exact Nat.le_trans (Nat.add_le_add (get_len landing.sq q 1 (by decide)) (List.length_filterMap_le _ _)) (by decide)
  · exact Nat.add_le_add (get_len landing.vq q 1 (by decide)) (List.length_filterMap_le _ _)

/-- A deferred result that may land, one without its value; and a deferred fault. -/
def waiting (v : Option RVal) (n : Nat) : State := at_ { c0 with deferred := [⟨.s 3, v, n, 0, 3, 0x30, 2⟩] }
def faulted : State := at_ { c0 with dtrap := [⟨.mk' 7 4 3 [], 0x30, 7⟩] }
theorem witness_deferredResultsAndFaults :
    (let d : Deferred := ⟨.s 3, some (.s 9), 1, 0, 3, 0x30, 2⟩; let x := (waiting (some (.s 9)) 1).ctx 0 0
      x.st = .ready ∧ x.inflight = [] ∧ x.deferred = [d] ∧ d.dest = .s 3 ∧ 3 ≠ 0 ∧ d.val = some (.s 9) ∧ d.least ≤ 1 ∧ (x.sOf 3).length < 4) ∧
    (let d : Deferred := ⟨.s 3, none, 5, 0, 3, 0x30, 2⟩; ((waiting none 5).ctx 0 0).deferred = [d] ∧ (d.val = none ∨ 1 < d.least)) ∧
    ((faulted.ctx 0 0).dtrap = ⟨.mk' 7 4 3 [], 0x30, 7⟩ :: [] ∧ RunsAt faulted 0 0 7 ∧ (faulted.ctx 0 0).st = .ready) := by
  unfold RunsAt; decide +kernel

/-- A write of one byte, due or with two sc to go; an arrival of 16 bytes at the barrier at 0x100, and one that completes a phase. -/
def writing (d : Nat) : State := at_ { c0 with tsw := [⟨.bytes [(0x20, 0xAB)] [(0, 1)], d, 3, 0, 7, 0⟩] }
def arriving (ts : Tab Byte) : State := atSp { sp0 c0 with arrivals := [⟨0, 7, 0, 0x100, 16, 1, false⟩, ⟨0, 7, 0, 0x100, 4, 2, true⟩], mem := { SpireMem.reset with ts := ts } }
theorem witness_tileStoreWritesLand :
    (∀ d ∈ [0, 1], let s := writing d
      (s.ctx 0 0).tsw = [⟨.bytes [(0x20, 0xAB)] [(0, 1)], d, 3, 0, 7, 0⟩] ∧ (s.ctx 0 0).st ≠ .halt ∧ (s.spire 0).out = [] ∧ (s.spire 0).drain = []) ∧
    (∀ d j, j ≠ 0 → ((writing d).ctx 0 j).tsw = []) ∧
    (∀ m ∈ [[], [(0x104, 16), (0x108, 1)]], let s := arriving m
      (s.spire 0).arrivals = ⟨0, 7, 0, 0x100, 16, 1, false⟩ :: [⟨0, 7, 0, 0x100, 4, 2, true⟩] ∧ s.locate 0 8 7 = some (0, 0) ∧ (s.ctx 0 0).res.tsb + 0x100 ∉ (s.spire 0).barDone ∧ Memory.wf (s.spire 0).mem.ts = true) :=
  ⟨by decide +kernel, fun d j h => by unfold writing; rw [ctx_ne _ h]; rfl, by decide +kernel⟩

def inWait (w : WaitC) (l : List Flight) : State :=
  withObjs (at_ { c0 with st := .wait, wait := some w, inflight := l })
    [(1, obj0 2 1 3 4 0 0 0 [3]), (2, obj0 1 0 3 4 6 0 6 [3]), (3, obj0 2 3 3 1 0 0 0 [4])] [(3 * 65536, 5), (4 * 65536 + 31, 0x80)]
def soon : List (List Flight) := [[], [⟨.s 1, .s 9, 1, 3, 0, 0x30, 0⟩]]
theorem witness_waitsEndWhenMet :
    (∀ w ∈ [WaitC.barrier 0x100 false 0x20, .counter (hd 1) 0 5, .version (hd 2) 6, .closure (hd 3)], ∀ l ∈ soon, let s := inWait w l
      (s.ctx 0 0).st = .wait ∧ (s.ctx 0 0).wait = some w ∧ (s.ctx 0 0).landed = l.isEmpty) ∧
    (∀ l ∈ soon, Met (inWait (.barrier 0x100 false 0x20) l) 0 0 (.barrier 0x100 false 0x20) ∧ Met (inWait (.counter (hd 1) 0 5) l) 0 0 (.counter (hd 1) 0 5) ∧
      Met (inWait (.version (hd 2) 6) l) 0 0 (.version (hd 2) 6) ∧ Met (inWait (.closure (hd 3)) l) 0 0 (.closure (hd 3))) ∧
    ¬Met (inWait (.barrier 0x100 true 0x20) []) 0 0 (.barrier 0x100 true 0x20) ∧
    (let w := WaitC.ring 0x100 1 0x20; let s := inWait w []; (s.ctx 0 0).wait = some w ∧ Met s 0 0 w ∧ s.waitPoison 0 0 w = none) ∧
    (let w := WaitC.barrier 0x100 false 0x20; ∃ k, WaitFault ((inWait w []).modSpire 0 fun x => { x with mem := { x.mem with poison := [(1, 0x100)] } }) 0 0 w k) ∧
    (let w := WaitC.ring 0xFFF0 1 0x20
     ∃ k, WaitFault ((inWait w []).modSpire 0 fun x => { x with mem := { x.mem with ts := [(0xFFFD, 1)] } }) 0 0 w k) ∧
    (let s := inWait (.yield [1, 2]) []; (s.ctx 0 0).st = .wait ∧ (s.ctx 0 0).wait = some (.yield [1, 2]) ∧ (∀ k ∈ [1, 2], (s.ctx 0 k).wait = none) ∧
      (s.ctx 0 0).landed = true) := by
  refine ⟨by decide +kernel, fun l hl => ?_, by unfold Met; decide +kernel, ⟨by decide +kernel, by unfold Met; decide +kernel, by decide +kernel⟩,
    ⟨_, .inl ⟨0x100, by decide +kernel, rfl⟩⟩, ⟨_, .inr ⟨by decide +kernel, 0xFFF0, 1, 0x20, rfl, rfl, by decide +kernel⟩⟩, by decide +kernel⟩
  rcases List.mem_cons.mp hl with rfl | hl
  · exact ⟨by unfold Met; decide +kernel, ⟨5, by decide +kernel, by decide⟩, ⟨_, rfl, by decide +kernel⟩, _, rfl, by decide +kernel⟩
  · cases List.mem_singleton.mp hl
    exact ⟨by unfold Met; decide +kernel, ⟨5, by decide +kernel, by decide⟩, ⟨_, rfl, by decide +kernel⟩, _, rfl, by decide +kernel⟩

/-- A stall whose cause has gone, and one whose cause still holds. -/
def stalled (k : StallC) : State := at_ { c0 with st := .stall, stall := some k }
theorem witness_stallsEndWhenTheCauseGoes :
    (∀ k ∈ [StallC.engineFull, .wake 3, .mbar, .missTable, .busy [(false, 2)], .deferredQueue true 1, .flights 65, .acquire, .line, .copyFull true, .launchFull, .insertion, .borrow, .entry (hd 2)],
      ((stalled k).ctx 0 0).st = .stall ∧ ((stalled k).ctx 0 0).stall = some k) ∧
    Gone (stalled .engineFull) 0 0 .engineFull ∧ Gone (stalled (.wake 3)) 0 0 (.wake 3) ∧ Gone (stalled .mbar) 0 0 .mbar ∧
    Gone (stalled .missTable) 0 0 .missTable ∧ Gone (stalled (.busy [(false, 2)])) 0 0 (.busy [(false, 2)]) ∧
    Gone (stalled (.deferredQueue true 1)) 0 0 (.deferredQueue true 1) ∧ ¬Gone (stalled (.flights 65)) 0 0 (.flights 65) ∧
    Gone (stalled .acquire) 0 0 .acquire ∧ Gone (stalled .line) 0 0 .line ∧ (∀ j, j ≠ 0 → ((stalled .line).ctx 0 j).st = .free) ∧
    Gone (stalled (.copyFull true)) 0 0 (.copyFull true) ∧ Gone (stalled .launchFull) 0 0 .launchFull ∧ Gone (stalled .insertion) 0 0 .insertion ∧
    Gone (stalled .borrow) 0 0 .borrow ∧ Gone (stalled (.entry (hd 2))) 0 0 (.entry (hd 2)) := by
  unfold Gone; exact ⟨by decide +kernel, by decide +kernel, by decide +kernel, by decide +kernel, by decide +kernel, by decide +kernel, by decide +kernel,
    by decide +kernel, rfl, trivial, fun j h => by unfold stalled; rw [ctx_ne _ h]; rfl, by decide +kernel, trivial,
    by decide +kernel, fun p h => absurd (h.symm.trans (show ((stalled .borrow).ctx 0 0).split = none by decide +kernel)) nofun,
    fun i h => nomatch (show (stalled (.entry (hd 2))).fab.items = [] by decide +kernel) ▸ h⟩

/-- A request at the head of tower 0's HRU, for word 0 of object 1. -/
def live (i : Instr) (b : Entry) : Req := ⟨i, 0, 0, 7, 0, 0x30, 3, 0, hd 1, b, 0, [], 3⟩
/-- Object 1: a live object of this kind and format, its page in HBM frame 3. -/
def homed (i : Instr) (b : Entry) (lkind fmt : Nat) : State := { withObjs (at_ c0) [(1, obj0 2 lkind fmt 4 0 0 0 [3])] [] with
  towers := [(0, { Tower.reset with hru := { Hru.reset with otlog := 16, q := [live i b] } })] }
def liveOk (i : Instr) (b : Entry) (lkind fmt need : Nat) (ks : List Nat) : Prop := let s := homed i b lkind fmt
  (s.hru 0).q = live i b :: [] ∧ (live i b).ins = i ∧ (live i b).sp < 128 ∧ (live i b).c ≠ 8 ∧ s.l2Lines = [] ∧ RunsAt s 0 0 7 ∧
    WordAt s 0 (live i b) need (lkind :: ks) (obj0 2 lkind fmt 4 0 0 0 [3]) 0 (3 * 65536)
theorem live_ok (i : Instr) (b : Entry) (lkind fmt need : Nat) (ks : List Nat)
    (h : (let s := homed i b lkind fmt; let o := obj0 2 lkind fmt 4 0 0 0 [3]
      ((s.lookup 0 3 (hd 1)).toOption = some o ∧ hpkg (hd 1) = s.cfg.pkn ∧ o.rightsOf 0 &&& need = need) ∧ (o.live = true ∧ o.lkind = lkind) ∧
      0 < o.words ∧ o.wordOff 0 = 0 ∧ o.locate 0 0 = .mem (3 * 65536))) : liveOk i b lkind fmt need ks := by
  obtain ⟨⟨h1, h2, h3⟩, ⟨h4, h5⟩, h6, h7, h8⟩ := h
  refine ⟨rfl, rfl, Nat.zero_lt_succ _, nofun, rfl, ⟨nofun, rfl⟩, ?_, h2, h3, ⟨h4, by simp [h5]⟩, h6, ⟨h7.symm, rfl, h8⟩, rfl, rfl⟩
  show (homed i b lkind fmt).lookup 0 3 (hd 1) = _
  cases h : (homed i b lkind fmt).lookup 0 3 (hd 1) with
  | error e => rw [h] at h1; cases h1
  | ok o => rw [h] at h1; exact congrArg _ (Option.some.inj h1)
theorem witness_liveOperationsAtTheirHome :
    liveOk (.cntAdd sg .rlx 0) 5 1 3 2 [] ∧ liveOk (.cntRd 1 (qs 1) .rlx 0) 0 1 3 1 [4] ∧ liveOk (.atom 1 (qs 1) 2 .add .rlx 0) 9 0 2 2 [] ∧
    liveOk (.atomCas 1 sg .rlx 0) 9 0 2 2 [] ∧ liveOk (.futNew (qs 1) 0) 0 2 3 2 [] ∧
    (let s := homed (.futNew (qs 1) 0) 0 2 3; bits (readLE s.mem (3 * 65536 + 8) 8) 62 2 ≠ 1) ∧ (obj0 2 0 2 4 0 0 0 [3]).fmt = .z32 := by
  refine ⟨live_ok _ _ _ _ _ _ ?_, live_ok _ _ _ _ _ _ ?_, live_ok _ _ _ _ _ _ ?_, live_ok _ _ _ _ _ _ ?_, live_ok _ _ _ _ _ _ ?_, ?_, ?_⟩ <;> decide +kernel

/-- A fill of the tile store, and a fetch of `mma.h` from the current version of object 1, under way; a `bar.arr` to one receiver. -/
def copyReq (i : Instr) : Req := ⟨i, 0, 0, 7, 0, 0x30, 3, 0, 0xFF80, 7, 0, copyRec.map fun n => BitVec.ofNat 64 n, 5⟩
def copying (i : Instr) (recv : List (Nat × Nat × Nat × Nat)) : AOp :=
  { (copyReq i).aop 0 4 false 6 0 with recv := recv, plan := [[⟨0, 0, false⟩, ⟨0, 1, false⟩, ⟨0, 2, false⟩, ⟨0, 3, false⟩]] }
def copyRun (a : AOp) : State := { withObjs (at_ c0) [(1, obj0 1 0 10 4 6 0 6 [3])] [(3 * 65536 + 3, 0x40)] with aops := [a] }
def fill : AOp := copying (.tfill sg 0 false) []
theorem witness_copiesCommitSectorBySector :
    (let s := copyRun fill; let a := fill
      s.aops.find? (fun b => b.id == 5) = some a ∧ (∀ b ∈ s.aops, b.id = 5 → b = a) ∧ a.r.ins = .tfill sg 0 false ∧ a.failing = [] ∧
        a.r.desc.tk = 0 ∧ 8 ≤ a.r.desc.width ∧ s.copyStops a.r = false ∧ s.locate a.r.sp a.r.c a.r.tid = some (0, 0) ∧ (s.spire 0).waking = [] ∧ (∀ i, i ∈ a.done ↔ i < 0) ∧
        0 < a.plan.length ∧ s.l2Lines = [] ∧ ∃ l, s.cellVals 0 a (a.plan.getD 0 []) [] [] = .ok (l, []) ∧ ∀ p ∈ l, p.2.2 = false) ∧
    (let a := copying (.barArr sg 0) [(0, 7, 0, 0)]; let s := copyRun a
      s.aops = [a] ∧ a.id = 5 ∧ a.r.ins = .barArr sg 0 ∧ a.recv = [(0, 7, 0, 0)] ∧ a.failing = [] ∧ a.r.desc.tk = 0 ∧ s.locate 0 8 7 = some (0, 0) ∧
        Memory.wf (s.spire 0).mem.ts = true) ∧
    (let i := Instr.mmaH 1 sg 0 false 0; let m := { op0 with ins := i, num := 5, arrived := false }; let a := copying i []
      let s := { copyRun a with spires := [(0, { sp0 c0 with engine := [m] })] }
      (s.spire 0).engine = [m] ∧ m.arrived = false ∧ isDrainh m.ins = false ∧ s.aops.find? (fun b => b.id == m.num) = some a ∧
        ∃ l, s.cellVals 0 a a.r.desc.cells [] [] = .ok (l, [])) := by
  refine ⟨⟨rfl, by decide +kernel, rfl, rfl, by decide +kernel, by decide +kernel, by decide +kernel, by decide +kernel, rfl, fun i => by simp [fill, copying, Req.aop],
    by decide +kernel, rfl, _, rfl, by decide +kernel⟩, by decide +kernel, rfl, rfl, rfl, by decide +kernel, _, rfl⟩

/-- Object 1 with version 6 current and pinned, draft 8 closing as number 9; its publisher waits. -/
def closer : Obj := { obj0 1 0 10 4 6 8 6 [3] with closing := some 9, publisher := some (live (.objPub 1 (qs 1)) 0) }
def publishing (q : List Req) : State := { withObjs (at_ { c0 with drafts := [(hd 1, 8)], wait := some (.publish (hd 1)), st := .wait }) [(1, closer)] [] with
  towers := [(0, { Tower.reset with hru := { Hru.reset with otlog := 16, q := q } })] }
theorem witness_publishAdvancesTheVersion :
    (∀ q ∈ [[], [copyReq (.tst sg 0)]], let s := publishing q; s.here (hd 1) = some closer ∧ closer.closing = some 9) ∧
    (let s := publishing [copyReq (.tst sg 0)]; ∃ r ∈ s.draftWriters (hd 1), r.tag < 9) ∧ ({ closer with await := [2] } : Obj).await ≠ [] ∧
    (let s := publishing []; let o := closer
      (∀ q ∈ s.draftWriters (hd 1), 9 ≤ q.tag) ∧ (∀ m ∈ s.draftDrains (hd 1), 9 ≤ m) ∧ (o.await, o.joined, o.prims) = ([], [], []) ∧ s.following (hd 1) = false ∧ s.l2Lines = [] ∧ o.subs = [] ∧ o.w.length = 16 ∧ o.dver ≠ o.cver ∧
        o.publisher = some (live (.objPub 1 (qs 1)) 0) ∧ RunsAt s 0 0 7) := by
  unfold RunsAt; decide +kernel

/-- An `adrainh` of the engine whose draft, and place in it, are good; one with its copy under way, which still waits. -/
def drainReq : Req := { copyReq (.adrainh 3 sg true (qs 0)) with b := 0, words := (copyRec ++ [0, 0, 1, 8, 0, 4, 0, 0]).map fun n => BitVec.ofNat 64 n }
def drainRun (m : MOp) : State := { withObjs (withEngine [m]) [(1, obj0 1 0 10 4 6 8 8 [3])] [] with aops := [drainReq.aop 0 4 false 6 8] }
theorem witness_drainsToObjects : (let m := { opOf (.adrainh 3 sg true (qs 0)) with num := 5 }; let s := drainRun m
      s.aops.find? (fun a => a.id == m.num) = some (drainReq.aop 0 4 false 6 8) ∧ s.copyCheck (towerOf 0) drainReq drainReq.pinCap = .fine) ∧
    (let m := { opOf (.adrainh 3 sg true (qs 0)) with num := 5, left := some 2 }; let s := drainRun m
      (s.spire 0).engine = [m] ∧ m.left ≠ some 1 ∧ (∃ a ∈ s.aops, a.id = m.num)) := by decide +kernel

/-- Unit 0 runs from row 3 of the draft 8 of object 1, whose page is HBM frame 3. -/
def nbWords : List Entry := runRec.map fun n => BitVec.ofNat 64 n
def nbReq (eidx : Nat) : Req := ⟨.nbRun (qs 1), 0, 0, 7, 0, 0x30, 3, 0, hd 1, 0xFF80, eidx, nbWords, 5⟩
def nreq (eidx : Nat) : NReq := ⟨nbReq eidx, hd 1, 8, true, 3, [11, 12], 0, 7⟩
def units (u : Nbu) : State := { withObjs (at_ c0) [(1, obj0 1 0 10 64 6 8 8 [3])] [(3 * 65536 + 3 * 1024 + 3, 0x40)] with nbus := [(0, u)] }
def running : State := units { Nbu.reset with cur := some (nreq 1), rc := 3, p := [1, 2, 3, 4, 5, 6, 7, 8] }
theorem witness_microinstructionsSetLanes : Spec.Runs running (nreq 1) ∧ RowAt running (nreq 1) 0 (3 * 65536 + 3 * 1024) ∧
    RowAt running (nreq 1) (2 ^ 32 - 3) (3 * 65536) ∧ RowAt running (nreq 1) 60 (3 * 65536 + 63 * 1024) :=
  ⟨by unfold Spec.Runs; decide +kernel, ⟨3, 3, by decide +kernel⟩, ⟨0, 3, by decide +kernel⟩, 63, 3, by decide +kernel⟩

theorem witness_microinstructionsOfControl : Spec.Runs running (nreq 1) ∧ (nreq 1).draft = true ∧ RowAt running (nreq 1) 0 (3 * 65536 + 3 * 1024) ∧
    (let u := running.nbu running.nbuCur; u.lct + 1 < wordAt u.p 7 % 2 ^ 32 ∧ wordAt u.p 0 % 2 ^ 32 ≤ u.lct + 1) ∧
    running.locate (nreq 1).r.sp (nreq 1).r.c (nreq 1).r.tid = some (0, 0) ∧ bits (wordAt (nreq 1).r.words 2) 62 2 = 0 ∧
    (running.nbu running.nbuCur).queue = [] := ⟨by unfold Spec.Runs; decide +kernel, rfl, ⟨3, 3, by decide +kernel⟩, by decide +kernel⟩

theorem witness_nearBankRequestsStartAndSuspend :
    (let s := units { Nbu.reset with queue := [nreq 1, nreq 0] }; (s.nbu 0).cur = none ∧ (s.nbu 0).queue = nreq 1 :: [nreq 0] ∧ (nreq 1).r.eidx = 1 ∧
      s.earlierDraft (nreq 1).r.a (nreq 1).r.tid (nreq 1).r.tag = false ∧ s.l2Lines = [] ∧ s.nbHeld 0 = []) ∧
    (let s := units { Nbu.reset with queue := [nreq 0] }; (s.nbu 0).cur = none ∧ (s.nbu 0).queue = [nreq 0] ∧ (nreq 0).r.eidx = 0 ∧ s.nbHeld 0 = [] ∧
      s.locate 0 0 7 = some (0, 0) ∧ bits (wordAt (nreq 0).r.words 2) 62 2 = 0 ∧ 1 < (nreq 0).image.length) ∧
    (let s := { running with access := [(0, 4)] }; (s.nbu 0).cur = some (nreq 1) ∧ s.pendingPc 0 = some (0, 4) ∧ running.pendingPc 0 = none) := by
  decide +kernel

/-- `dr.maj`, row 0 of one: the draft 8 of object 1 in frame 3, its sources versions 6 of objects 2 to 4 in frames 4, 5, 6. -/
def rowReq (op : RowOp) : Req := { copyReq (.drOp sg true op) with
  a := 0xFF00, b := 0, words := [hd 1, 3, hd 2, 4, hd 3, 5, hd 4, 6, 1, 0, 0, 0, 0, 0, 0, 0] }
def row (k : List Byte) (step : Nat) : RowRun :=
  ⟨5, rowReq .maj, 0, [6, 6, 6], 8, 0, step, none, k, k.map (~~~ ·), k, [], 0, 0, 0, false, false, []⟩
def rowState (a : RowRun) (busy : List (Nat × Nat × Nat × Nat)) : State := { withObjs (at_ c0) [(1, obj0 1 0 10 64 6 8 8 [3]), (2, obj0 1 0 10 64 6 0 6 [4]),
  (3, obj0 1 0 10 64 6 0 6 [5]), (4, obj0 1 0 10 64 6 0 6 [6])] [] with rows := [a], rowBusy := busy }
theorem witness_rowsAreComputed :
    (let a := row [] 0; let s := rowState a [(0, 1, 6, 9)]
      s.rowRun 5 = some a ∧ a.id = 5 ∧ RowsHere s a (3 * 65536 + 3 * 1024) ∧ (rowFrames s a).1 = some 3 ∧
        (∀ g ∈ (rowFrames s a).2, ∃ x, g = some x ∧ x / 16 = 3 / 16) ∧ s.l2Lines = [] ∧ s.earlierDraft a.r.rowDst a.r.tid a.r.tag = false ∧ ∀ b ∈ s.rowBusy, b.2.2.1 ≠ 5 ∧ (b.1, b.2.1) ≠ (3 / 2 ^ 14 % 512, 3 / 1024 % 16)) ∧
    (let a := row [1, 2] 3; let s := rowState a [(0, 0, 5, 9)]
      s.rowRun 5 = some a ∧ s.rowBusy.find? (fun q => q.2.2.1 == 5) = some (0, 0, 5, 9) ∧ (0, 0) ∉ s.access ∧ s.nbuStepAt 0 = none ∧
        (rowSteps (rowOpOf a.r.ins))[a.step]? = some .triple ∧ a.k0[1]? = some 2 ∧ a.k1[1]? = some 0xFD ∧ a.k2[1]? = some 2) := by
  refine ⟨⟨by decide +kernel, rfl, ⟨by decide +kernel, by decide +kernel, ?_, fun p hp => ?_, rfl, by decide +kernel⟩, by decide +kernel, fun g hg => ?_,
    by decide +kernel⟩, by decide +kernel⟩
  · rfl
  · rcases (show p ∈ [(hd 2, 6, 4, Spot.mem (4 * 65536 + 4 * 1024)), (hd 3, 6, 5, .mem (5 * 65536 + 5 * 1024)), (hd 4, 6, 6, .mem (6 * 65536 + 6 * 1024))] from hp)
      with _ | ⟨_, _ | ⟨_, _ | ⟨_, h⟩⟩⟩
    · exact ⟨_, rfl⟩
    · exact ⟨_, rfl⟩
    · exact ⟨_, rfl⟩
    · exact nomatch h
  · rcases (show g ∈ [some 4, some 5, some 6] from hg) with _ | ⟨_, _ | ⟨_, _ | ⟨_, h⟩⟩⟩
    · exact ⟨_, rfl, rfl⟩
    · exact ⟨_, rfl, rfl⟩
    · exact ⟨_, rfl, rfl⟩
    · exact nomatch h

theorem witness_rowOperationsEndAndAccessesWait :
    (let a := row [] 0; let s := rowState a []
      s.rowRun 5 = some a ∧ s.quiet 5 = true ∧ s.locate a.r.sp a.r.c a.r.tid = some (0, 0) ∧ bits (wordAt a.r.words 9) 62 2 = 0) ∧
    (let s := { running with access := [(0, 4)] }; (0, 4) ∈ s.access ∧ (0, 5) ∉ s.access ∧ (s.nbu 0).cur ≠ none) ∧
    (let s := rowState (row [] 0) [(7, 1, 5, 9)]; (7, 1) ∉ s.access ∧ (∃ q ∈ s.rowBusy, (q.1, q.2.1) = (7, 1)) ∧
      (∀ q ∈ s.rowBusy, (q.1, q.2.1) ≠ (7, 2)) ∧ (s.nbu 7).cur = none) ∧
    (let s := { rowState (row [] 0) [(0, 4, 5, 9)] with access := [(0, 4)] }; s.rowRun 5 = some (row [] 0) ∧
      s.rowBusy.find? (fun q => q.2.2.1 == 5) = some (0, 4, 5, 9) ∧ (0, 4) ∈ s.access) := by decide +kernel

/-- A launch of one task: four pages, a tile and a latch, FTP 1, cost 5, two save slots in object 1; and its slot, all placed or not. -/
def lwords : List Entry := [0, hd 2, 0, 0, BitVec.ofNat 64 (5 * 2 ^ 32), 0, BitVec.ofNat 64 (1 + 4 * 2 ^ 8 + 2 ^ 24 + 2 ^ 32 + 2 * 2 ^ 40), hd 1] ++ List.replicate 24 0
def l1 : Launch := { l0 with words := lwords }
def slot1 (placed : Bool) (live : Nat) : Slot := ⟨l1, 0, 0, live, placed, false, [], [], 0⟩
def withArb (a : Arbiter) : State := { at_ c0 with towers := [(0, { Tower.reset with arb := a })] }
theorem witness_launchesMoveToSlots :
    (let s := withArb { Arbiter.reset with pend := [l1] };
      (s.arb 0).pend[0]? = some l1 ∧ l1.trans = false ∧ l1.bor = false ∧ l1.fmt = false ∧ l1.pkgWide = false ∧ s.depHolds true l1.words l1.depC l1.depIx l1.depTgt = true ∧
        s.depPoisoned l1.words = false ∧ ((s.arb 0).queue l1.pri).length < 256 ∧ NextDue s 0 0 l1) ∧
    (let s := withArb { Arbiter.reset with queues := [(2, [l1, l0])], slots := [(0, some slot0)] };
      2 < 8 ∧ (s.arb 0).queue 2 = l1 :: [l0] ∧ (∀ q, 2 < q → q < 8 → (s.arb 0).queue q = []) ∧ 1 < 64 ∧ Tab.get (s.arb 0).slots 1 none = none ∧
        (∀ j, j < 1 → Tab.get (s.arb 0).slots j none ≠ none) ∧ s.outOfRange l1.words = false) ∧
    (let s := withArb { Arbiter.reset with copies := [l1] }; (s.arb 0).copies = l1 :: [] ∧ ((s.arb 0).queue l1.pri).length < 256) ∧
    (∀ p ∈ [(true, 0), (true, 1), (false, 0)], (withArb { Arbiter.reset with slots := [(3, some (slot1 p.1 p.2))] }).slot 0 3 = some (slot1 p.1 p.2)) ∧
    (let l := { l1 with trans := true }; let s := withArb { Arbiter.reset with pend := [l] };
      (s.arb 0).pend = [l] ∧ l.trans = true ∧ 0x20 % 16 = 0 ∧ 0x20 < 0x100 ∧ s.cfg.fuses.svn ≤ 0) ∧
    (let l := { l1 with trans := true, words := lwords.set 3 (hd 3), wgt := 8 }; let s := withArb { Arbiter.reset with pend := [l] };
      (s.arb 0).pend = [l] ∧ l.trans = true ∧ l.closure ≠ 0 ∧ l.wgt ≠ 0) := by
  refine ⟨⟨by decide +kernel, by decide +kernel, by decide +kernel, by decide +kernel, by decide +kernel, by decide +kernel, by decide +kernel,
      by decide +kernel, fun j x h hj => ?_⟩, ⟨by decide, rfl, fun q h1 h2 => ?_, by decide, rfl, fun j hj => ?_, by decide +kernel⟩, by decide +kernel⟩
  · cases j with
    | zero => exact absurd rfl hj
    | succ j => exact absurd h nofun
  · exact if_neg (by omega)
  · obtain rfl : j = 0 := by omega
    exact nofun

def placing (x : Slot) : State := withArb { Arbiter.reset with slots := [(3, some x)] }
theorem witness_gangsArePlacedWhole :
    (let x := slot1 false 0; let s := placing x; let d := min (x.deficit + 65536) (max (2 ^ 20) (gangCost 0 x.l))
      s.slot 0 3 = some x ∧ x.placedAll = false ∧ hasSeq x.l.words = false ∧ gangCost 0 x.l = 5 ∧ gangCost 0 x.l ≤ d ∧ s.outranked 0 x.l = false ∧ s.restores 0 x.l = false ∧
        (∃ h r own, s.holders 0 x.l.words = h :: r ∧ s.gangOf 0 x.l h = some [(0, own, none)] ∧ 0 ∈ own) ∧ towerOf 0 = 0 ∧ s.takes 0 1 = true ∧ (∃ b, s.room 0 x.l = some b) ∧
        s.cfg.fuses.svn ≤ x.l.tsvn) ∧
    (let x := { slot1 false 0 with l := { l1 with words := lwords.set 4 (BitVec.ofNat 64 (2 ^ 17 * 2 ^ 32)) } }; let s := placing x;
      s.slot 0 3 = some x ∧ hasSeq x.l.words = false ∧ min (x.deficit + 65536) (max (2 ^ 20) (gangCost 0 x.l)) < gangCost 0 x.l) := by
  refine ⟨⟨rfl, rfl, by decide +kernel, by decide +kernel, by decide +kernel, by decide +kernel, by decide +kernel, ⟨_, _, _, rfl, rfl, by decide +kernel⟩, rfl, by decide +kernel,
    ⟨_, rfl⟩, by decide +kernel⟩, by decide +kernel⟩

/-- A descriptor of the launch in slot 3 of tower 0, of this reach, in the deque of this spire. -/
def desc (sreach : Nat) : Desc := ⟨6, 0x20, 0, sreach, false, 0, 3, 0, [1, 0, 0, 0, 0, 0, 0, 0], [9, 8], 0, 0⟩
def queued (sp : Nat) (d : Desc) : State := { placing (slot1 true 1) with spires := [(sp, { Spire.reset with deque := [d] })] }
/-- The same, the thief of spire 0 at its k-th victim, on which its attempt has taken n sc. -/
def preyed (sp k n : Nat) (d : Desc) : State := { queued sp d with
  spires := [(0, { Spire.reset with victim := k, pause := n }), (sp, { Spire.reset with deque := [d] })] }
def fitsB (s : State) (sp c : Nat) (d : Desc) : Bool :=
  s.takes sp c && s.launchOf d.ltwr d.lslot == some l1 && (s.room sp l1).isSome && decide (s.cfg.fuses.svn ≤ l1.tsvn) && !d.pois
theorem fits_of (s : State) (sp c : Nat) (d : Desc) (h : fitsB s sp c d = true) : ∃ b, Fits s sp c d l1 b := by
  simp only [fitsB, Bool.and_eq_true, beq_iff_eq, Option.isSome_iff_exists, decide_eq_true_eq, Bool.not_eq_true'] at h
  obtain ⟨⟨⟨⟨h1, h2⟩, b, h3⟩, h4⟩, h5⟩ := h
  exact ⟨b, h1, h2, h3, h4, h5⟩
theorem witness_freeContextsTakeDescriptors :
    (let s := queued 0 (desc 0); (s.spire 0).deque = desc 0 :: [] ∧ ∃ b, Fits s 0 0 (desc 0) l1 b) ∧
    (let s := preyed 1 0 8 (desc 1); s.thief 0 = true ∧ stealTime (s.spire 0).victim ≤ (s.spire 0).pause ∧ (victims 0)[(s.spire 0).victim]? = some 1 ∧ s.enabled 1 = true ∧
      (s.spire 1).deque.getLast? = some (desc 1) ∧ (∃ b, Fits s 0 0 (desc 1) l1 b) ∧ 1 / 8 = 0 / 8 ∧ (desc 1).sreach = 1) ∧
    (let s := preyed 9 8 24 (desc 2); s.thief 0 = true ∧ stealTime (s.spire 0).victim ≤ (s.spire 0).pause ∧ s.enabled 9 = true ∧ (victims 0)[(s.spire 0).victim]? = some 9 ∧ (s.spire 9).deque.getLast? = some (desc 2) ∧ (∃ b, Fits s 0 0 (desc 2) l1 b) ∧
      9 / 8 ≠ 0 / 8 ∧ (desc 2).sreach = 2) ∧
    ((atSp { sp0 c0 with restart := some 0 }).spire 0).restart = some 0 ∧
    (let s := withArb { Arbiter.reset with holding := [⟨0, desc 0⟩], upstream := [⟨0, desc 1⟩] }
     (s.arb 0).holding = ⟨0, desc 0⟩ :: [] ∧ s.hasRoom 0 = true) :=
  ⟨⟨rfl, fits_of _ _ _ _ (by decide +kernel)⟩, ⟨by decide +kernel, by decide, rfl, by decide +kernel, rfl, fits_of _ _ _ _ (by decide +kernel), rfl, rfl⟩,
    ⟨by decide +kernel, by decide, by decide +kernel, rfl, rfl, fits_of _ _ _ _ (by decide +kernel), by decide, rfl⟩, rfl, by decide +kernel⟩

/-- Object 3 is a closure, its element in HBM frame 4: ISSUED 100, RETURNED 40, BORROWS 0, OPEN, W0 8. -/
def cloObj : Obj := obj0 2 3 3 1 0 0 0 [4]
def cloMem : List Host.Cell := [(4 * 65536, 100), (4 * 65536 + 8, 40), (4 * 65536 + 24, 8), (4 * 65536 + 31, 0x40)]
def owing (x : Ctx) : State := withObjs (at_ x) [(3, cloObj)] cloMem
theorem liveOf_of (s : State) (h : Entry) (k : Nat) (o : Obj) (h1 : hpkg h = s.cfg.pkn) (h2 : (s.hru 0).otb = 0)
    (h3 : (s.objs.find? fun p => p.1 == honum h).map (·.2) = some o) (h4 : o.live ∧ o.lkind = k ∧ o.gen = hgchk h) : s.liveOf h k = some o := by
  have h5 : s.otBase = 0 := by unfold State.otBase; rw [h2]
  simp [State.liveOf, State.obj, h1, h5, h3, h4]
theorem cloAt_of (s : State) (h1 : s.liveOf (hd 3) 3 = some cloObj) (h2 : s.poison = [] ∧ Memory.wf s.mem = true) : CloAt s (hd 3) cloObj (4 * 65536) :=
  ⟨h1, rfl, h2⟩
def borrower (x : Ctx) (l : List (Nat × Nat)) : State := { owing x with borrows := l }
def relTab : RelTab := ⟨0, 3, [(2, 0, desc 0)]⟩
theorem witness_weightReturnsAndBorrows :
    (∀ w ∈ [20, 60], let s := { owing c0 with wret := [(hd 3, w)] }
      s.wret = (hd 3, w) :: [] ∧ hpkg (hd 3) = s.cfg.pkn ∧ (s.clo cloObj).st = 1 ∧ (s.clo cloObj).returned + w < 2 ^ 64) ∧
    (∀ l, CloAt { owing c0 with wret := l } (hd 3) cloObj (4 * 65536)) ∧
    (let s := owing { c0 with sys := { SysRegs.reset with cls := hd 3, wgt := 1 }, split := some ⟨0, false, false⟩ }; let x := s.ctx 0 0
      x.split = some ⟨0, false, false⟩ ∧ hpkg x.sys.cls = s.cfg.pkn ∧ x.sys.cls = hd 3 ∧ CloAt s (hd 3) cloObj (4 * 65536) ∧ x.sys.wgt + 8 < 2 ^ 32 ∧
        max (s.clo cloObj).w0 (max (x.sys.wgt / 2 + 1 - x.sys.wgt) (2 - x.sys.wgt)) = 8 ∧ (s.clo cloObj).issued + 8 < 2 ^ 64 ∧
        (s.clo cloObj).borrows + 1 < 2 ^ 64) ∧
    (∀ n ∈ [0, 8], let s := borrower { c0 with split := some ⟨0, false, false⟩ } [(7, n)]; s.borrows = (7, n) :: [] ∧
      (s.ctx 0 0).split = some ⟨0, false, false⟩) ∧ (∀ n, RunsAt (borrower { c0 with split := some ⟨0, false, false⟩ } [(7, n)]) 0 0 7) ∧
    (let s := atSp { sp0 c0 with racc := [⟨hd 3, 9, 1024⟩] }
     (s.spire 0).racc[0]? = some ⟨hd 3, 9, 1024⟩ ∧ hd 3 ≠ 0 ∧ 9 ≠ 0 ∧ (s.spire 0).holds (hd 3) = false) ∧
    (let s := { at_ c0 with relq := [⟨5, 0, 2, 0, 9, false⟩], relTabs := [(0, relTab)] }
     s.relq = ⟨5, 0, 2, 0, 9, false⟩ :: [] ∧ s.relTabs.find? (fun q => q.1 == 0) = some (0, relTab) ∧ relTab.entries = [(2, 0, desc 0)] ∧ (desc 0).cver ≠ 0 ∧
        s.hasRoom 0 = true ∧ ∀ h ∈ (s.arb 0).holding, h.sp ≠ 0) := by
  refine ⟨by decide +kernel, fun l => cloAt_of _ (liveOf_of _ _ _ _ rfl rfl rfl (by decide +kernel)) ⟨rfl, ?_⟩, ⟨rfl, by decide +kernel, rfl, cloAt_of _ (by decide +kernel) ⟨rfl, ?_⟩, by decide +kernel⟩, by decide +kernel,
    fun n => ⟨nofun, rfl⟩, by decide +kernel⟩
  · exact (show Memory.wf cloMem = true by decide +kernel)
  · exact (show Memory.wf cloMem = true by decide +kernel)

/-- The task of context 0 has the resources of the launch in slot 3; object 1 is the save area, eight pages in HBM frames 3 to 10. -/
def saver (st : CState) : Ctx := { c0 with
  st := st, res := { c0.res with tsp := 4, accN := 1, latN := 1, ltwr := 0, lslot := 3, tid := 7 } }
def area : Obj := obj0 2 0 3 65536 0 0 0 [3, 4, 5, 6, 7, 8, 9, 10]
def saves (x : Ctx) (y : Slot) (m : List Host.Cell) : State := { at_ x with
  objs := [(1, area)], mem := m, towers := [(0, { Tower.reset with arb := { Arbiter.reset with slots := [(3, some y)] } })] }
/-- The header of a valid image in save slot 0 of a launch with these resources, from a spire of this number and package. -/
def imgMem (pkn : Nat) : List Host.Cell := [(3 * 65536, 1), (3 * 65536 + 2, 1), (3 * 65536 + 4, 0x31), (3 * 65536 + 5, 0x45), (3 * 65536 + 6, 0x56),
  (3 * 65536 + 7, 0x53)] ++ (if pkn = 0 then [] else [(3 * 65536 + 23, BitVec.ofNat 8 pkn)]) ++
  [(3 * 65536 + 34, 1), (3 * 65536 + 35, 1), (3 * 65536 + 36, 4)]
def img : SaveImg := ⟨true, false, [], { saver .ready with inflight := [] }, SpireMem.reset⟩
def slotImg : Slot := { slot1 true 1 with imgs := [(0, img)] }
theorem save_addr (x : Ctx) (y : Slot) (m : List Host.Cell) (a b : Nat) (h : (saves x y m).saveAddr l1 a = some b) : b = a + 3 * 65536 := by
  have e : (saves x y m).liveOf (l1.words.getD 7 0) 0 = some area := 
    liveOf_of _ _ _ _ rfl rfl rfl (by decide +kernel)
  have hb : area.bytes = 524288 := by decide +kernel
  have hp : ∀ p < 8, peST (area.page 0 p) = 1 ∧ peIL (area.page 0 p) = false ∧ peFRAME (area.page 0 p) = p + 3 := by decide +kernel
  simp only [State.saveAddr, e, hb] at h
  split at h
  · cases h
  · obtain ⟨h1, h2, h3⟩ := hp (a / 65536) (by omega)
    simp only [Obj.locate, locEntry, h1, h2, h3, frameAddr, hbmAddr] at h
    obtain rfl := Option.some.inj h
    simp only [Bool.false_eq_true, if_false]
    omega
theorem area_here (x : Ctx) (y : Slot) (m : List Host.Cell) (h1 : (saves x y m).slotFault l1 0 = none) (h2 : Memory.wf m = true) :
    AreaHere (saves x y m) l1 0 :=
  ⟨h1, fun a b k h h' => by have := save_addr _ _ _ _ _ h; have := save_addr _ _ _ _ _ h'; omega, h2⟩
theorem witness_tasksAreSavedAndRestored :
    (let s := saves (saver .ready) (slot1 true 1) []; s.preemptible (s.ctx 0 0) = true) ∧
    (let s := saves (saver .halt) (slot1 true 1) []; s.preemptible (s.ctx 0 0) = false) ∧
    (let y := slot1 true 1; let s := saves (saver .saving) y []; let x := s.ctx 0 0
      (x.st = .saving ∧ s.saveReady 0 0 = true ∧ s.slot x.res.ltwr x.res.lslot = some y ∧ 0 < recSaven y.l.words ∧ Tab.has y.imgs 0 = false ∧
        x.res.tsp = recTsp y.l.words ∧ x.res.accN = recAcc y.l.words ∧ x.res.latN = recLat y.l.words) ∧
      (∀ k, k < 0 → Tab.has y.imgs k = true) ∧ AreaHere s y.l 0 ∧ Listed (s.spire 0).mem) ∧
    (∀ l ∈ [[], [op0]], let s := { saves (saver .saving) (slot1 true 1) [] with spires := [(0, { sp0 (saver .saving) with engine := l })] }
      s.saveReady 0 0 = l.isEmpty) ∧
    (∀ m ∈ [imgMem 0, imgMem 1, []], let y := slotImg; let s := saves Ctx.reset y m
      s.slot 0 3 = some y ∧ y.imgs.find? (fun p => p.1 == 0) = some (0, img) ∧ img.stopped = false ∧ s.takes 0 0 = true ∧ 0 ∉ img.tried) ∧
    (let y := slotImg; let s := saves Ctx.reset y (imgMem 0)
      (s.headerOk y.l 0 = true ∧ s.mismatch y.l 0 0 = 0 ∧ (s.room 0 y.l).isSome = true ∧ img.ctx.res.tsp = recTsp y.l.words ∧
        img.ctx.res.accN = recAcc y.l.words ∧ img.ctx.res.latN = recLat y.l.words) ∧ FromZero img ∧ AreaHere s y.l 0) ∧
    (saves Ctx.reset slotImg []).headerOk l1 0 = false ∧
    (let s := saves Ctx.reset slotImg (imgMem 1); s.headerOk l1 0 = true ∧ s.mismatch l1 0 0 ≠ 0) := by
  refine ⟨by decide +kernel, by decide +kernel, ⟨by decide +kernel, by omega, area_here _ _ _ (by decide +kernel) rfl, by unfold Listed; decide +kernel⟩,
    by decide +kernel, by decide +kernel, ⟨by decide +kernel, rfl, area_here _ _ _ (by decide +kernel) (by decide +kernel)⟩, by decide +kernel, by decide +kernel⟩

/-- A context that a keep core may command, in a state; a trap record of its task that is not yet acknowledged. -/
def commanded (st : CState) : State := saves (saver st) (slot1 true 1) []
def pended : State := { at_ { c0 with st := .frozen } with spires := [(0, { sp0 { c0 with st := .frozen } with held := [⟨16, 0, 0, false, false, true, 0, false, 0, 0,
  false, 0, 0, 0, 0, 0, 0, 3, 0, 0, 0, 0, 0, 0, [], 7⟩] })] }
theorem witness_contextCommands :
    (∀ st ∈ [CState.ready, .wait, .stall, .frozen, .halt], let s := commanded st; May s 0 0 0 ∧ (s.ctx 0 0).st = st ∧ s.pend (s.ctx 0 0).res.tid = 0 ∧
      s.freeSave (s.ctx 0 0) ≠ none ∧ (s.ctx 0 0).depth = 0 ∧ (s.ctx 0 0).sys.opv = false) ∧
    (let s := { commanded .ready with cfg := { Machine.Config.reset with grants := [(0, 4)] } }; May s 1 0 0) ∧
    (May pended 0 0 0 ∧ (pended.ctx 0 0).st = .frozen ∧ pended.pend (pended.ctx 0 0).res.tid ≠ 0) ∧
    (let s := at_ { c0 with st := .frozen }; May s 0 0 0 ∧ s.freeSave (s.ctx 0 0) = none) := by unfold May; decide +kernel

def stopped : Slot := { slot1 true 1 with imgs := [(0, { img with stopped := true })] }
def trapQ (head : Nat) (tqlog : Nat) : State := { at_ c0 with towers := [(0, { Tower.reset with tq := { TrapQ.reset with head := head, tail := 5, tqlog := tqlog } })] }
theorem witness_slotCommandsAndTrapQueueRegisters :
    (let s := saves c0 stopped (imgMem 0); s.slot 0 3 = some stopped ∧ stopped.imgs = [(0, { img with stopped := true })] ∧ 0 < recSaven l1.words ∧
      s.headWord l1 0 0 / 2 ^ 16 = 0x535645310001) ∧
    (let y := { stopped with imgs := [(2, img)] }; (saves c0 y (imgMem 0)).slot 0 3 = some y ∧ recSaven y.l.words ≤ 2) ∧
    (∀ h ∈ [3, 4, 5, 6, 15, 2], let v : Entry := BitVec.ofNat 64 h; v.toNat / 2 ^ 48 = 0 ∧ bits v.toNat 16 16 = 0 ∧ bits v.toNat 0 16 < 2 ^ 4) ∧
    (let q := ((trapQ 3 4).tower 0).tq;
      (5 + 2 ^ q.tqlog - q.head) % 2 ^ q.tqlog ≤ (q.tail + 2 ^ q.tqlog - q.head) % 2 ^ q.tqlog ∧
      ¬(2 + 2 ^ q.tqlog - q.head) % 2 ^ q.tqlog ≤ (q.tail + 2 ^ q.tqlog - q.head) % 2 ^ q.tqlog ∧ q.head ≠ q.tail) ∧
    (let s := trapQ 5 4; let v : Entry := 0x5004; v.toNat / 2 ^ 48 = 0 ∧ bits v.toNat 5 7 = 0 ∧ (s.tower 0).tq.head = (s.tower 0).tq.tail ∧ (s.hru 0).held = []) ∧
    ∀ n, towerOf n = 0 → ((trapQ 5 4).spire n).held = [] := by
  refine ⟨by decide +kernel, by decide +kernel, by decide +kernel, by decide +kernel, by decide +kernel, fun n _ => ?_⟩
  show (Tab.get [(0, sp0 c0)] n Spire.reset).held = []
  unfold Tab.get
  split <;> rfl

/-- A flit from package 1 that lane 8 receives, first of its path: an item's answer, or the first commit of its stream. -/
def fl (kind opc segn sseq off : Nat) (data : List Byte) : Flit :=
  ⟨⟨1, 0, 1, 0, kind, false, false, 0, 0, 0, 0, 0, data.length⟩, ⟨hd 1, 6, 3, opc, 0, segn, 5, off, sseq⟩, data, 8, true, 2⟩
def item5 (op : Option Nat) : Item := ⟨[fl 1 0 1 0 0 []], 1, 5, 0, 0, 0, 1, op, none, 4, []⟩
def listening (items : List Item) : State := { copyRun (copying (.tld sg 0) []) with
  cfg := { Machine.Config.reset with pres := [true, true] }, fab := { Fabric.reset with items := items, master := 1, aligned := true, ns := 1000 } }
def farFlit : Flit := { fl 1 0 1 0 0 [] with h := { (fl 1 0 1 0 0 []).h with edst := 2, rly := true } }
def receptions : List Flit := [fl 0 0 1 0 0 [], fl 1 0 1 0 0 [], fl 3 0 1 1 0 [1, 2, 3, 4], fl 9 0 1 1 0 [7], fl 0xA 1 1 0 0 (List.replicate 24 0),
  fl 8 0 1 1 0 (List.replicate 48 0)]
theorem arrivals_ok : ∀ i ∈ [[], [item5 none], [item5 (some 5)]], ∀ f ∈ receptions, let s := listening i
    (s.lane f.lane).wfc + 1 < 2 ^ 24 ∧ (f.tagOk = true ∧ (s.peer f.h.hsrc).oldKey = false ∧ f.h.kp = ((s.peer f.h.hsrc).epoch % 2 == 1)) ∧
    (s.peer f.h.hsrc).unreachable = false ∧ (f.h.rsv = 0 ∧ f.h.edst = s.cfg.pkn) ∧ s.fab.reorder = [] ∧ s.nextPseq (flitPath f) = f.h.pseq := by decide +kernel
theorem witness_arrives : ∀ i ∈ [[], [item5 none], [item5 (some 5)]], ∀ f ∈ receptions, Arrives (listening i) f := fun i hi f hf =>
  have h := arrivals_ok i hi f hf; ⟨h.1, h.2.1, h.2.2.1, h.2.2.2.1, h.2.2.2.2⟩
theorem witness_flitsReachTheirConsumers :
    (let s := listening []; let f := fl 3 0 1 1 0 [1, 2, 3, 4]; FirstOfStream s f ∧ s.collOver (partOf f.h.esrc f.x.off [f.data]).memb (partOf f.h.esrc f.x.off [f.data]).ix = false) ∧
    (let f := fl 0xA 1 1 0 0 (List.replicate 24 0); f.x.sseq = 0 ∧ f.x.opc = 1 ∧ f.data.length = 24 ∧ bytesWords 3 f.data = [0, 0, 0]) ∧
    (let s := listening [item5 (some 5)]; let f := fl 2 0 1 0 0 [1, 2, 3, 4]; let i := item5 (some 5)
      itemOf s f.h.esrc f.x.rtag = some i ∧ i.op = some 5 ∧ i.got = [] ∧ f.x.opc ≠ 7 ∧ f.x.segi = 0 ∧ f.x.segn = 1 ∧
        s.aops.find? (fun a => a.id == 5) = some (copying (.tld sg 0) [])) ∧
    (let s := listening [item5 none]; let f := fl 5 0 1 0 0 []; let i := item5 none; itemOf s f.h.esrc f.x.rtag = some i ∧ i.op = none ∧ f.x.opc ≠ 7) ∧
    (let s := listening []; (fl 9 0 1 0 0 []).h.esrc = s.fab.master ∧ s.fab.aligned = true) ∧
    (let s := listening []; (s.lane 8).wfc + 1 < 2 ^ 24 ∧ farFlit.h.edst ≠ s.cfg.pkn ∧ farFlit.h.rsv = 0 ∧ farFlit.h.kind ≤ 0xB ∧ s.tagPasses farFlit = true) ∧
    (let s := { listening [] with fab := { (listening []).fab with lanes := [(8, { Lane.reset with lst := 0, tagf := 5, tagf0 := 2 })] } };
      (s.lane 8).tagf ≠ (s.lane 8).tagf0) := by
  refine ⟨⟨⟨rfl, rfl, rfl, nofun⟩, by decide +kernel⟩, by decide +kernel⟩

/-- The time master itself receives a TIME flit that asks it. -/
def mastering : State := { listening [] with fab := { (listening []).fab with master := 0 } }
theorem witness_timeMasterAnswers : Arrives mastering (fl 9 0 1 1 0 [7]) ∧ mastering.fab.master = mastering.cfg.pkn ∧ (fl 9 0 1 1 0 [7]).x.opc ≠ 7 := by
  have h : let s := mastering; let f := fl 9 0 1 1 0 [7]
      (s.lane f.lane).wfc + 1 < 2 ^ 24 ∧ (f.tagOk = true ∧ (s.peer f.h.hsrc).oldKey = false ∧ f.h.kp = ((s.peer f.h.hsrc).epoch % 2 == 1)) ∧
      (s.peer f.h.hsrc).unreachable = false ∧ (f.h.rsv = 0 ∧ f.h.edst = s.cfg.pkn) ∧ s.fab.reorder = [] ∧ s.nextPseq (flitPath f) = f.h.pseq := by decide +kernel
  exact ⟨⟨h.1, h.2.1, h.2.2.1, h.2.2.2.1, h.2.2.2.2⟩, rfl, by decide⟩

/-- A lane in this state; an item whose flit left on lane 8 toward package 1. -/
def sentItem : Item := { item5 none with flits := [⟨⟨0, 1, 0, 1, 1, false, false, 0, 0, 0, 0, 0, 0⟩, ⟨hd 1, 6, 3, 0, 0, 1, 5, 0, 0⟩, [], 8, true, 0⟩] }
def laneState (l : Lane) (ns : Nat) : State := { at_ c0 with
  cfg := { Machine.Config.reset with pres := [true, true] }, fab := { Fabric.reset with lanes := [(8, l)], items := [sentItem], ns := ns, aligned := true, dark := false } }
theorem witness_lanesLeaveAndReturnToService :
    (let s := laneState { Lane.reset with lst := 0, wfc := 2 ^ 24, bec := 40000 } 5; 2 ^ 24 ≤ (s.lane 8).wfc ∧ (s.lane 8).rte = true ∧ (s.lane 8).lst = 0 ∧
      (s.lane 8).thr < (s.lane 8).bec) ∧
    (let s := laneState { Lane.reset with lst := 0, wantTrain := true } 5; (s.lane 8).wantTrain = true ∧ (s.lane 8).ldis = false ∧
      ∀ i ∈ s.fab.items, ∀ f ∈ i.flits, f.lane = 8 ∧ f.h.hdst ≠ s.cfg.pkn) ∧
    (let s := laneState { Lane.reset with lst := 0 } 5; (s.lane 8).lst = 0 ∧ s.facedBy 8 s.slotNow = 1) ∧
    (∀ p ∈ [none, some 1], let s := laneState { Lane.reset with lst := 1, outSince := some 2, facing := p } 4096; (s.lane 8).lst = 1 ∧ s.flitTime = 0 ∧
      (s.lane 8).facing = p ∧ (s.lane 8).outSince = some 2) ∧
    (let s := laneState { Lane.reset with lst := 1, outSince := some 2 } 300000; (s.lane 8).lst = 1 ∧ (s.lane 8).facing = none ∧ (s.lane 8).outSince = some 2 ∧
      2 + 64 * 4096 ≤ s.fab.ns) ∧
    (∀ v ∈ [(2 ^ 62 + 100 : Nat), 2 ^ 63], bits (BitVec.ofNat 64 v).toNat 32 30 = 0) ∧ bits (3 * 2 ^ 32 : Entry).toNat 24 8 = 0 ∧
    bits (2 ^ 24 : Entry).toNat 24 8 ≠ 0 := by decide +kernel

def outFlit : Flit := { sentItem.flits.headD farFlit with h := { (sentItem.flits.headD farFlit).h with rly := false } }
def sender (q : List Flit) (items : List Item) (p : Peer) : State := { laneState { Lane.reset with lst := 0 } 40960 with
  fab := { (laneState { Lane.reset with lst := 0 } 40960).fab with outq := q, items := items, peers := [(1, p)] } }
theorem faces_ok (q : List Flit) (h : q = [] ∨ q = [outFlit]) : Faces (sender q [] Peer.reset) 1 8 := by
  rcases h with rfl | rfl <;> exact ⟨by decide +kernel, by decide +kernel, by decide +kernel, fun _ => rfl⟩
def collReq : Req := { copyReq (.coll sg) with words := collRec.map fun n => BitVec.ofNat 64 n }
def collPart : CollPart := ⟨2 ^ 224 + 1, 0, 224, 0, 3, 256, 1, 0, collReq.cDigest, 0, [1, 0, 0, 0]⟩
def collGo (phase : Nat) : CollRun := ⟨5, collReq, 0, 0, 0, 2 ^ 224 + 1, 0, phase, 0, 6, 8, [], [⟨0, 3, 0, [224], [(256, [2, 0, 0, 0])], 0, some 0⟩], 0⟩
theorem witness_flitsAreSentAndResent :
    ((∀ ns ∈ [512, 4096 * 5], let s := laneState Lane.reset ns
      s.fab.aligned = true ∧ s.cfg.thermal = false ∧ (max s.fab.slotAt (s.fab.ns / 512) % 8 = 0 ↔ ns = 4096 * 5)) ∧
    (let s := sender [outFlit] [] Peer.reset; s.fab.outq = [outFlit] ∧ outFlit.h.hdst = 1 ∧ outFlit.h.edst = 1 ∧ outFlit.h.rly = false ∧ s.mayGo outFlit = true ∧ s.onPath 1 1 < 2 ^ 15) ∧
    (sender [] [] Peer.reset).fab.outq = [] ∧
    (∀ n ∈ [1, 32], let i := { sentItem with sends := n }; let s := sender [] [i] Peer.reset; i.rtag < 2 ^ 16 ∧ itemOf s 1 i.rtag = some i ∧ s.unreachable 1 = false ∧
      i.sentNs + 8 * 4096 ≤ s.fab.ns ∧ (s.peer 1).heard = none ∧ i.op = none ∧ i.req = none ∧ ∀ j ∈ s.fab.items, j.peer = 1 → j = i) ∧
    (let p := { Peer.reset with oldKey := true, epochNs := 5, unreachable := true }; let s := sender [] [] p
     (s.peer 1).oldKey = true ∧ (s.peer 1).epochNs + 4096 ≤ s.fab.ns ∧ (s.peer 1).unreachable = true)) ∧
    (let s := { sender [] [] Peer.reset with fab := { Fabric.reset with aligned := true, ns := 2 ^ 24 } }; s.fab.aligned = true ∧ s.fab.timeSeen + 4096 * 4096 ≤ s.fab.ns) ∧
    (at_ c0).fab.aligned = false ∧
    (let s := { laneState Lane.reset 5 with colls := [collGo 1], collIn := [collPart] }; let a := collGo 1; let g : CollSeg := ⟨0, 3, 0, [224], [(256, [2, 0, 0, 0])], 0, some 0⟩
     s.collRun 5 = some a ∧ a.phase = 1 ∧ (∀ p ∈ s.collIn, p.memb = a.memb → p.ix = a.ix → p.digest = a.r.cDigest ∧ p.step ≠ 7) ∧ a.segs = [g] ∧ g.step = 3 ∧ s.collPending a = false ∧
        (∀ q ∈ collDests a.memb 3 s.cfg.pkn, q ∈ g.sent) ∧ collNeeds a.memb 3 s.cfg.pkn = [224] ∧ s.received a g.seg 3 224 ≠ none) ∧
    (let s := { laneState Lane.reset 5 with colls := [collGo 4] }; let a := collGo 4
     s.collRun 5 = some a ∧ 2 ≤ a.phase ∧ a.phase ≠ 2 ∧ a.phase ≠ 3 ∧ a.rels = 0 ∧ a.r.cTk = 0) := by decide +kernel

/-- HRU 0 with a table slice of 2^16 entries, keep cores granted spaces 1 to 4, object 1 versioned with draft 8. -/
def keeping : State := { withObjs (at_ c0) [(1, obj0 1 0 10 64 6 8 8 [3])] [] with cfg := { Machine.Config.reset with grants := [(1, 4)] } }
def rec1 (osid : Nat) : List Entry := [BitVec.ofNat 64 (5 * 2 ^ 40), 0, 0, 0, 0, 0, 0, 0, 0, BitVec.ofNat 64 (osid * 2 ^ 48), 0, 0, 0, 0, 0, 0]
/-- The same, another package present, a PMU command in the ring's first entry, and TAIL and the trap queue of tower 0 as given. -/
def ringing (tail : Nat) : State := { withObjs (at_ c0) [(1, obj0 1 0 10 64 6 8 8 [3])] [(0, 2)] with
  cfg := { Machine.Config.reset with grants := [(1, 4)], pres := [true, true] }
  towers := [(0, { Tower.reset with hru := { Hru.reset with otlog := 16, tail := tail } })] }
def gating (x : Spire) : State := { atSp x with towers := [(0, { Tower.reset with l2gated := [(0, 1, 5)] })] }
def crowdedL2 : State := { at_ c0 with towers := [(0, { Tower.reset with l2gated := (List.range 12).map fun k => (0, 1, k) })] }
theorem last_entry : LastEntry keeping 0 ∧ LastEntry (ringing 1) 0 ∧ LastEntry (ringing 0) 0 := by unfold LastEntry; decide +kernel
theorem witness_hruCommandsAndRegisterWrites :
    (let s := keeping; 16 ≤ (s.hru 0).otlog ∧ (s.hru 0).otlog ≤ 26 ∧ 0 < 9 ∧ 9 < 2 ^ (s.hru 0).otlog ∧ bits (wordAt (rec1 2) 9) 48 16 = 2 ∧ s.granted 2 = true ∧
      s.obj 9 = none ∧ s.granted 9 = false ∧ ∃ o, s.obj 1 = some o ∧ s.granted o.osid = true ∧ o.cls ≠ 0 ∧ o.gen = bits (wordAt (rec1 2) 0) 40 24) ∧
    (∃ o, keeping.here (hd 1) = some o ∧ o.live = false ∧ keeping.granted o.osid = true ∧ 0 < o.pages ∧ o.dver ≠ 0 ∧ (6 = o.dver ∨ o.holds 6 = true) ∧
      pageEntryOk (BitVec.ofNat 64 (2 ^ 61 + 7)) = true ∧ pageEntryOk (BitVec.ofNat 64 (2 ^ 61 + 2 ^ 23)) = false) ∧
    (keeping.others = [] ∧ (ringing 0).others ≠ [] ∧ (∀ f ∈ [5, 2 ^ 23 - 1], f < 2 ^ 23) ∧ ∃ f ∈ [5, 2 ^ 23], 2 ^ 23 ≤ f) ∧
    (let s := keeping; (∀ t, t < 4 → bits 0x0A (2 * t) 2 ≠ 3) ∧ (∀ t, t < 4 → s.active t = false) ∧ bits 3 0 2 = 3 ∧ (placing (slot1 true 1)).active 0 = true ∧
      s.cfg.pknSet = false ∧ { Machine.Config.reset with pknSet := true }.pknSet = true) ∧
    -- a write of TAIL while a command is under way, and one that starts the command at HEAD
    (((ringing 3).hru 0).head ≠ ((ringing 3).hru 0).tail ∧ ((ringing 0).hru 0).head = ((ringing 0).hru 0).tail ∧
      (((ringing 0).modHru 0 fun u => { u with tail := 1 }).ringCommand 0).isSome = true) ∧
    (let v : Entry := 0x0C40000000000005; v.toNat / 2 ^ 56 % 4 = 0 ∧ bits v.toNat 4 44 = 0) ∧
    (0x2000 % 8 = 0 ∧ inDram 0x2000 8 = true ∧ keeping.tableByte 0x2000 = false ∧ Memory.wf keeping.mem = true) := by
  refine ⟨⟨by decide +kernel, by decide +kernel, by decide, by decide +kernel, by decide +kernel, by decide +kernel, rfl, by decide +kernel, _, rfl, by decide +kernel⟩,
    ⟨_, rfl, by decide +kernel⟩, by decide +kernel, by decide +kernel, by decide +kernel, by decide +kernel, by decide +kernel⟩
theorem witness_gatesAndWakes :
    (let s := gating (sp0 c0); let x := s.spire 0
     (∀ r ∈ s.held 0, apart (4 * 5) 4 (r.tsb / 0x4000) r.tsp = true) ∧ 5 ∉ x.gated ∧ 5 ∉ x.failed ∧ (∀ w ∈ x.waking, w.1 ≠ 5) ∧
        ∃ r ∈ s.held 0, apart (4 * 0) 4 (r.tsb / 0x4000) r.tsp = false) ∧
    (∃ w ∈ ((gating { sp0 c0 with waking := [(7, 2048)] }).spire 0).waking, w.1 = 7 ∧ 2048 ≤ w.2) ∧
    (let s := gating (sp0 c0); let g := (s.tower 0).l2gated; (0, 1, 6) ∉ g ∧ (g.filter fun w => w.1 == 0 && w.2.1 == 1).length < 12 ∧ (0, 1, 5) ∈ g ∧
      (∀ w ∈ (s.tower 0).l2waking, (w.1, w.2.1, w.2.2.1) ≠ (0, 1, 5)) ∧ ∀ q ∈ s.l2 0 1, q.way ≠ 5) ∧
    12 ≤ ((crowdedL2.tower 0).l2gated.filter fun w => w.1 == 0 && w.2.1 == 1).length ∧
    (let s := { at_ c0 with towers := [(0, { Tower.reset with l2gated := [(0, 1, 5)], l2waking := [(0, 1, 5, 2048)] })] }
     ∃ w ∈ (s.tower 0).l2waking, (w.1, w.2.1, w.2.2.1) = (0, 1, 5) ∧ 2048 ≤ w.2.2.2) := by
  decide +kernel
/-- Who may command context 0 of spire 0 and who may not. -/
theorem witness_commandsByRegister : May (commanded .frozen) 0 0 0 ∧ ¬May (commanded .frozen) 9 0 0 := by unfold May; decide +kernel

/-- A control session of port A, its messages; object 2 a kernel for this device with one entry point, in HBM frame 5; a memory region. -/
def ses : Session := ⟨false, 3, 1, 6⟩
def msg (seq cpv : Nat) : CpMsg := ⟨false, 3, seq, cpv, false, true, none⟩
def codeMem : List Host.Cell := [(2, 1), (4, 0x41), (5, 0x58), (6, 0x37), (7, 0x4B), (0x12, 1), (0x51, 1), (0x55, 0x10), (0x58, 1), (0x5C, 0x80), (0x80, 0x20)].map
  fun p => (5 * 65536 + p.1, p.2)
def served (sems : Tab Sem) : State := { withObjs (at_ c0) [(1, obj0 2 0 3 64 0 0 0 [3]), (2, obj0 1 0 0 65536 6 0 6 [5]), (3, obj0 1 0 10 64 6 8 8 [4])] codeMem with
  cfg := { Machine.Config.reset with bsts := 0xFF, sessions := [ses], sems := sems } }
def hostRec : List Entry := [BitVec.ofNat 64 (0x0107 + 2 ^ 16 + 7 * 2 ^ 36), hd 2, 0, 0, BitVec.ofNat 64 (2 ^ 32), 0, 1] ++ List.replicate 9 0 ++
  [BitVec.ofNat 64 (2 * 2 ^ 36 + 2 ^ 32 + 1)] ++ List.replicate 15 0
theorem witness_messages :
    ((∀ x ∈ (served []).cfg.sessions, x.sess ≠ 4) ∧ (served []).sessionOf (msg 5 1) = none ∧ (served []).sessionOf (msg 6 2) = some ses ∧ (msg 6 2).cpv ≠ 1) ∧
    (∀ l ∈ [[], [(0, (⟨true, 0, false, 0, 3⟩ : Sem))], [(0, ⟨true, 1, false, 0, 3⟩)]], let s := served l
      s.sessionOf (msg 6 1) = some ses ∧ s.cfg.bsts = 0xFF ∧ (msg 6 1).cpv = 1 ∧ (msg 6 1).rsv = false ∧ (∀ p ∈ s.cfg.launching, p.1 ≠ msg 6 1)) ∧
    -- a session of the system space, and a keep core
    ({ served [] with cfg := { (served []).cfg with sessions := [⟨false, 3, 0, 6⟩] } }.sessionOf (msg 6 1) = some ⟨false, 3, 0, 6⟩ ∧
      ((served []).sessionOf { msg 6 1 with kc := some (3, 0) }).map (·.sid) = some 0) ∧
    ((served []).regRead 0x00F000000050 = some 1000 ∧ (served []).regRead 0x00F000060000 = none) ∧
    (let x (l : Tab Sem) : Sem := (served l).sem 0; (x []).held = false ∧ (x [(0, ⟨true, 0, false, 0, 3⟩)]).heldBy (portMaster (msg 6 1)) = true ∧
      (x [(0, ⟨true, 1, false, 0, 3⟩)]).held = true ∧ (x [(0, ⟨true, 1, false, 0, 3⟩)]).heldBy (portMaster (msg 6 1)) = false ∧
      (x [(0, ⟨true, 2, false, 4, 3⟩)]).heldBy (.kc 4) = true) ∧
    (let u := (served []).tookMsg (msg 6 1)
     hostRec.length = 32 ∧ u.launchCause 0 ⟨ses.sid, 0, none, none, false, 0, 0, 0⟩ hostRec = 0 ∧ u.kernel 0 ses.sid hostRec = .native 0x1000 0x100 0 0x20 false ∧ u.fmtNow (hostRec.getD 5 0) = some [] ∧ ses.sid ≠ 0 ∧
        hostRec.getD 3 0 = 0 ∧ bits (wordAt hostRec 24) 0 3 = 0 ∧ pkgWideOf hostRec = false ∧
        (((served []).arb 0).queue (bits (wordAt hostRec 0) 24 3)).length < 256) ∧ (List.replicate 32 (0 : Byte)).length = 32 := by decide +kernel

def rreq (off : Nat) : RoceReq := ⟨false, 0, hd 1, off⟩
theorem witness_hostPortsServeTheirMessages :
    (let s := served []; let o := obj0 2 0 3 64 0 0 0 [3]
     RegionAt s (rreq 8) 4 o (3 * 65536 + 8) ∧ s.memRegion (rreq 65535) 4 = none) ∧
    (let s := served []; let o := obj0 1 0 10 64 6 8 8 [4]
     (s.lookup 0 3 (hd 3)).toOption = some o ∧ s.elsewhere (hd 3) = false ∧ o.live = false ∧ 16 + 4 ≤ o.bytes ∧ o.dver ≠ 0 ∧ o.closing = none ∧
        o.page o.dver (16 / 65536) = BitVec.ofNat 64 (2 ^ 61 + 4) ∧ 16 % 65536 + 4 ≤ 65536 ∧ s.l2Lines = [] ∧ Memory.wf s.mem = true) ∧
    (let s := { at_ c0 with fab := { Fabric.reset with ns := 1000000000 } }; let p := s.port false
     p.lnk = false ∧ p.pfl = false ∧ p.downNs + s.cfg.ldt * 1000000 ≤ s.fab.ns) ∧
    (let s := at_ c0; s.fab.ns < (s.port true).downNs + s.cfg.ldt * 1000000) := by
  refine ⟨⟨⟨by decide +kernel, by decide +kernel, by decide +kernel, by decide +kernel, by decide +kernel⟩, by decide +kernel⟩, by decide +kernel⟩

def bring (fuses root sig : Bool) (fsvn : Nat) : Bringup :=
  ⟨fuses, root, sig, none, fsvn, 0, none, 0, [(1, 4)], none, none, none, [], true, [], 0x3010, [], 2, true⟩
def powered (fuses : Fuses) : State := { at_ c0 with cfg := { Machine.Config.reset with fuses := fuses, fsvn := 9 } }
def throttled (spires : Tab Spire) : State := { at_ c0 with
  spires := spires, towers := [(0, { Tower.reset with swallow := [(0, 56), (1, 56), (2, 56), (3, 56)] })] }
theorem witness_resetPowerAndErrors :
    (∀ j, 3 < j → j < 4 → 5 ≤ Tab.get ((at_ c0).tower 0).swallow j 0) ∧
    (∀ j, 30 < j → j < 32 → ((throttled [(31, { Spire.reset with stopped := true })]).spire j).stopped = true) ∧
    ((∀ t, t < 4 → (at_ c0).tdmode t = 0) ∧ Tab.get ((at_ c0).tower 0).swallow 3 0 < 5) ∧
    (let s := throttled [(31, { Spire.reset with stopped := true })]
     (∀ d, d < 4 → 56 ≤ Tab.get (s.tower 0).swallow d 0) ∧ s.enabled 30 = true ∧ (s.spire 30).stopped = false ∧
        20 ≤ Tab.get (s.tower 0).swallow 2 0) ∧
    (0 < (((at_ c0).spire 0).ctx 0 |>.sOf 1).length ∧ (false, 1, 0) ∉ (((at_ c0).spire 0).ctx 0).qbad) ∧
    (let s := powered { Fuses.reset with svn := 7 }; (s.ctx 0 0).st = .ready ∧ (s.ctx 0 0).res.tsvn < 8 ∧ (s.ctx 0 1).st = .free ∧ s.cfg.fuses.svn < 8 ∧ 8 ≤ s.cfg.fsvn ∧ s.cfg.fuses.svn ≤ (bring true true true 9).fsvn ∧
      (bring true true true 6).fsvn < s.cfg.fuses.svn) ∧
    (let b := bring true true true 9; b.fusesOk = true ∧ b.rootOk = true ∧ b.sigOk = true ∧ b.segBad = none ∧ b.dmap = none ∧ b.hbmBad = none ∧ b.lpddrBad = none ∧
      b.sliceOk = true ∧ b.aligned = true) ∧ (at_ c0).fab.aligned = false ∧
    (let w : CLine := ⟨0, hd 1, 8, 0, 0, [0], [], [5], [], []⟩; let s := { at_ c0 with towers := [(0, { Tower.reset with l2 := [(0, [w])] })] }
     (s.l2 (towerOf 0) 0)[0]? = some w ∧ w.dirty ≠ [] ∧ 0 ∉ w.bad) := by
  refine ⟨fun j h1 h2 => by omega, fun j h1 h2 => ?_, by decide +kernel⟩
  obtain rfl : j = 31 := by omega
  rfl

/-- `li s4, 9` alone, and with `li s5, 8` in slot 1; `add.s32 s3, s1, s2`, whose queues are empty; an unassigned major. -/
def liWord (d imm : Nat) : Nat := wd [(0x15, 25), (d, 20), (imm, 0)]
def addWord : Nat := wd [(0x01, 25), (3, 20), (1, 15), (2, 10), (6, 0)]
def bundleAt (w : Nat) : State := State.reset.withFetchWord 128 w
def liOp (slot d : Fin 32) (imm : Fin 1048576) : SlotOp := ⟨slot, liWord d imm + slot * 2 ^ 31, .li d imm⟩
def selB (s : State) (c w : Nat) : Bool :=
  s.agenda.isEmpty && s.nbuTurn.isEmpty && s.mayIssue s.cur && !s.swallowed s.cur && (s.spire s.cur).select == some c && s.fetch s.cur (s.ctx s.cur c) (s.ctx s.cur c).pc == .ok w
theorem selects_of (s : State) (c w : Nat) (h : selB s c w = true) : Selects s c w := by
  simp only [selB, Bool.and_eq_true, beq_iff_eq, List.isEmpty_iff, Bool.not_eq_true'] at h
  obtain ⟨⟨⟨⟨⟨h1, h2⟩, h3⟩, h4⟩, h5⟩, h6⟩ := h
  exact ⟨⟨h1, h2⟩, h3, h4, h5, h6⟩
def opsOf (r : Except Cause (List SlotOp)) : Option (List SlotOp) := r.toOption
theorem opsOf_some {r : Except Cause (List SlotOp)} {l : List SlotOp} (h : opsOf r = some l) : r = .ok l := by
  cases r with
  | error e => cases h
  | ok m => exact congrArg _ (Option.some.inj h)
theorem accepts_of (s : State) (c w : Nat) (l : List SlotOp) (h : selB s c w = true ∧ ((headerOf w).headed = false ∨ (headerOf w).scope < 6) ∧
    opsOf ((started s c).checkSlots (headerOf w) w [0, 1, 2, 3]) = some l ∧ portCheck (headerOf w) l = none ∧ (started s c).cx.queueCheck l = .fine ∧ (started s c).cx.acqs = []) :
    Accepts s c w l := ⟨selects_of s c w h.1, h.2.1, opsOf_some h.2.2.1, h.2.2.2.1, h.2.2.2.2.1, .inl h.2.2.2.2.2⟩
theorem witness_accepts : Accepts (bundleAt 0) 0 0 [] ∧ Accepts (bundleAt (liWord 4 9)) 0 (liWord 4 9) [liOp 0 4 9] ∧
    Accepts (bundleAt (liWord 4 9 + (2 ^ 31 + liWord 5 8) * 2 ^ 32)) 0 (liWord 4 9 + (2 ^ 31 + liWord 5 8) * 2 ^ 32) [liOp 0 4 9, liOp 1 5 8] :=
  ⟨accepts_of _ _ _ _ (by decide +kernel), accepts_of _ _ _ _ (by decide +kernel), accepts_of _ _ _ _ (by decide +kernel)⟩

def nextOf (o : Host.Outcome State Fault Refusal) : Option State := match o with
  | .next s => some s
  | _ => none
theorem nextOf_some {o : Host.Outcome State Fault Refusal} (h : (nextOf o).isSome = true) : ∃ t, o = .next t := by
  cases o with
  | next t => exact ⟨t, rfl⟩
  | fault _ => cases h
  | refused _ => cases h
def two : State := bundleAt (liWord 4 9 + (2 ^ 31 + liWord 5 8) * 2 ^ 32)
def twoLoaded : State := (started two 0).load 0 (headerOf (liWord 4 9 + (2 ^ 31 + liWord 5 8) * 2 ^ 32)) [liOp 0 4 9, liOp 1 5 8]
/-- A bundle of an `mbar` whose context has an operation in the engine; and `two` with nothing in the instruction cache. -/
def mbarOp : SlotOp := ⟨2, wd [(0x0F, 25)], .mbar⟩
def mbarWord : Nat := wd [(0x0F, 25)] * 2 ^ 64
def mbarState : State := (bundleAt mbarWord).modSpire 0 fun x => { x with engine := [{ op0 with tid := (x.ctx 0).res.tid }] }
def mbarLoaded : State := (started mbarState 0).load 0 (headerOf mbarWord) [mbarOp]
theorem mbar_accepts : Accepts mbarState 0 mbarWord [mbarOp] := accepts_of _ _ _ _ (by decide +kernel)
def mbarStalled : State := (mbarLoaded.atSlot mbarOp []).stallWith .mbar
def coldTwo : State := two.modSpire 0 fun x => { x with icache := [] }
theorem witness_stepRunsTheDecodedInstruction :
    slotOrder twoLoaded.cx.sys.opv [liOp 0 4 9, liOp 1 5 8] = liOp 0 4 9 :: liOp 1 5 8 :: [] ∧
    (∃ u, exec (liOp 0 4 9).ins (twoLoaded.atSlot (liOp 0 4 9) [liOp 1 5 8]) = .next u ∧ u.iss.active = true ∧
      ∃ v, exec (liOp 1 5 8).ins (u.atSlot (liOp 1 5 8) []) = .next v ∧ v.iss.stalled = false) ∧
    (∃ u v, exec .mbar ((mbarLoaded).atSlot mbarOp []) = .next u ∧ u.iss.active = false ∧ u.iss.stalled = true ∧ u.tryIssue 8 = .next v) ∧
    (let s := two; let x := s.ctx 0 0; let a := x.res.noff + x.pc
     s.cfg.fuses.svn ≤ x.res.tsvn ∧ (readLine (s.spire 0).icache x.sys.sid x.res.codeh x.sys.cvr a 16).map (·.2) = some false) ∧
    (let s := coldTwo; let x := s.ctx 0 0; let a := x.res.noff + x.pc; let o := (s.lookup 0 0 x.res.codeh).toOption.getD blankObj
     (s.lookup 0 0 x.res.codeh).toOption.isSome = true ∧ s.cfg.fuses.svn ≤ x.res.tsvn ∧ hpkg x.res.codeh = s.cfg.pkn ∧ s.poison = [] ∧ o.repl = 0 ∧
        o.live = false ∧ o.fmt = .z8 ∧ o.rank = 1 ∧ o.rightsOf x.sys.sid &&& rRD = rRD ∧ (s.hru 0).cached x.res.codeh x.sys.cvr (a / 65536) = none ∧
        peST (o.page x.sys.cvr (a / 65536)) = 1 ∧ peFRAME (o.page x.sys.cvr (a / 65536)) < 2 ^ 23 ∧
        findLine (s.spire 0).icache x.sys.sid x.res.codeh x.sys.cvr (lineOf a) = none ∧
        (freeWay geoIc (s.spire 0).icache (geoIc.set (lineOf a)) []).isSome = true ∧ a % 16 = 0) ∧
    ({ two with towers := [(0, { Tower.reset with swallow := [(0, 64)] })] }.swallowed two.cur = true) ∧
    ({ two with agenda := [.slotStart] }.agenda = .slotStart :: [] ∧ Instr.slotStart ≠ .bundleIssue) ∧
    (let s := State.reset.withFetchWord 64 (wd [(0x08, 59), (3, 55)])
     s.agenda = [] ∧ s.nbuTurn = 0 :: [] ∧ (s.nbu 0).cur.isSome = true ∧ (s.nbu 0).suspended = false ∧
        (decodeMicro (Tab.get (s.nbu 0).ms (s.nbu 0).mpc 0).toNat).toOption = some (.clr 3) ∧ isRowStep (.clr 3) = false) := by
  refine ⟨by decide +kernel, ⟨_, rfl, rfl, _, rfl, rfl⟩, ?_, by decide +kernel, by decide +kernel, by decide +kernel, by decide +kernel, by decide +kernel⟩
  obtain ⟨v, hv⟩ := nextOf_some (show (nextOf (mbarStalled.tryIssue 8)).isSome = true by decide +kernel)
  exact ⟨mbarStalled, v, rfl, rfl, rfl, hv⟩

theorem witness_encodingRoundTrip :
    ((Instr.add rg true .s32).wellFormed = true ∧ standsIn 0 (.add rg true .s32) = true ∧ standsIn 1 (.add rg true .s32) = true) ∧
    ((Instr.sadd 3 .bfLo .rna 9).wellFormed = true ∧ (encode (.sadd 3 .bfLo .rna 9)).1 = .micro) ∧ addWord < 2 ^ 32 ∧ decodesTo 0 addWord (.add rg false .s32) = true ∧
    ((encode (Instr.add rg true .s32)).1 ≠ .event ∧ (encode (.add rg true .s32)).1 ≠ .micro) := by decide +kernel

theorem witness_memoryStaysCanonical : Memory.wf two.mem = true ∧ ∃ t, step two = .next t := ⟨by decide +kernel, nextOf_some (by decide +kernel)⟩

theorem witness_trapsAtIssueFreezeTheContext :
    (let s := { (bundleAt 0).modSpire 0 (fun x => { x with icache := [] }) with objs := [] }
     s.mayIssue s.cur = true ∧ (s.spire s.cur).select = some 0 ∧ ∃ k, s.fetch s.cur (s.ctx s.cur 0) (s.ctx s.cur 0).pc = .trap k) ∧
    (let w := wd [(0x7F, 25), (6, 22)]; Selects (bundleAt w) 0 w ∧ (headerOf w).headed = true ∧ 6 ≤ (headerOf w).scope) ∧
    (let w := wd [(0x30, 25)]; Selects (bundleAt w) 0 w ∧ (headerOf w).headed = false ∧
      ∃ k, (started (bundleAt w) 0).checkSlots (headerOf w) w [0, 1, 2, 3] = .error k) ∧
    (let w := addWord; Selects (bundleAt w) 0 w ∧ portCheck (headerOf w) [⟨0, addWord, .add rg false .s32⟩] = none ∧
      opsOf ((started (bundleAt w) 0).checkSlots (headerOf w) w [0, 1, 2, 3]) = some [⟨0, addWord, .add rg false .s32⟩] ∧
      ∃ k, (started (bundleAt w) 0).cx.queueCheck [⟨0, addWord, .add rg false .s32⟩] = .trap k) ∧
    (let w := addWord; let s := (bundleAt w).modCtx 0 0 fun x => { x with deferred := [⟨.s 1, none, 1, 0, 3, 0, 2⟩] }
     Selects s 0 w ∧ (s.ctx 0 0).st = .ready ∧ ∃ d, (started s 0).cx.queueCheck [⟨0, addWord, .add rg false .s32⟩] = .stall d) ∧
    -- `st.ts` of s0 in slot 3 behind an acquire
    (let w := wd [(0x0A, 25), (3, 0)] * 2 ^ 96; let s := (bundleAt w).modCtx 0 0 fun x => { x with acqs := [9] }
     let l : List SlotOp := [⟨3, wd [(0x0A, 25), (3, 0)], .stTs ⟨qs 0, qs 0⟩ 0 .z64⟩]
     Selects s 0 w ∧ opsOf ((started s 0).checkSlots (headerOf w) w [0, 1, 2, 3]) = some l ∧ portCheck (headerOf w) l = none ∧
       (started s 0).cx.queueCheck l = .fine ∧ (started s 0).cx.acqs ≠ [] ∧ (∃ o ∈ l, memClass o.slot o.ins = true) ∧ (s.ctx 0 0).st = .ready) := by
  refine ⟨⟨by decide +kernel, by decide +kernel, _, rfl⟩, ⟨selects_of _ _ _ (by decide +kernel), by decide +kernel⟩,
    ⟨selects_of _ _ _ (by decide +kernel), by decide +kernel, _, rfl⟩, ⟨selects_of _ _ _ (by decide +kernel), by decide +kernel, by decide +kernel, _, rfl⟩,
    ⟨selects_of _ _ _ (by decide +kernel), by decide +kernel, _, rfl⟩, selects_of _ _ _ (by decide +kernel), by decide +kernel⟩

-- The spec's worked examples, and single steps with the results that its rules give

/-- Words of the worked examples of sections 06, 07, 08, 10, 22, 23 and 24. -/
theorem test_example_words : decodesTo 1 0x8630BFFE (.addi ⟨3, qs 1⟩ 0x3FFE) = true ∧ decodesTo 0 0x8211BFFD (.brc .nz (qs 3) 0x3FFD) = true ∧
    decodesTo 1 0x162144AA (.vcmpCc 1 2 (qv 2) (qv 1) .ge .f32) = true ∧ decodesTo 3 0x2204A885 (.cntAdd ⟨qs 9, qs 10⟩ .rel 5) = true ∧
    decodesTo 3 0x66E0B600 (.objPin 14 ⟨⟨1, true⟩, qs 13⟩) = true ∧ decodesTo 3 0x02001810 (.tld ⟨qs 0, qs 6⟩ 1) = true ∧
    decodesTo 2 0x0202C000 (.mmaTs 0 (qs 5) true 0 false false 0 0) = true ∧ decodesTo 3 0x46008201 (.futRes ⟨⟨1, true⟩, qs 0⟩ false 1) = true := by decide +kernel
/-- Headers of sections 06 and 10: scope, ports, lend bits. -/
theorem test_example_headers : Header.of 0xFE80003F = ⟨true, 0xFE80003F, 2, 0, false, [0, 63, 0, 0]⟩ ∧
    Header.of 0xFEC82000 = ⟨true, 0xFEC82000, 3, 1, false, [0, 0, 0, 2]⟩ ∧ (Header.of 0xFE100000).ports = 2 := by decide +kernel
/-- Section 01: spire 77 is in tower 2; its ring is spires 72 to 79. -/
theorem test_example_spire : towerOf 77 = 2 ∧ (victims 77).take 7 = [78, 79, 72, 73, 74, 75, 76] := by decide +kernel
/-- Section 03: element (700, 13) of a blocked bf16 object stands at 0x7578; mode 4 maps 0x2A94 to 0x2B94. -/
theorem test_example_places : ({ obj0 1 0 9 1000 6 0 6 [3] with w := [BitVec.ofNat 64 (5 * 2 ^ 40 + 2 ^ 35 + 2 * 2 ^ 29 + 9 * 2 ^ 24 + 2 ^ 21 + 7 * 2 ^ 6),
      BitVec.ofNat 64 (64 * 2 ^ 32 + 1000), BitVec.ofNat 64 (2 ^ 32 + 1), BitVec.ofNat 64 (2 ^ 32 + 1)] } : Obj).offset [700, 13, 0, 0, 0, 0] = 0x7578 ∧
    physTs 0 4 0x2A94 = 0x2B94 := by decide +kernel
/-- Section 05: terms 2^24, 1, 1 on an accumulator of +0 under NVR 7, 6 and 5. -/
def terms3 : List (List (FVI × Bool)) := [[((.fin false (2 ^ 24) 1, false), true)], [((.fin false 1 1, false), true)], [((.fin false 1 1, false), true)]]
def accOf (nvr : Nat) : Nat × Nat := let r := accumF32 nvr 0 (.fin false 0 1) terms3
  ((roundTo .f32 .rne false r.1).code, r.2)
theorem test_example_accumulation : accOf 7 = (0x4B800001, 0) ∧ accOf 6 = (0x4B800000, stINX) ∧ accOf 5 = (0x4B800000, stINX) := by decide +kernel
/-- Section 05: a row block of e2m1. -/
theorem test_example_block : let f (n d : Nat) (s : Bool) : FV := .fin s n d
    let b := drainQ4 .e2m1 (List.replicate 32 .rne) ([f 5 1 false, f 7 10 true, f 1 4 false, f 26 10 false, f 3 1 true] ++ List.replicate 27 (f 0 1 false))
    b.codes = [6, 9, 0, 5, 13] ++ List.replicate 27 0 ∧ b.scale = 0x60 ∧ b.st = stINX := by decide +kernel
/-- Section 07: conversions of 300.7 and 70,000. -/
def conv (w : Nat) (f : Fmt) (sat : Bool) : Nat × Nat × Nat := let c := convert (decodeFlt .f32 w) f .rne sat; (c.code, c.st, c.kind)
theorem test_example_conversions : conv 0x43965999 .s8 false = (0x7F, stSAT + stINX, 3) ∧ conv 0x43965999 .e4m3 false = (0x79, stINX, 0) ∧
    conv 0x43965999 .f16 false = (0x5CB3, stINX, 0) ∧ conv 0x4788B800 .f16 false = (0x7C00, stOV + stINX, 0) ∧
    conv 0x4788B800 .f16 true = (0x7BFF, stOV + stSAT + stINX, 0) ∧ conv 0x4788B800 .e4m3 false = (0x7E, stOV + stSAT + stINX, 4) := by decide +kernel
/-- Sections 10 and 13: reductions of f32, element by element. -/
theorem test_example_reductions : redCode .add .f32 0x4B800000 0x3F800000 = 0x4B800000 ∧ redCode .add .f32 0x40000000 0x4B800000 = 0x4B800001 := by decide +kernel
/-- Section 12: the bank of frame 0x12_3450, and the path classes of its sources. -/
theorem test_example_rows : (0x123450 / 2 ^ 14, 0x123450 / 1024 % 16, 0x123450 / 16 % 64) = (72, 13, 5) ∧ pathClass (some 0x123450) [some 0x123455] = 0 ∧
    pathClass (some 0x123450) [some 0x123465] = 1 ∧ pathClass (some 0x123450) [none] = 2 := by decide +kernel
/-- Section 13: package 3 sends to package 70 through 166 from slot 5, through 102 from slot 3, directly from slot 0. -/
def at3 (slot : Nat) : State := { at_ c0 with
  cfg := { Machine.Config.reset with pkn := 3, pres := List.replicate 256 true }
  fab := { Fabric.reset with ns := slot * 512, aligned := true, dark := false, lanes := [(48, { Lane.reset with lst := 0 })] } }
def to70 : Flit := { farFlit with h := { farFlit.h with esrc := 3, edst := 70 } }
theorem test_example_paths : (at3 5).choose to70 0 = some 166 ∧ (at3 3).choose to70 0 = some 102 ∧ (at3 0).choose to70 0 = none := by decide +kernel
/-- Section 14: with TIE 0 port B wins over port A, with TIE 1 port A. -/
theorem test_example_semaphore : (⟨false, 0, false, 0, 0⟩ : Sem).winner .portA [.portB] = 1 ∧ (⟨false, 1, true, 0, 1⟩ : Sem).winner .portB [.portA] = 0 := by decide +kernel
/-- Section 19: word 0 of the record of a QUEUE overflow. -/
theorem test_example_record : (TrapRec.words ⟨2, 2, 0, false, false, true, 3, true, 77, 0, false, 0x230, 0x260, 0, 0, 2, 0, 0, 0, 0, 0, 0, 0, 0, [], 7⟩).head? =
    some 0x02020BCD00000001 := by decide +kernel

/-- What an instruction on context `x` puts in flight: destination, value, status. -/
def puts (i : Instr) (x : Ctx) : List (Dest × RVal × Nat) :=
  match nextOf (exec i (at_ x)) with
  | some t => t.cx.inflight.map fun f => (f.dest, f.val, f.fst)
  | none => []
def with3 (a b c : Entry) : Ctx := { c0 with sq := [(1, [a]), (2, [b]), (3, [c])] }
theorem test_sub_saturates : puts (.sub ⟨5, qs 1, qs 2⟩ true .s32) (with3 0x80000000 1 0) = [(.s 5, .s 0xFFFFFFFF80000000, stSAT + stINX)] := by decide +kernel
theorem test_add_wraps : puts (.add ⟨5, qs 1, qs 2⟩ false .z8) (with3 0xFF 2 0) = [(.s 5, .s 1, 0)] := by decide +kernel
theorem test_mad_reads_its_destination : puts (.mad ⟨3, qs 1, qs 2⟩ false .s16) (with3 7 3 2) = [(.s 3, .s 23, 0)] := by decide +kernel
theorem test_addi_sign : puts (.addi ⟨5, qs 1⟩ 0x3FFE) (with3 1 0 0) = [(.s 5, .s 0xFFFFFFFFFFFFFFFF, 0)] := by decide +kernel
/-- R208: a zero divisor gives all ones, and the remainder is the dividend; the most negative value over -1. -/
theorem test_div_by_zero : puts (.div ⟨5, qs 1, qs 2⟩ .z32) (with3 9 0 0) = [(.s 5, .s 0xFFFFFFFF, 0)] ∧
    puts (.rem ⟨5, qs 1, qs 2⟩ .s32) (with3 9 0 0) = [(.s 5, .s 9, 0)] := by decide +kernel
theorem test_fma_once_rounded : puts (.fma ⟨3, qs 1, qs 2⟩ .rne .f32) (with3 0x3F800001 0x3F800001 0xBF800002) = [(.s 3, .s 0x28800000, 0)] := by decide +kernel

def lanes32 (f : Nat → Nat) (n : Nat) : Vec := BitVec.ofNat 4096 ((List.range n).foldr (fun i a => a + f i * 2 ^ (32 * i)) 0)
def withV (a b : Vec) : Ctx := { c0 with vq := [(1, [a]), (2, [b])], masks := [(1, 15)] }
/-- Section 08: the compare of four ratios, and the two slides. -/
theorem test_vcmp_example : puts (.vcmpCc 1 2 (qv 2) (qv 1) .ge .f32) (withV (lanes32 (fun i => [0x3F666666, 0x3ECCCCCD, 0x3F800000, 0x3F333333].getD i 0) 4)
    (lanes32 (fun i => [0x3F000000, 0x3E99999A, 0x3F4CCCCD, 0x3F733333].getD i 0) 4)) = [(.m 2, .m 8, 0)] := by decide +kernel
def slid (i : Fin 64) : List Nat := (puts (.vslide 3 (qv 1) (qv 2) i .f32) (withV (lanes32 (fun i => i) 128) (lanes32 (fun i => 1000 + i) 128))).map fun p =>
  match p.2.1 with
  | .v x => bits x.toNat 0 32 * 10000 + bits x.toNat (32 * 127) 32
  | _ => 0
theorem test_vslide_example : slid 4 = [4 * 10000 + 1003] ∧ slid 60 = [1124 * 10000 + 123] := by decide +kernel

end Sys2Proof.Tests
end

namespace Sys2Proof.Machine

-- A trap at issue: its record and the context it leaves (R403, R404, R409, R410)

theorem Tab.mem_set {α : Type} (t : Tab α) (k : Nat) (x : α) : (k, x) ∈ Tab.set t k x := by
  induction t with
  | nil => simp [Tab.set]
  | cons p r ih =>
    obtain ⟨j, y⟩ := p
    by_cases h : j = k
    · simp [Tab.set, h]
    · simp [Tab.set, h, ih]

/-- The last of the records offered to a queue waits behind it or stands in its ring: no later record takes its place. -/
theorem TrapQ.take_concat (q : TrapQ) (l : List TrapRec) (r : TrapRec) :
    r ∈ (q.take (l ++ [r])).2 ∨ ∃ p ∈ (q.take (l ++ [r])).1.ring, { p.2 with seq := r.seq } = r := by
  induction l generalizing q with
  | nil =>
    by_cases h : q.room = true
    · exact .inr ⟨(q.tail, { r with seq := q.seq }), by simp [TrapQ.take, TrapQ.enter, h, Tab.mem_set], rfl⟩
    · exact .inl (by simp [TrapQ.take, h])
  | cons a l ih =>
    by_cases h : q.room = true
    · simpa [TrapQ.take, h] using ih (q.enter a)
    · exact .inl (by simp [TrapQ.take, h])

@[simp] theorem State.tower_modSpire (s : State) (n t : Nat) (f : Spire → Spire) : (s.modSpire n f).tower t = s.tower t := rfl
@[simp] theorem State.spire_modTower (s : State) (t n : Nat) (f : Tower → Tower) : (s.modTower t f).spire n = s.spire n := rfl

@[simp] theorem State.post_mem (s : State) (sp : Nat) (r : TrapRec) : (s.post sp r).mem = s.mem := rfl

@[simp] theorem State.post_ctx (s : State) (sp c : Nat) (r : TrapRec) : (s.post sp r).ctx sp c = s.ctx sp c := by
  simp [State.post, State.ctx, Spire.ctx]

@[simp] theorem State.rewind_mem (s : State) : s.rewind.mem = s.mem := by
  cases h : s.iss.pre <;> simp [State.rewind, h]

/-- The undone bundle's context is the one that stood before it. -/
theorem State.rewind_ctx {s : State} {q : Spire} (h : s.iss.pre = some q) (c : Nat) : s.rewind.ctx s.iss.sp c = q.ctx c := by
  have hspire : s.rewind.spire s.iss.sp = (s.setSpire s.iss.sp q).spire s.iss.sp := by simp only [State.rewind, h]; rfl
  simp [State.ctx, hspire]

@[simp] theorem State.raise_mem (s : State) (k : Cause) : (s.raise k).mem = s.mem := by
  simp [State.raise, State.freeze]

end Sys2Proof.Machine

namespace Sys2Proof.Spec
open Sys2Proof.Machine

/-- A record that a spire posts reaches the tower's queue or waits in the spire. -/
theorem posted_post (s : State) (sp : Nat) (r : TrapRec) : Posted (s.post sp r) sp r := by
  simpa [Posted, State.post] using TrapQ.take_concat (s.tower (towerOf sp)).tq (s.spire sp).held r

/-- A trap at issue freezes the context before its bundle. -/
theorem raise_ctx {s : State} {q : Spire} (h : s.iss.pre = some q) (k : Cause) :
    (s.raise k).ctx s.iss.sp s.iss.c = frozenAt (q.ctx s.iss.c) s.iss.off := by
  simp [State.raise, State.freeze, State.rewind_ctx h, frozenAt]

/-- A trap at issue posts a record of its class with EFF = 0. -/
theorem raise_posted (s : State) (k : Cause) : ∃ r, Posted (s.raise k) s.iss.sp r ∧ (r.tcls, r.eff) = (k.cls, false) :=
  ⟨_, posted_post _ _ _, rfl⟩

-- Reads and results under issue: what they change (R176, R177)

theorem OnlyContext.refl (s : State) : OnlyContext s s := ⟨rfl, fun _ => rfl, fun _ _ _ => rfl⟩

theorem OnlyContext.mem {s t : State} (h : OnlyContext s t) : t.mem = s.mem := (congrArg State.mem h.1 :)

theorem onlyContext_setCx (s : State) (y : Ctx) : OnlyContext s (s.setCx y) := by
  refine ⟨rfl, fun n => ?_, fun n c h => State.ctx_setCtx_ne s h y⟩
  by_cases h : n = s.iss.sp
  · simp [State.setCx, State.spire_setCtx, h, Spire.setCtx]
  · simp [State.setCx, State.spire_setCtx, h]

/-- A scalar read of a context without poisoned entries goes on with the value and the context that `take` gives. -/
theorem readS_of_take {s : State} (hs : s.Clean) {a : SrcS} {e : Entry} {y : Ctx} (h : take (.s a) s.cx = some (.s e, y)) :
    ∃ u, u.cx = y ∧ u.iss = s.iss ∧ OnlyContext s u ∧ ∀ k, s.readS a k = k e u := by
  obtain ⟨q, peek⟩ := a
  by_cases hq : q = 0
  · subst hq
    obtain ⟨rfl, rfl⟩ : 0 = e ∧ s.cx = y := by simpa [take] using h
    exact ⟨s, rfl, rfl, .refl s, readS_zero s peek⟩
  · cases hl : s.cx.sOf q with
    | nil => simp [take, hq, hl] at h
    | cons x l =>
      cases peek with
      | false =>
        obtain ⟨rfl, rfl⟩ : x = e ∧ s.cx.setS q l = y := by simpa [take, hq, hl] using h
        exact ⟨s.setCx _, State.cx_setCx s _, rfl, onlyContext_setCx s _, readS_some hs hq hl⟩
      | true =>
        obtain ⟨rfl, rfl⟩ : x = e ∧ s.cx = y := by simpa [take, hq, hl] using h
        exact ⟨s, rfl, rfl, .refl s, readS_some hs hq hl⟩

/-- An operation that only pushes one result completes. -/
theorem completes_push {ins : Instr} {s : State} (hbad : s.iss.bad = false) {d : Dest} {v : RVal} {lat fst : Nat}
    (h : exec ins s = .next (s.push d v lat fst)) : Completes ins s s.cx d v lat fst s.iss := by
  refine ⟨_, h, ?_⟩
  by_cases hd : (d = .s 0 ∨ d = .m 0) ∧ fst = 0
  · obtain ⟨hd, rfl⟩ := hd
    simp [push_zero s v lat hd, withFlight, hd, OnlyContext.refl]
  · simp [push_eq hbad v lat fst hd, withFlight, hd, onlyContext_setCx]

-- SPN (R17, Table 06-6)

/-- The number of SPN as the encoding carries it. -/
theorem spn_val : ((0x011 : Fin 1024) : Nat) = 0x011 := rfl

theorem sysWritable_spn (x : Ctx) : x.sysWritable 0x011 = false := rfl

theorem exec_sysrd_spn (s : State) (d : Fin 32) :
    exec (.sysrd d 0x011) s = .next (s.push (.s d) (.s (BitVec.ofNat 64 s.iss.sp)) 2 0) := rfl

/-- Whatever value `syswr` reads for SPN, it raises ILLEGAL/0x07. -/
theorem exec_syswr_spn (s : State) (a : SrcS) :
    exec (.syswr a 0x011) s = .next (s.readS a fun x u => u.raise (sysCause u.iss.slot 0x011 x.toNat)) := by
  show execSyswr a 0x011 s = _
  simp only [execSyswr, spn_val, sysWritable_spn, Bool.false_and, Bool.false_eq_true, if_false]

/-- The check of a slot with a `syswr` to SPN ends in ILLEGAL: for its lend bits (R173), else for the register (R182). -/
theorem slotCheck_syswr_spn {s : State} {h : Header} {k w : Nat} {a : SrcS} (hw : decodeSlot k w = .ok (.syswr a 0x011)) :
    ∃ c, s.slotCheck h k w = .error c ∧ c.cls = 1 := by
  have hreg : s.sysIllegal (.syswr a 0x011) = some (0x011, ((s.cx.sOf a.q).headD 0).toNat) := by
    simp only [State.sysIllegal, spn_val, sysWritable_spn, Bool.false_eq_true, if_false]
  have hbar : barredInLoop (.syswr a 0x011) = false := rfl
  simp only [State.slotCheck, hw, hbar, hreg, Bool.false_and, Bool.false_eq_true, if_false]
  split
  · exact ⟨_, rfl, rfl⟩
  · exact ⟨_, rfl, rfl⟩

/-- Settles O13: `sysrd` of SPN pushes the spire's number; `syswr` of it fails its slot's check and, executed, raises before its bundle. -/
theorem spireNumberIsReadOnly : Obligations.SpireNumberIsReadOnly := by
  refine ⟨fun s d hbad => completes_push hbad (exec_sysrd_spn s d), fun s h k w a hw => slotCheck_syswr_spn hw, ?_⟩
  intro s a e y q hs htake hpre
  obtain ⟨u, -, hiss, honly, hread⟩ := readS_of_take hs htake
  have hexec : exec (.syswr a 0x011) s = .next (u.raise (sysCause u.iss.slot 0x011 e.toNat)) := by
    rw [exec_syswr_spn, hread]
  obtain ⟨r, hposted, hrec⟩ := raise_posted u (sysCause u.iss.slot 0x011 e.toNat)
  have hctx := raise_ctx (hiss ▸ hpre : u.iss.pre = some q) (sysCause u.iss.slot 0x011 e.toNat)
  rw [hiss] at hposted hctx
  exact ⟨_, r, hexec, by rw [State.raise_mem, honly.mem], by rwa [hiss], hrec, by rwa [hiss]⟩

end Sys2Proof.Spec

namespace Sys2Proof.Spec
open Sys2Proof.Machine

-- Integers in queue entries: the model's `opnd` and `put` are those of R203

/-- The two's-complement value of the low bits is the balanced remainder. -/
theorem sextN_eq_bmod {n : Nat} (hn : 0 < n) (w : Nat) : sextN n w = Int.bmod w (2 ^ n : Nat) := by
  obtain ⟨m, rfl⟩ : ∃ m, n = m + 1 := ⟨n - 1, by omega⟩
  have hhalf : (((2 ^ (m + 1) : Nat) : Int) + 1) / 2 = (2 ^ m : Nat) := by rw [Nat.pow_succ]; omega
  rw [sextN, Int.bmod_def, hhalf, Nat.add_sub_cancel]
  norm_cast

theorem cast_wrapN (n : Nat) (v : Int) : (wrapN n v : Int) = v % (2 ^ n : Nat) :=
  Int.toNat_of_nonneg (Int.emod_nonneg _ (Int.natCast_ne_zero.mpr (Nat.ne_of_gt (Nat.two_pow_pos n))))

theorem ofNat_wrapN_64 (v : Int) : BitVec.ofNat 64 (wrapN 64 v) = BitVec.ofInt 64 v := by
  apply BitVec.eq_of_toNat_eq
  simp only [wrapN, BitVec.toNat_ofNat, BitVec.toNat_ofInt]
  omega

theorem width_pos (t : Fmt) : 0 < t.width := by cases t <;> decide

theorem opndI_eq_opnd (t : Fmt) (x : Entry) : opndI t x.toNat = opnd t x := by
  simp [opndI, opnd, sextN_eq_bmod (width_pos t)]

theorem putI_eq_put (t : Fmt) (v : Int) : putI t v = put t v := by
  by_cases ht : isSigned t
  · simp only [putI, put, ht, if_true, ofNat_wrapN_64, sextN_eq_bmod (width_pos t), cast_wrapN, Int.emod_bmod]
  · simp only [putI, put, ht, Bool.false_eq_true, if_false, ← BitVec.ofInt_natCast, cast_wrapN, Int.natCast_pow,
      Int.cast_ofNat_Int]

/-- Without saturation the result is put as it is, with no status bit (R207). -/
theorem putSat_false (t : Fmt) (v : Int) : putSat t false v = (put t v, 0) := by
  simp [putSat, putI_eq_put]

-- Reading the sources of an operation in turn (R176), and pushing its result (R177)

theorem OnlyContext.trans {s u t : State} (hsu : OnlyContext s u) (hiss : u.iss = s.iss) (hut : OnlyContext u t) : OnlyContext s t := by
  obtain ⟨hs, hspire, hctx⟩ := hsu
  obtain ⟨hs', hspire', hctx'⟩ := hut
  exact ⟨hs'.trans hs, fun n => (hspire' n).trans (hspire n),
    fun n c h => (hctx' n c (by rwa [hiss])).trans (hctx n c h)⟩

/-- A scalar source gives a scalar value and keeps a context without poisoned entries so. -/
theorem take_scalar {a : SrcS} {x y : Ctx} {v : RVal} (h : take (.s a) x = some (v, y)) (hx : x.qbad = []) :
    (∃ e, v = .s e) ∧ y.qbad = [] := by
  simp only [take] at h
  split at h
  · cases h; exact ⟨⟨_, rfl⟩, hx⟩
  · split at h
    · cases h
    · cases h
      refine ⟨⟨_, rfl⟩, ?_⟩
      split
      · exact hx
      · exact Ctx.setS_qbad hx _ _

/-- The read of the first of several sources goes on with its value, in a state from which the others are read. -/
theorem readS_of_takeAll {s : State} (hs : s.Clean) {a : SrcS} {r : List Src} {l : List RVal} {y : Ctx}
    (h : takeAll (.s a :: r) s.cx = some (l, y)) :
    ∃ e m u, l = .s e :: m ∧ takeAll r u.cx = some (m, y) ∧ u.Clean ∧ u.iss = s.iss ∧ OnlyContext s u ∧
      ∀ k, s.readS a k = k e u := by
  cases htake : take (.s a) s.cx with
  | none => simp [takeAll, htake] at h
  | some p =>
    obtain ⟨v, z⟩ := p
    obtain ⟨⟨e, rfl⟩, hz⟩ := take_scalar htake hs.2
    obtain ⟨u, rfl, hiss, honly, hread⟩ := readS_of_take hs htake
    simp only [takeAll, htake, Option.map_eq_some_iff, Prod.exists, Prod.mk.injEq] at h
    obtain ⟨m, y, hrest, rfl, rfl⟩ := h
    exact ⟨e, m, u, rfl, hrest, ⟨hiss ▸ hs.1, hz⟩, hiss, honly, hread⟩

/-- Two scalar sources read in order: their values, and the state in which nothing but their queues has changed. -/
theorem bin_of_takeAll {s : State} (hs : s.Clean) {r : Reg3} {l : List RVal} {y : Ctx}
    (h : takeAll [.s r.a, .s r.b] s.cx = some (l, y)) :
    ∃ u, u.cx = y ∧ u.iss = s.iss ∧ OnlyContext s u ∧ ∀ k, s.bin r k = k (sv l 0) (sv l 1) u := by
  obtain ⟨e, _, u, rfl, h, hu, hiss, honly, hread⟩ := readS_of_takeAll hs h
  obtain ⟨f, _, w, rfl, h, -, hiss', honly', hread'⟩ := readS_of_takeAll hu h
  obtain ⟨rfl, rfl⟩ : [] = _ ∧ w.cx = y := by simpa [takeAll] using h
  exact ⟨w, rfl, hiss'.trans hiss, honly.trans hiss honly', fun k => (hread _).trans (hread' _)⟩

theorem cx_push {s : State} (hbad : s.iss.bad = false) (d : Dest) (v : RVal) (lat fst : Nat) :
    (s.push d v lat fst).cx = withFlight s s.cx d v lat fst := by
  by_cases hd : (d = .s 0 ∨ d = .m 0) ∧ fst = 0
  · simp [State.push, withFlight, hd]
  · simp [push_eq hbad v lat fst hd, withFlight, hd]

theorem onlyContext_push (s : State) (d : Dest) (v : RVal) (lat fst : Nat) : OnlyContext s (s.push d v lat fst) := by
  unfold State.push
  split
  · exact .refl s
  · exact onlyContext_setCx s _

/-- An operation that reads its sources and then pushes one result completes. -/
theorem completes_of_reads_push {ins : Instr} {s u : State} (hbad : s.iss.bad = false) (hiss : u.iss = s.iss) (honly : OnlyContext s u)
    {d : Dest} {v : RVal} {lat fst : Nat} (h : exec ins s = .next (u.push d v lat fst)) : Completes ins s u.cx d v lat fst s.iss :=
  ⟨_, h, by simp [cx_push (hiss ▸ hbad : u.iss.bad = false), withFlight, hiss], by simp [hiss],
    honly.trans hiss (onlyContext_push u d v lat fst)⟩

/-- An operation of two sources without saturation completes with the exact result put into the type, without status. -/
theorem completes_intOp {ins : Instr} {r : Reg3} {t : Fmt} {lat : Nat} {f : Int → Int → Int} {s : State}
    (h : exec ins s = .next (intOp r false t lat f s)) (hs : s.Clean) {l : List RVal} {y : Ctx}
    (htake : takeAll [.s r.a, .s r.b] s.cx = some (l, y)) :
    Completes ins s y (.s r.d) (.s (put t (f (opnd t (sv l 0)) (opnd t (sv l 1))))) lat 0 s.iss := by
  obtain ⟨u, rfl, hiss, honly, hbin⟩ := bin_of_takeAll hs htake
  refine completes_of_reads_push hs.1 hiss honly (h.trans ?_)
  rw [intOp, hbin, putSat_false, opndI_eq_opnd, opndI_eq_opnd]
  rfl

-- Division (R208)

theorem exec_div (r : Reg3) (t : Fmt) (s : State) : exec (.div r t) s = .next (intOp r false t (divLat t) (divQ t) s) := rfl

theorem exec_rem (r : Reg3) (t : Fmt) (s : State) : exec (.rem r t) s = .next (intOp r false t (divLat t) divM s) := rfl

theorem divQ_eq_quotient (t : Fmt) : divQ t = quotient t := by
  funext x y
  by_cases ht : isSigned t <;> simp [divQ, quotient, maxOf, ht]

theorem divM_eq_remainder : divM = remainder := rfl

/-- Settles O1: `div` and `rem` are unsaturated operations of two sources, with the exact quotient and remainder of R208. -/
theorem divideAndRemainder : Obligations.DivideAndRemainder := by
  intro r t s l y hs htake
  have hdiv := completes_intOp (exec_div r t s) hs htake
  have hrem := completes_intOp (exec_rem r t s) hs htake
  rw [divQ_eq_quotient] at hdiv
  rw [divM_eq_remainder] at hrem
  exact ⟨hdiv, hrem⟩

end Sys2Proof.Spec

namespace Sys2Proof

-- The fields of a word and the decoder of one slot (R168, R171, Table 03-3)

theorem bits_mod (w : Nat) {lo n m : Nat} (h : lo + n ≤ m) : bits (w % 2 ^ m) lo n = bits w lo n := by
  obtain ⟨k, rfl⟩ := Nat.exists_eq_add_of_le h
  rw [bits, bits, Nat.add_assoc, Nat.pow_add, Nat.mod_mul_right_div_self, Nat.mod_mod_of_dvd _ (Nat.pow_dvd_pow 2 (Nat.le_add_right n k))]

theorem Fmt.code_lt (t : Fmt) : t.code < 2 ^ 5 := by cases t <;> decide

@[simp] theorem Fmt.ofCode_code (t : Fmt) : Fmt.ofCode t.code = some t := by cases t <;> rfl

theorem Fmt.ofCode_reserved {n : Nat} (h : 14 < n) : Fmt.ofCode n = none := by
  unfold Fmt.ofCode
  split
  case h_16 => rfl
  all_goals omega

theorem typ_of_code {w : Nat} {t : Fmt} (h : bits w 0 5 = t.code) (k : Fmt → Dec) : typ w k = k t := by
  simp only [typ, need, h, Fmt.ofCode_code]

theorem typ_reserved {w : Nat} (h : 14 < bits w 0 5) (k : Fmt → Dec) : typ w k = .error .function := by
  simp only [typ, need, Fmt.ofCode_reserved h]

/-- Fields that are all zero let the word through. -/
theorem zeros_of_forall {w : Nat} {fs : List (Nat × Nat)} (h : ∀ p ∈ fs, bits w p.1 p.2 = 0) (k : Dec) : zeros w fs k = k := by
  have hmask : (fs.map fun p => bits w p.1 p.2 * 2 ^ p.1).foldl (· + ·) 0 = 0 := by
    rw [← List.sum_eq_foldl, List.sum_eq_zero_iff_forall_eq_nat, List.forall_mem_map]
    exact fun p hp => by rw [h p hp, Nat.zero_mul]
  simp only [zeros, hmask, if_true]

/-- A field that is not zero refuses the word (R171). -/
theorem zeros_error {w : Nat} {fs : List (Nat × Nat)} {p : Nat × Nat} (hp : p ∈ fs) (h : bits w p.1 p.2 ≠ 0) (k : Dec) :
    ∃ r, zeros w fs k = .error r := by
  have hmask : (fs.map fun p => bits w p.1 p.2 * 2 ^ p.1).foldl (· + ·) 0 ≠ 0 := by
    rw [← List.sum_eq_foldl, Ne, List.sum_eq_zero_iff_forall_eq_nat]
    exact fun hall => h ((Nat.mul_eq_zero.mp (hall _ (List.mem_map_of_mem hp))).resolve_right (Nat.ne_of_gt (Nat.two_pow_pos _)))
  simp only [zeros, hmask, if_false]
  split
  · split <;> exact ⟨_, rfl⟩
  · exact ⟨_, rfl⟩
  · exact ⟨_, rfl⟩

theorem keepWf_ok {i : Instr} (h : i.wellFormed = true) : keepWf (.ok i) = .ok i := by simp only [keepWf, h, if_true]

theorem keepWf_not_wellFormed {i : Instr} (h : i.wellFormed = false) : keepWf (.ok i) = .error .function := by
  simp only [keepWf, h, Bool.false_eq_true, if_false]

theorem keepWf_error {x : Dec} (h : ∃ r, x = .error r) : ∃ r, keepWf x = .error r := by
  obtain ⟨r, rfl⟩ := h
  exact ⟨r, rfl⟩

/-- What the entry refuses it refuses whatever the fields that must be zero hold. -/
theorem keepWf_zeros_error {k : Dec} (h : ∃ r, keepWf k = .error r) (w : Nat) (fs : List (Nat × Nat)) :
    ∃ r, keepWf (zeros w fs k) = .error r := by
  by_cases hz : ∀ p ∈ fs, bits w p.1 p.2 = 0
  · rwa [zeros_of_forall hz]
  · simp only [Classical.not_forall] at hz
    obtain ⟨p, hp, hne⟩ := hz
    exact keepWf_error (zeros_error hp hne k)

/-- In slot 1 a word of the V class is read by its major (R170). -/
theorem decodeSlot_one_of_major {w mj : Nat} (h : w / 2 ^ 25 = mj) (hpos : 0 < mj) (hlt : mj < 2 ^ 6) :
    decodeSlot 1 w = keepWf (decV mj (w % 2 ^ 25)) := by
  have hw : w ≠ 0 := by rintro rfl; omega
  have hbit : bit w 31 = false := by simp only [bit, beq_eq_false_iff_ne]; omega
  simp only [decodeSlot, hw, hbit, h, Nat.ne_of_gt hpos, if_false, and_false, Bool.false_eq_true]

-- `mpop` and `mfirst` (R253)

/-- The frame of `mpop` and `mfirst`: sd in [24:20], ma in [17:15], the type in [4:0], zeros elsewhere. -/
def decMaskCount (w : Nat) (f : Fin 32 → Fin 8 → Fmt → Instr) : Dec :=
  zeros w [(18, 2), (5, 10)] (typ w fun t => .ok (f (fld 32 w 20) (fld 8 w 15) t))

theorem decV_mpop (w : Nat) : decV 0x2D w = decMaskCount w .mpop := by
  unfold decV
  simp only [decMaskCount]

theorem decV_mfirst (w : Nat) : decV 0x2E w = decMaskCount w .mfirst := by
  unfold decV
  simp only [decMaskCount]

/-- The fields of a word composed as R253 says. -/
theorem maskCount_fields {w mj : Nat} {d : Fin 32} {a : Fin 8} {t : Fmt}
    (h : w = mj * 2 ^ 25 + d.val * 2 ^ 20 + a.val * 2 ^ 15 + t.code) :
    w / 2 ^ 25 = mj ∧ fld 32 (w % 2 ^ 25) 20 = d ∧ fld 8 (w % 2 ^ 25) 15 = a ∧
      bits (w % 2 ^ 25) 18 2 = 0 ∧ bits (w % 2 ^ 25) 5 10 = 0 ∧ bits (w % 2 ^ 25) 0 5 = t.code := by
  have hcode := t.code_lt
  simp only [bits, fld, Fin.ext_iff, Fin.val_ofNat]
  omega

section
variable {w mj : Nat} {f : Fin 32 → Fin 8 → Fmt → Instr} (hpos : 0 < mj) (hlt : mj < 2 ^ 6)
  (hV : ∀ v, decV mj v = decMaskCount v f) (hf : ∀ d a t, (f d a t).wellFormed = (t != .f64))
include hpos hlt hV hf

/-- The word composed of the fields of R253 names its operation. -/
theorem decodeSlot_maskCount {d : Fin 32} {a : Fin 8} {t : Fmt} (ht : t ≠ .f64)
    (hw : w = mj * 2 ^ 25 + d.val * 2 ^ 20 + a.val * 2 ^ 15 + t.code) : decodeSlot 1 w = .ok (f d a t) := by
  obtain ⟨hmj, hd, ha, hhigh, hlow, htyp⟩ := maskCount_fields hw
  rw [decodeSlot_one_of_major hmj hpos hlt, hV]
  generalize w % 2 ^ 25 = v at *
  have hzeros : ∀ p ∈ [(18, 2), (5, 10)], bits v p.1 p.2 = 0 := List.forall_mem_cons.mpr ⟨hhigh, List.forall_mem_cons.mpr ⟨hlow, nofun⟩⟩
  rw [decMaskCount, zeros_of_forall hzeros, typ_of_code htyp, hd, ha, keepWf_ok ((hf d a t).trans (bne_iff_ne.mpr ht))]

/-- A reserved bit, `f64` or a reserved type code refuses the word. -/
theorem decodeSlot_maskCount_error (hw : w / 2 ^ 25 = mj)
    (h : bits w 18 2 ≠ 0 ∨ bits w 5 10 ≠ 0 ∨ bits w 0 5 = Fmt.f64.code ∨ 14 < bits w 0 5) :
    ∃ r, decodeSlot 1 w = .error r := by
  rw [← bits_mod w (by decide : 18 + 2 ≤ 25), ← bits_mod w (by decide : 5 + 10 ≤ 25), ← bits_mod w (by decide : 0 + 5 ≤ 25)] at h
  rw [decodeSlot_one_of_major hw hpos hlt, hV]
  generalize w % 2 ^ 25 = v at h
  obtain hne | hne | htyp := h
  · exact keepWf_error (zeros_error (p := (18, 2)) List.mem_cons_self hne _)
  · exact keepWf_error (zeros_error (p := (5, 10)) (List.mem_cons_of_mem _ List.mem_cons_self) hne _)
  · refine keepWf_zeros_error ⟨.function, ?_⟩ _ _
    obtain hcode | hcode := htyp
    · rw [typ_of_code hcode, keepWf_not_wellFormed (by rw [hf, bne_self_eq_false])]
    · rw [typ_reserved hcode, keepWf]

end

end Sys2Proof

namespace Sys2Proof.Spec
open Sys2Proof.Machine

theorem length_setBits (n : Nat) (m : Mask) : (setBits n m).length = (List.range n).countP fun i => m.getLsbD i :=
  List.countP_eq_length_filter.symm

/-- The first set bit of the lowest n, or n where none is set. -/
theorem headD_setBits (n : Nat) (m : Mask) : (setBits n m).headD n = (List.range n).findIdx fun i => m.getLsbD i := by
  have hle : (List.range n).findIdx (mbit m) ≤ n := by
    simpa only [List.length_range] using List.findIdx_le_length (p := mbit m) (xs := List.range n)
  change _ = (List.range n).findIdx (mbit m)
  rw [setBits, List.headD_eq_head?_getD, List.head?_filter, List.find?_eq_getElem?_findIdx]
  rcases Nat.lt_or_eq_of_le hle with hlt | heq
  · simp only [List.getElem?_range hlt, Option.getD_some]
  · rw [heq, List.getElem?_eq_none (Nat.le_of_eq List.length_range), Option.getD_none]

theorem exec_mpop (d : Fin 32) (a : Fin 8) (t : Fmt) (s : State) :
    exec (.mpop d a t) s = .next (s.push (.s d) (.s (BitVec.ofNat 64 (setBits (lanes t) (s.cx.mask a)).length)) 2 0) := rfl

theorem exec_mfirst (d : Fin 32) (a : Fin 8) (t : Fmt) (s : State) :
    exec (.mfirst d a t) s = .next (s.push (.s d) (.s (BitVec.ofNat 64 ((setBits (lanes t) (s.cx.mask a)).headD (lanes t)))) 2 0) := rfl

/-- Settles O8: both operations push one result from the set bits below L, and their words are read through the frame they share. -/
theorem maskCounts : Obligations.MaskCounts := by
  refine ⟨fun s d a t hbad => ⟨?_, ?_⟩, fun d a t ht => ⟨?_, ?_⟩, fun w hmajor hfields => ?_⟩
  · simpa only [length_setBits] using completes_push hbad (exec_mpop d a t s)
  · simpa only [headD_setBits] using completes_push hbad (exec_mfirst d a t s)
  · exact decodeSlot_maskCount (by decide) (by decide) decV_mpop (fun _ _ _ => rfl) ht rfl
  · exact decodeSlot_maskCount (by decide) (by decide) decV_mfirst (fun _ _ _ => rfl) ht rfl
  · obtain hw | hw := hmajor
    · exact decodeSlot_maskCount_error (by decide) (by decide) decV_mpop (fun _ _ _ => rfl) hw hfields
    · exact decodeSlot_maskCount_error (by decide) (by decide) decV_mfirst (fun _ _ _ => rfl) hw hfields

end Sys2Proof.Spec
